-- ==== Sys2Proof/Word.lean ====
section
/-!
DEFINITION. The word types of the machine (02_drill_state.md R18): a 32-bit lane element, a 64-bit uniform register or lane
mask, a byte of memory.
-/

namespace Sys2Proof

/-- One lane's 32-bit element of a vector register. -/
abbrev Word := BitVec 32

/-- A uniform register, a predicate, a lane mask, an address. -/
abbrev DWord := BitVec 64

/-- One byte of memory. -/
abbrev Byte := BitVec 8

end Sys2Proof
end

