-- ==== Sys2Proof/Config.lean ====
section
/-!
DEFINITION. What is fixed for the Kazoz K2 (R1: the figures of R13, R17 and the limits the chapters give) and the free values:
opaque constants, which no proof can evaluate, for what the manual leaves open.
-/

namespace Sys2Proof.Config

/-! Figures of the Kazoz K2 (01_device.md R13, R17). -/

def cores : Nat := 256
def slotsPerCore : Nat := 64
def slotsPerPartition : Nat := 16
/-- Granules of 8 vector registers in one partition's file (R13). -/
def vecGranules : Nat := 128
/-- Tile registers of one partition (R13). -/
def tileRegs : Nat := 64
/-- Accumulators of one partition (R13). -/
def accRegs : Nat := 32
def barriersPerCore : Nat := 64
def scratchLinesPerCore : Nat := 3072
/-- Bytes of scratchpad a workgroup can hold (R176). -/
def scratchMax : Nat := 393216
/-- Payload bytes of a LAUNCH with a placement map, at most (R339). -/
def launchLenMax : Nat := 131144
def l1Sets : Nat := 256
def l1Ways : Nat := 16
def pinnedWays : Nat := 12
def plotCacheEntries : Nat := 512
def glazeHeaderEntries : Nat := 512
/-- Bytes of one partition's checkpoint log (R33). -/
def logBytes : Nat := 16384
/-- Speculative lines of one chunk (R163). -/
def specLines : Nat := 64
def lockEntries : Nat := 32
def stackEntries : Nat := 4096
/-- Clocks a ready drill waits before it goes first in its partition (R237). -/
def ageCap : Nat := 4096
def heldEntries : Nat := 32
def dsbEntries : Nat := 256
def arbiterWindow : Nat := 4096
def arbiterBatch : Nat := 32
def tapeDepth : Nat := 65536
def tokens : Nat := 4096
def maxContexts : Nat := 64
def maxSessions : Nat := 256
def cmdidWindow : Nat := 4096
def journalSlots : Nat := 16384
def mscSets : Nat := 16384
def mscWays : Nat := 16
/-- 64 KiB frames of one 64 GiB stack. -/
def framesPerStack : Nat := 1048576
/-- First frame of a stack's pinned table area. The manual gives no place or size: DESIGN CHOICE (log 5). -/
def tableFrames : Nat := 1015808
def goodCoresPerCluster : Nat := 32
/-- Spare positions of a cluster: 34, of which 32 are enabled (R17). -/
def sparesPerCluster : Nat := 2
def lnchBytes : Nat := 64

/-! Free values. DESIGN CHOICE (log 2): arithmetic clocks one step of the model takes, from a counter in State. -/

/-- Arithmetic clocks that pass in the step numbered by the counter. The manual gives no latency that fixes it. -/
opaque elapsed : Nat → Nat

/-- A byte of a scratchpad sector that is absent and that no copy in flight targets, read by an engine. The manual states no value
(log 12). -/
opaque absentByte : Nat → BitVec 8

/-- Whether a drill that fetches a word which has been stored to since its last `fence.x` executes the old word: by the counter and the
address. The manual leaves open which (R100; log 3). -/
opaque holdsOldWord : Nat → Nat → Bool

/-- Which of the registers of one class at or above the allocation a register-range trap reports, as a place in their list. The manual
states none where a unit names several (log 31). -/
opaque reportedRegister : List Nat → Nat

/-- The 16-byte device nonce of the OPEN numbered by the counter (R338). -/
opaque nonce : Nat → BitVec 128

/-- HKDF-SHA-256 of RFC 5869 (R338): base key, salt (host nonce, device nonce), class byte and session number. -/
opaque hkdf : BitVec 256 → BitVec 128 → BitVec 128 → Nat → Nat → BitVec 256

/-- The AES-256-GMAC tag of a message's header and payload bytes under a key (R338). -/
opaque gmac : BitVec 256 → List Byte → BitVec 128

/-- The factory key printed on the module's label (R381). -/
opaque factoryKey : BitVec 256

/-- Good positions beyond 32 that the core test of a bring-up finds in a cluster, by the counter and the cluster. The manual states no result
of the test (R10, R382; log 70). -/
opaque sparesFound : Nat → Nat → Nat

/-- Whether Bolhorn's signature check admits an image: the bytes of the shared window from its first address on (R381). -/
opaque imageSigned : List (BitVec 8) → Bool

/-- The version number of an image (R369, event 0x85). -/
opaque imageVersion : List (BitVec 8) → Nat

/-- The element at a stored index that a map reads whose s or m lies outside the domain of its tile, by s, m, the index and the tile's bytes: the
manual states none, since a map that a command installs lies in it (R60, R62, R66; log 103). -/
opaque strayElement : Nat → Nat → Nat → List (BitVec 8) → BitVec 32

/-- A plot-table entry whose tile has a map that cannot be applied, since no descriptor of it is found, by the counter and its address: the manual
states no value for it, and no path returns the payload (R327; log 63). -/
opaque nodeEntry : Nat → Nat → BitVec 64

end Sys2Proof.Config
end

