-- ==== Sys2Proof/Syntax.lean ====
section
/-!
DEFINITION. The abstract syntax: one constructor per row of spec/opcode_table.json. The 210 rows with an encoding are the
instruction words (06_encoding.md); their fields are the table's fields, as natural numbers. The other 85 rows are the
machine's own steps and the messages it receives (95_what_each_step_holds.md); their arguments name the agent that steps
(d: a drill slot, core * 64 + slot; fill, cmd, demand, xfer: a number of a list of State; m: a Mirem message).
The order of the constructors has no meaning.
-/

namespace Sys2Proof

/-- A Mirem message as it arrives: the header fields of R339 and the payload bytes. `session` is the session of the
connection it arrived on; an OPEN arrives on a connection without one, and there `session` is the connection. -/
structure Msg where
  session : Nat
  cmdid : DWord
  asid : Nat
  reserved : Nat
  op : Nat
  len : Nat
  tag : BitVec 128
  payload : List Byte
  deriving DecidableEq, Repr

/-- A call of a collective group, as its messages name it: the group, and the call's number in it (R348). -/
structure GroupCall where
  group : Nat
  number : Nat
  deriving DecidableEq, Repr

/-- The instructions and steps of the Kazoz K2. -/
inductive Instr where
  /-- ADD (R112) Adds two vector operands per written lane, wrapping or saturating, for the i32 or n32 type. -/
  | add (t : Nat) (d : Nat) (a : Nat) (b : Nat)
  /-- SUB (R112) Subtracts vector operands per written lane, wrapping or saturating. -/
  | sub (t : Nat) (d : Nat) (a : Nat) (b : Nat)
  /-- MUL (R112) Multiplies vector operands per written lane, keeping the low 32 bits or saturating. -/
  | mul (t : Nat) (d : Nat) (a : Nat) (b : Nat)
  /-- MULH (R112) Writes the high half of the signed or unsigned product per written lane. -/
  | mulh (t : Nat) (d : Nat) (a : Nat) (b : Nat)
  /-- MIN (R112) Writes the lesser operand per written lane as a signed or unsigned value. -/
  | min (t : Nat) (d : Nat) (a : Nat) (b : Nat)
  /-- MAX (R112) Writes the greater operand per written lane as a signed or unsigned value. -/
  | max (t : Nat) (d : Nat) (a : Nat) (b : Nat)
  /-- ADDC (R113) Adds with carry in and carry out through predicate p14. -/
  | addc (d : Nat) (a : Nat) (b : Nat)
  /-- SUBB (R113) Subtracts with borrow in and borrow out through predicate p14. -/
  | subb (d : Nat) (a : Nat) (b : Nat)
  /-- ABS (R112) Writes the absolute value of a signed operand per written lane. -/
  | abs (d : Nat) (a : Nat)
  /-- NEG (R112) Writes the negation of a signed operand per written lane. -/
  | neg (d : Nat) (a : Nat)
  /-- INT_ARITH_64 (R112) Applies a table A function to 64-bit vector pairs. -/
  | intArith64 (f : Nat) (d : Nat) (a : Nat) (b : Nat)
  /-- INT_ARITH_VS (R111) Applies a table A function with the low 32 bits of a uniform second operand. -/
  | intArithVs (f : Nat) (d : Nat) (a : Nat) (sb : Nat)
  /-- INT_ARITH_64_VS (R111) Applies a table A function to 64-bit pairs with a uniform second operand. -/
  | intArith64Vs (f : Nat) (d : Nat) (a : Nat) (sb : Nat)
  /-- AND (R114) Bitwise AND of two vector operands per written lane. -/
  | and (d : Nat) (a : Nat) (b : Nat)
  /-- OR (R114) Bitwise OR of two vector operands per written lane. -/
  | or (d : Nat) (a : Nat) (b : Nat)
  /-- XOR (R114) Bitwise XOR of two vector operands per written lane. -/
  | xor (d : Nat) (a : Nat) (b : Nat)
  /-- ANDN (R114) Writes a AND NOT b per written lane. -/
  | andn (d : Nat) (a : Nat) (b : Nat)
  /-- NOT (R114) Writes the bitwise complement per written lane. -/
  | not (d : Nat) (a : Nat)
  /-- SHL (R114) Shifts left by the low byte of the second operand. -/
  | shl (d : Nat) (a : Nat) (b : Nat)
  /-- SHR (R114) Shifts right logically by the low byte of the second operand. -/
  | shr (d : Nat) (a : Nat) (b : Nat)
  /-- SRA (R114) Shifts right arithmetically by the low byte of the second operand. -/
  | sra (d : Nat) (a : Nat) (b : Nat)
  /-- ROL (R114) Rotates left by the count modulo the width. -/
  | rol (d : Nat) (a : Nat) (b : Nat)
  /-- POPC (R114) Counts the one bits per written lane. -/
  | popc (d : Nat) (a : Nat)
  /-- CLZ (R114) Counts leading zero bits per written lane. -/
  | clz (d : Nat) (a : Nat)
  /-- CTZ (R114) Counts trailing zero bits per written lane. -/
  | ctz (d : Nat) (a : Nat)
  /-- BREV (R114) Reverses the bit order per written lane. -/
  | brev (d : Nat) (a : Nat)
  /-- MOV (R114) Copies the operand bits per written lane. -/
  | mov (d : Nat) (a : Nat)
  /-- LOGIC_64 (R114) Applies a table B function to 64-bit vector pairs. -/
  | logic64 (f : Nat) (d : Nat) (a : Nat) (b : Nat)
  /-- LOGIC_VS (R111) Applies a table B function with a uniform second operand. -/
  | logicVs (f : Nat) (d : Nat) (a : Nat) (sb : Nat)
  /-- LOGIC_64_VS (R111) Applies a table B function to 64-bit pairs with a uniform second operand. -/
  | logic64Vs (f : Nat) (d : Nat) (a : Nat) (sb : Nat)
  /-- MAD (R117) Writes a times b plus c, wrapped to 32 bits, with c named by an OPC hint. -/
  | mad (d : Nat) (a : Nat) (b : Nat)
  /-- BFX_N32 (R117) Extracts an unsigned bit field per written lane. -/
  | bfxN32 (d : Nat) (a : Nat) (b : Nat)
  /-- BFX_I32 (R117) Extracts a sign-extended bit field per written lane. -/
  | bfxI32 (d : Nat) (a : Nat) (b : Nat)
  /-- BFI (R117) Inserts a bit field from b into a, with the field operand named by an OPC hint. -/
  | bfi (d : Nat) (a : Nat) (b : Nat)
  /-- LEA (R118) Forms a 64-bit address from a pair plus a shifted 32-bit index. -/
  | lea (k : Nat) (d : Nat) (a : Nat) (b : Nat)
  /-- CVTI (R119) Converts between integer widths by extension, wrapping or saturation. -/
  | cvti (c : Nat) (d : Nat) (a : Nat)
  /-- ADD_IMM (R115) Adds a sign-extended immediate pattern per written lane. -/
  | addImm (d : Nat) (a : Nat) (imm : Nat)
  /-- MUL_IMM (R115) Multiplies by an immediate pattern per written lane. -/
  | mulImm (d : Nat) (a : Nat) (imm : Nat)
  /-- AND_IMM (R115) Bitwise AND with an immediate pattern. -/
  | andImm (d : Nat) (a : Nat) (imm : Nat)
  /-- OR_IMM (R115) Bitwise OR with an immediate pattern. -/
  | orImm (d : Nat) (a : Nat) (imm : Nat)
  /-- XOR_IMM (R115) Bitwise XOR with an immediate pattern. -/
  | xorImm (d : Nat) (a : Nat) (imm : Nat)
  /-- SHIFT_IMM (R115) Shifts or rotates by an immediate count of 0 to 31. -/
  | shiftImm (d : Nat) (a : Nat) (o : Nat) (c : Nat)
  /-- LDI (R116) Writes an immediate pattern to every written lane. -/
  | ldi (d : Nat) (imm : Nat)
  /-- MOVK (R116) Writes an immediate pattern into the high register of a pair. -/
  | movk (d : Nat) (imm : Nat)
  /-- CMP (R121) Compares vector operands and writes one predicate bit per written lane. -/
  | cmp (t : Nat) (c : Nat) (p : Nat) (a : Nat) (b : Nat)
  /-- CMP_VS (R121) Compares a vector operand with a uniform operand per written lane. -/
  | cmpVs (t : Nat) (c : Nat) (p : Nat) (a : Nat) (sb : Nat)
  /-- SEL (R123) Selects per lane between two registers under a predicate. -/
  | sel (n : Nat) (d : Nat) (a : Nat) (b : Nat)
  /-- UNIFORM_ALU (R120) Applies a table D integer or logic function to 64-bit uniform registers. -/
  | uniformAlu (f : Nat) (d : Nat) (a : Nat) (b : Nat)
  /-- CMP_U (R122) Compares uniform registers and writes an all-ones or all-zeros predicate. -/
  | cmpU (t : Nat) (c : Nat) (p : Nat) (a : Nat) (b : Nat)
  /-- ADD_IMM_U (R120) Adds an immediate to a uniform register. -/
  | addImmU (d : Nat) (a : Nat) (imm : Nat)
  /-- MUL_IMM_U (R120) Multiplies a uniform register by an immediate. -/
  | mulImmU (d : Nat) (a : Nat) (imm : Nat)
  /-- AND_IMM_U (R120) Bitwise AND of a uniform register with an immediate. -/
  | andImmU (d : Nat) (a : Nat) (imm : Nat)
  /-- OR_IMM_U (R120) Bitwise OR of a uniform register with an immediate. -/
  | orImmU (d : Nat) (a : Nat) (imm : Nat)
  /-- XOR_IMM_U (R120) Bitwise XOR of a uniform register with an immediate. -/
  | xorImmU (d : Nat) (a : Nat) (imm : Nat)
  /-- SHIFT_IMM_U (R120) Shifts or rotates a uniform register by an immediate count of 0 to 63. -/
  | shiftImmU (d : Nat) (a : Nat) (o : Nat) (c : Nat)
  /-- LDI_U (R120) Writes a sign-extended immediate to a uniform register. -/
  | ldiU (d : Nat) (imm : Nat)
  /-- MOVK_U (R120) Writes an immediate into bits 63:32 of a uniform register. -/
  | movkU (d : Nat) (imm : Nat)
  /-- PAND (R124) ANDs two whole predicates. -/
  | pand (d : Nat) (a : Nat) (b : Nat)
  /-- POR (R124) ORs two whole predicates. -/
  | por (d : Nat) (a : Nat) (b : Nat)
  /-- PXOR (R124) XORs two whole predicates. -/
  | pxor (d : Nat) (a : Nat) (b : Nat)
  /-- PNOT (R124) Complements a whole predicate. -/
  | pnot (d : Nat) (a : Nat)
  /-- PMOV_PP (R124) Copies one predicate to another. -/
  | pmovPp (d : Nat) (a : Nat)
  /-- PCNT (R125) Counts the set bits of a predicate into a uniform register. -/
  | pcnt (d : Nat) (a : Nat)
  /-- PFIRST (R125) Writes the index of the lowest set predicate bit, or 64. -/
  | pfirst (d : Nat) (a : Nat)
  /-- PMOV_SP (R125) Copies a predicate into a uniform register. -/
  | pmovSp (d : Nat) (a : Nat)
  /-- PMOV_PS (R125) Copies a uniform register into a predicate. -/
  | pmovPs (d : Nat) (a : Nat)
  /-- BRA (R127) Branches the active lanes selected by a predicate, pushing a pending path when divergent. -/
  | bra (h : Nat) (n : Nat) (p : Nat) (o : Nat)
  /-- JMP (R129) Jumps to a relative target without touching em or the stack. -/
  | jmp (o : Nat)
  /-- CALL (R129) Pushes a call-return entry and jumps to the target. -/
  | call (o : Nat)
  /-- RCV (R128) Pushes a reconvergence point naming the target. -/
  | rcv (o : Nat)
  /-- JMP_REG (R129) Jumps to the address held in a uniform register. -/
  | jmpReg (a : Nat)
  /-- RDSR (R132) Reads a special register into a uniform register. -/
  | rdsr (d : Nat) (n : Nat)
  /-- WRSR (R132) Writes a special register from a uniform register. -/
  | wrsr (n : Nat) (a : Nat)
  /-- RDSR_V (R132) Reads a special register into a vector register. -/
  | rdsrV (d : Nat) (n : Nat)
  /-- FADD (R137) Adds f32 operands with one rounding. -/
  | fadd (d : Nat) (a : Nat) (b : Nat)
  /-- FSUB (R137) Subtracts f32 operands with one rounding. -/
  | fsub (d : Nat) (a : Nat) (b : Nat)
  /-- FMUL (R137) Multiplies f32 operands with one rounding. -/
  | fmul (d : Nat) (a : Nat) (b : Nat)
  /-- FMA (R137) Fused multiply-add in f32 with one rounding, c named by an OPC hint. -/
  | fma (d : Nat) (a : Nat) (b : Nat)
  /-- FMIN (R138) Returns the lesser f32 operand with NaN and signed-zero rules. -/
  | fmin (d : Nat) (a : Nat) (b : Nat)
  /-- FMAX (R138) Returns the greater f32 operand with NaN and signed-zero rules. -/
  | fmax (d : Nat) (a : Nat) (b : Nat)
  /-- FDIV (R139) Divides f32 operands with one rounding and special values. -/
  | fdiv (d : Nat) (a : Nat) (b : Nat)
  /-- FSQRT (R139) Takes the correctly rounded f32 square root. -/
  | fsqrt (d : Nat) (a : Nat)
  /-- FRCP (R139) Takes the correctly rounded f32 reciprocal. -/
  | frcp (d : Nat) (a : Nat)
  /-- FRSQ (R139) Takes the correctly rounded f32 reciprocal square root. -/
  | frsq (d : Nat) (a : Nat)
  /-- FRND (R140) Rounds to an integral f32 value in the mode's direction. -/
  | frnd (d : Nat) (a : Nat)
  /-- FABS (R141) Clears the sign bit. -/
  | fabs (d : Nat) (a : Nat)
  /-- FNEG (R141) Inverts the sign bit. -/
  | fneg (d : Nat) (a : Nat)
  /-- FCPSGN (R141) Writes a with the sign bit of b. -/
  | fcpsgn (d : Nat) (a : Nat) (b : Nat)
  /-- FCLS (R142) Writes a one-hot class mask of the operand. -/
  | fcls (d : Nat) (a : Nat)
  /-- FP_F16 (R137) Applies a table E function in f16. -/
  | fpF16 (f : Nat) (d : Nat) (a : Nat) (b : Nat)
  /-- FP_BF16 (R137) Applies a table E function in bf16. -/
  | fpBf16 (f : Nat) (d : Nat) (a : Nat) (b : Nat)
  /-- FP_VS (R136) Applies a table E f32 function with a uniform second operand. -/
  | fpVs (f : Nat) (d : Nat) (a : Nat) (sb : Nat)
  /-- FEX2 (R144) Computes 2 to the power a, correctly rounded. -/
  | fex2 (d : Nat) (a : Nat)
  /-- FLG2 (R144) Computes log2 a, correctly rounded. -/
  | flg2 (d : Nat) (a : Nat)
  /-- FSIN (R144) Computes sin a with exact argument reduction. -/
  | fsin (d : Nat) (a : Nat)
  /-- FCOS (R144) Computes cos a with exact argument reduction. -/
  | fcos (d : Nat) (a : Nat)
  /-- FTANH (R144) Computes tanh a, correctly rounded. -/
  | ftanh (d : Nat) (a : Nat)
  /-- FADD_IMM (R143) Adds an f32 immediate pattern. -/
  | faddImm (d : Nat) (a : Nat) (imm : Nat)
  /-- FMUL_IMM (R143) Multiplies by an f32 immediate pattern. -/
  | fmulImm (d : Nat) (a : Nat) (imm : Nat)
  /-- FCMP (R145) Compares floating operands and writes predicate bits. -/
  | fcmp (t : Nat) (c : Nat) (p : Nat) (a : Nat) (b : Nat)
  /-- CVT (R147) Converts one element between formats with rounding and saturation rules. -/
  | cvt (f : Nat) (d : Nat) (a : Nat) (e : Nat) (src : Nat)
  /-- PK2_F16 (R149) Packs two f32 values into an f16 pair. -/
  | pk2F16 (d : Nat) (a : Nat) (b : Nat)
  /-- PK2_BF16 (R149) Packs two f32 values into a bf16 pair. -/
  | pk2Bf16 (d : Nat) (a : Nat) (b : Nat)
  /-- UPK2_F16 (R149) Unpacks an f16 pair into two f32 registers. -/
  | upk2F16 (d : Nat) (a : Nat)
  /-- UPK2_BF16 (R149) Unpacks a bf16 pair into two f32 registers. -/
  | upk2Bf16 (d : Nat) (a : Nat)
  /-- HADD2_F16 (R150) Adds packed f16 pairs. -/
  | hadd2F16 (d : Nat) (a : Nat) (b : Nat)
  /-- HMUL2_F16 (R150) Multiplies packed f16 pairs. -/
  | hmul2F16 (d : Nat) (a : Nat) (b : Nat)
  /-- HFMA2_F16 (R150) Fused multiply-add on packed f16 pairs. -/
  | hfma2F16 (d : Nat) (a : Nat) (b : Nat)
  /-- HMIN2_F16 (R150) Elementwise minimum of packed f16 pairs. -/
  | hmin2F16 (d : Nat) (a : Nat) (b : Nat)
  /-- HMAX2_F16 (R150) Elementwise maximum of packed f16 pairs. -/
  | hmax2F16 (d : Nat) (a : Nat) (b : Nat)
  /-- HADD2_BF16 (R150) Adds packed bf16 pairs. -/
  | hadd2Bf16 (d : Nat) (a : Nat) (b : Nat)
  /-- HMUL2_BF16 (R150) Multiplies packed bf16 pairs. -/
  | hmul2Bf16 (d : Nat) (a : Nat) (b : Nat)
  /-- HFMA2_BF16 (R150) Fused multiply-add on packed bf16 pairs. -/
  | hfma2Bf16 (d : Nat) (a : Nat) (b : Nat)
  /-- HMIN2_BF16 (R150) Elementwise minimum of packed bf16 pairs. -/
  | hmin2Bf16 (d : Nat) (a : Nat) (b : Nat)
  /-- HMAX2_BF16 (R150) Elementwise maximum of packed bf16 pairs. -/
  | hmax2Bf16 (d : Nat) (a : Nat) (b : Nat)
  /-- IADD2 (R151) Adds packed 16-bit integer pairs, wrapping or saturating. -/
  | iadd2 (t : Nat) (d : Nat) (a : Nat) (b : Nat)
  /-- IMAX2 (R151) Elementwise maximum of packed 16-bit integers. -/
  | imax2 (t : Nat) (d : Nat) (a : Nat) (b : Nat)
  /-- IMIN2 (R151) Elementwise minimum of packed 16-bit integers. -/
  | imin2 (t : Nat) (d : Nat) (a : Nat) (b : Nat)
  /-- LD (R158) Loads a value per written lane from the drill's view of memory. -/
  | ld (o : Nat) (d : Nat) (base : Nat) (v : Nat) (c : Nat)
  /-- ST (R159) Stores each written lane's data as speculative data of the chunk. -/
  | st (o : Nat) (d : Nat) (base : Nat) (v : Nat) (c : Nat)
  /-- LDU (R158) Loads one value for the drill into a uniform register. -/
  | ldu (o : Nat) (d : Nat) (base : Nat)
  /-- ATOM (R165) Performs a 32-bit read-modify-write per written lane, returning the old value. -/
  | atom (o : Nat) (d : Nat) (base : Nat) (v : Nat) (c : Nat)
  /-- ATOM_CAS (R165) Performs a 32-bit compare-and-swap per written lane with the new value named by OPC. -/
  | atomCas (d : Nat) (base : Nat) (v : Nat) (c : Nat)
  /-- ATOM64 (R165) Performs a 64-bit read-modify-write on pairs per written lane. -/
  | atom64 (o : Nat) (d : Nat) (base : Nat) (v : Nat) (c : Nat)
  /-- ATOM64_CAS (R165) Performs a 64-bit compare-and-swap on pairs per written lane. -/
  | atom64Cas (d : Nat) (base : Nat) (v : Nat) (c : Nat)
  /-- RED (R166) Sends each written lane's operand to be combined into memory at commit. -/
  | red (o : Nat) (d : Nat) (base : Nat) (v : Nat) (c : Nat)
  /-- PF_L1 (R167) Prefetches each written lane's line into L1. -/
  | pfL1 (base : Nat) (v : Nat) (c : Nat)
  /-- PF_MC (R167) Prefetches each written lane's line into the memory-side cache. -/
  | pfMc (base : Nat) (v : Nat) (c : Nat)
  /-- CHK_BEG (R168) Ends the current chunk and opens an explicit chunk with a fallback address. -/
  | chkBeg (o : Nat)
  /-- CHK_ABT (R170) Aborts the explicit chunk with cause 6 and a code. -/
  | chkAbt (c : Nat)
  /-- FLR (R175) Ends the chunk and writes back newer memory-side lines of a range. -/
  | flr (a : Nat) (b : Nat)
  /-- IVR (R175) Invalidates clean L1 lines of a range. -/
  | ivr (a : Nat) (b : Nat)
  /-- DROP (R175) Forms a chunk that discards memory-side lines of a range without write-back. -/
  | drop (a : Nat) (b : Nat)
  /-- SCR_GROW (R176) Ends the chunk and asks to add pinned scratchpad lines, all or none. -/
  | scrGrow (d : Nat) (a : Nat)
  /-- SCR_SHRK (R177) Ends the chunk and removes scratchpad lines from the top. -/
  | scrShrk (d : Nat) (a : Nat)
  /-- SCR_WAIT (R178) Waits until every sector of a scratchpad range is present. -/
  | scrWait (a : Nat) (b : Nat)
  /-- PLP (R179) Reads the plot descriptor covering an address. -/
  | plp (d : Nat) (a : Nat)
  /-- SHFL (R182) Copies values between lanes by a per-lane index. -/
  | shfl (d : Nat) (a : Nat) (b : Nat)
  /-- LSCAN_ADD_I32 (R185) Inclusive integer sum scan over contributing lanes. -/
  | lscanAddI32 (d : Nat) (a : Nat) (p : Nat)
  /-- LSCAN_ADD_F32 (R185) Inclusive f32 sum scan in ascending lane order. -/
  | lscanAddF32 (d : Nat) (a : Nat) (p : Nat)
  /-- LSCAN_MAX_I32 (R185) Inclusive signed maximum scan. -/
  | lscanMaxI32 (d : Nat) (a : Nat) (p : Nat)
  /-- LSCAN_MIN_I32 (R185) Inclusive signed minimum scan. -/
  | lscanMinI32 (d : Nat) (a : Nat) (p : Nat)
  /-- LSCAN_MAX_F32 (R185) Inclusive f32 maximum scan. -/
  | lscanMaxF32 (d : Nat) (a : Nat) (p : Nat)
  /-- LSCAN_MIN_F32 (R185) Inclusive f32 minimum scan. -/
  | lscanMinF32 (d : Nat) (a : Nat) (p : Nat)
  /-- LRED_ADD_I32 (R185) Integer sum reduction over contributing lanes. -/
  | lredAddI32 (d : Nat) (a : Nat) (p : Nat)
  /-- LRED_ADD_F32 (R185) f32 sum reduction in ascending lane order. -/
  | lredAddF32 (d : Nat) (a : Nat) (p : Nat)
  /-- LRED_MAX_I32 (R185) Signed maximum reduction. -/
  | lredMaxI32 (d : Nat) (a : Nat) (p : Nat)
  /-- LRED_MIN_I32 (R185) Signed minimum reduction. -/
  | lredMinI32 (d : Nat) (a : Nat) (p : Nat)
  /-- LRED_MAX_F32 (R185) f32 maximum reduction. -/
  | lredMaxF32 (d : Nat) (a : Nat) (p : Nat)
  /-- LRED_MIN_F32 (R185) f32 minimum reduction. -/
  | lredMinF32 (d : Nat) (a : Nat) (p : Nat)
  /-- BCST (R182) Broadcasts the lane named by a uniform register. -/
  | bcst (d : Nat) (a : Nat) (sb : Nat)
  /-- BCST_IMM (R182) Broadcasts an immediate-numbered lane. -/
  | bcstImm (d : Nat) (a : Nat) (n : Nat)
  /-- LXB_LO (R183) Exchanges lanes at a power-of-two stride, low result. -/
  | lxbLo (f : Nat) (d : Nat) (a : Nat) (b : Nat)
  /-- LXB_HI (R183) Exchanges lanes at a power-of-two stride, high result. -/
  | lxbHi (f : Nat) (d : Nat) (a : Nat) (b : Nat)
  /-- VOTE_ANY (R184) Writes whether any written lane's predicate bit is set. -/
  | voteAny (p : Nat) (a : Nat)
  /-- VOTE_ALL (R184) Writes whether every written lane's predicate bit is set. -/
  | voteAll (p : Nat) (a : Nat)
  /-- VOTE_UNI (R184) Writes whether the written lanes' predicate bits agree. -/
  | voteUni (p : Nat) (a : Nat)
  /-- BAR_REG (R187) Ends the chunk and registers the drill with a barrier. -/
  | barReg (b : Nat)
  /-- BAR_ARV (R187) Ends the chunk and arrives at a barrier. -/
  | barArv (b : Nat)
  /-- BAR_WT (R187) Ends the chunk and waits while the drill's arrival is pending. -/
  | barWt (b : Nat)
  /-- BAR_DRP (R187) Ends the chunk and unregisters the drill from a barrier. -/
  | barDrp (b : Nat)
  /-- TRAP (R192) Raises the software trap with a code. -/
  | trap (n : Nat)
  /-- SLEEP (R193) Stops issue until sr.time passes a given number of nanoseconds. -/
  | sleep (a : Nat)
  /-- FLTQ (R194) Reads the context's count of fault records written. -/
  | fltq (d : Nat)
  /-- MMA (R212) Multiplies two tiles into an accumulator with one rounding per output. -/
  | mma (f : Nat) (d : Nat) (a : Nat) (b : Nat) (x : Nat) (y : Nat)
  /-- MMAS (R212) Scaled e2m1 multiply-accumulate with block and band scales. -/
  | mmas (d : Nat) (a : Nat) (b : Nat) (x : Nat) (y : Nat) (u : Nat)
  /-- TLD (R205) Loads 32 rows from memory into a tile register. -/
  | tld (t : Nat) (base : Nat) (v : Nat) (c : Nat)
  /-- TST (R205) Stores a tile register's rows to memory. -/
  | tst (t : Nat) (base : Nat) (v : Nat) (c : Nat)
  /-- ACLD (R205) Loads 32 rows from memory into an accumulator. -/
  | acld (a : Nat) (base : Nat) (v : Nat) (c : Nat)
  /-- ACST (R205) Stores an accumulator's rows to memory. -/
  | acst (a : Nat) (base : Nat) (v : Nat) (c : Nat)
  /-- TMV_BF16 (R208) Converts 8 f32 registers into a bf16 tile. -/
  | tmvBf16 (t : Nat) (a : Nat)
  /-- TMV_F16 (R208) Converts 8 f32 registers into an f16 tile. -/
  | tmvF16 (t : Nat) (a : Nat)
  /-- TMV_E4M3 (R208) Converts 16 f32 registers into an e4m3 tile. -/
  | tmvE4m3 (t : Nat) (a : Nat)
  /-- TMV_E5M2 (R208) Converts 16 f32 registers into an e5m2 tile. -/
  | tmvE5m2 (t : Nat) (a : Nat)
  /-- TMV_E2M1 (R208) Quantises 32 f32 registers into an e2m1 tile with a side-band from a register. -/
  | tmvE2m1 (t : Nat) (a : Nat) (b : Nat)
  /-- TMV_RAW (R208) Moves raw bytes from 4 registers into a tile. -/
  | tmvRaw (t : Nat) (a : Nat)
  /-- TMV_TO_VEC (R208) Moves a tile's raw bytes into 4 vector registers. -/
  | tmvToVec (d : Nat) (t : Nat)
  /-- ACMV_TO_VEC (R209) Moves an accumulator into 16 vector registers. -/
  | acmvToVec (d : Nat) (a : Nat)
  /-- ACMV_FROM_VEC (R209) Moves 16 vector registers into an accumulator. -/
  | acmvFromVec (c : Nat) (a : Nat)
  /-- TZERO (R210) Zeroes a tile's payload and sets its side-band to 0x60. -/
  | tzero (t : Nat)
  /-- ACZ (R210) Sets every accumulator element to +0. -/
  | acz (a : Nat)
  /-- EXPH (R214) Adds an accumulator's exponent histogram into scratchpad bins. -/
  | exph (a : Nat) (sb : Nat)
  /-- ADAMW (R216) Applies one AdamW step to w, m and v in each active lane. -/
  | adamw (d : Nat) (a : Nat) (sb : Nat)
  /-- GLZ_SCL (R226) Ends the chunk and composes a scale map onto each tile of a range. -/
  | glzScl (run : Nat) (n : Nat)
  /-- GLZ_OFF (R226) Composes an offset map onto each tile of a range. -/
  | glzOff (run : Nat) (n : Nat)
  /-- GLZ_CLP (R226) Composes a clamp map onto each tile of a range. -/
  | glzClp (run : Nat) (n : Nat)
  /-- GLZ_FIL (R226) Installs a constant fill map on each tile of a range. -/
  | glzFil (run : Nat) (n : Nat)
  /-- GLZ_PRM (R226) Composes an element permutation onto each tile of a range. -/
  | glzPrm (run : Nat) (n : Nat)
  /-- GLZ_MAP (R226) Composes a whole six-field map onto each tile of a range. -/
  | glzMap (run : Nat) (n : Nat)
  /-- GLZ_FIRE (R227) Fires every non-identity tile of a range. -/
  | glzFire (run : Nat) (n : Nat)
  /-- GLZ_RDH (R227) Writes the raw headers of a tile range to memory. -/
  | glzRdh (run : Nat) (n : Nat)
  /-- ENG_CPY (R228) Ends the chunk and copies bytes between global memory or scratchpad. -/
  | engCpy (run : Nat) (n : Nat)
  /-- ENG_GTH (R230) Gathers indexed table rows into a destination. -/
  | engGth (run : Nat) (p : Nat) (n : Nat)
  /-- ENG_GRD (R231) Sums weighted indexed rows into bags at the destination's kiln. -/
  | engGrd (run : Nat) (p : Nat) (n : Nat)
  /-- ENG_SCT (R230) Scatters source rows into indexed table rows. -/
  | engSct (run : Nat) (p : Nat) (n : Nat)
  /-- ENG_COL (R233) Performs a collective across the ranks of a group. -/
  | engCol (run : Nat) (f : Nat) (k : Nat) (n : Nat)
  /-- ENG_WT (R224) Ends the chunk and parks until a token reaches a count or has ERR. -/
  | engWt (run : Nat) (d : Nat)
  /-- ENG_TST (R224) Ends the chunk and reads a token word at once. -/
  | engTst (run : Nat) (d : Nat)
  /-- TAPE_PUSH (R234) Pushes a launch-record address onto the context's tape. -/
  | tapePush (run : Nat) (d : Nat)
  /-- TAPE_TURN (R235) Starts or joins a replay of the tape into a queue. -/
  | tapeTurn (run : Nat) (d : Nat)
  /-- LNCH (R195) Ends the chunk and appends a launch to the drill's own context. -/
  | lnch (run : Nat) (q : Nat)
  /-- ILLEGAL_INSTRUCTION (R109) Decoding a unit with an illegal or reserved word or field raises the decode trap. -/
  | illegalInstruction (kind : Nat) (detail : Nat) (addr : Nat)
  /-- CHUNK_LIMIT_REACHED (R239) The chunk's dynamic-instruction count reaches LIMIT and the chunk ends. -/
  | chunkLimitReached (d : Nat)
  /-- INSTRUCTION_COMPLETE (R201) An instruction in flight, such as an MMA, writes its results and releases the scoreboard. -/
  | instructionComplete (d : Nat)
  /-- FILL_RETURN (R249) A fill arrives at the core, delivers waiting loads and installs unless stale. -/
  | fillReturn (fill : Nat)
  /-- COMMIT_PREPARE (R242) Once the chunk's loads have data, the core sends prepares of dirty grains to their homes. -/
  | commitPrepare (d : Nat)
  /-- COMMIT_REQUEST (R242) The core sends the chunk's R, W and horizon to its arbiter slice. -/
  | commitRequest (d : Nat)
  /-- HOME_APPLY_COMMIT (R244) A home makes stamped chunks' data visible in CSN order, merging, reducing and firing. -/
  | homeApplyCommit (home : Nat)
  /-- BROADCAST_APPLY (R244) A core applies a commit's W, invalidating clean grains and squashing meeting chunks. -/
  | broadcastApply (core : Nat)
  /-- SOLO_GRANT (R247) A slice grants a solo reservation to a chunk squashed four times. -/
  | soloGrant (d : Nat)
  /-- STREAM_ACK (R256) A home acknowledges a streaming store once it is visible. -/
  | streamAck (home : Nat) (csn : Nat)
  /-- SLEEP_EXPIRY (R193) sr.time reaches the sleep's end and the drill issues again. -/
  | sleepExpiry (d : Nat)
  /-- BARRIER_OPERATION (R187) After its chunk is stamped, a barrier instruction's registration, arrival or wait takes effect. -/
  | barrierOperation (d : Nat)
  /-- COMMAND_HANDOFF (R217) After the chunk's stamp, the core reads the run, checks ranges, takes locks and hands the command to its engine. -/
  | commandHandoff (d : Nat)
  /-- LNCH_APPEND (R195) After the chunk's stamp and fence, the command processor reads the record and appends the launch. -/
  | lnchAppend (d : Nat)
  /-- SECTOR_LAND (R272) An engine destination sector lands in scratchpad and sets its presence bit. -/
  | sectorLand (cmd : Nat)
  /-- ENGINE_CHUNK_COMMIT (R220) A command completes; its global writes and header edits commit at one CSN and its token is signalled. -/
  | engineChunkCommit (cmd : Nat)
  /-- ENGINE_FAIL (R223) A command fails, writes no global memory, appends an engine-error record and signals ERR. -/
  | engineFail (cmd : Nat) (code : Nat)
  /-- ENG_WT_RETURN (R224) The awaited token reaches its count or ERR; streaming lines are invalidated and the word written. -/
  | engWtReturn (d : Nat)
  /-- SCR_GROW_COMPLETE (R176) The scratchpad conversion finishes and the drill resumes with the new size. -/
  | scrGrowComplete (d : Nat)
  /-- RESUME_WORKGROUP (R298) A saved workgroup is placed again and its state restored before issue. -/
  | resumeWorkgroup (wg : Nat)
  /-- PREEMPT (R298) A workgroup is stopped at chunk boundaries, saved and its resources freed. -/
  | preempt (wg : Nat)
  /-- WORKGROUP_EXIT (R278) After the last exit commits and commands drain, scratchpad, barriers and slots are freed. -/
  | workgroupExit (wg : Nat)
  /-- WORKGROUP_KILL (R279) Ends a workgroup at once, squashing chunks and cancelling commands in flight. -/
  | workgroupKill (wg : Nat)
  /-- LAUNCH_COMPLETE (R291) Every workgroup has ended and the launch's token is signalled. -/
  | launchComplete (jsn : Nat)
  /-- TAPE_POP (R235) During replay, the top record is popped, read and appended as a launch. -/
  | tapePop (asid : Nat)
  /-- HOME_FILL_REQUEST (R313) A home serves a fill, walking its page table on a memory-side cache miss. -/
  | homeFillRequest (fill : Nat)
  /-- WALK_RESTART (R313) A walk waiting on MIG restarts at level 1 once MIG clears. -/
  | walkRestart (fill : Nat)
  /-- HOME_PREPARE (R351) A home accepts a prepare, deferring writes to non-resident pages or refusing when full. -/
  | homePrepare (home : Nat) (d : Nat)
  /-- PAGE_FETCH_COMPLETE (R360) The paging agent has the page, makes it resident and lets the kiln replay its entries. -/
  | pageFetchComplete (demand : Nat)
  /-- BACKING_TIMEOUT (R360) A backing source fails to deliver within 100 ms; the agent retries or declares it unreachable. -/
  | backingTimeout (demand : Nat)
  /-- AGE_CAP (R237) A ready drill's wait reaches 4,096 clk and it takes priority in issue. -/
  | ageCap (d : Nat)
  /-- MEM_WRITE_COMMIT (R345) All bytes of a host write have arrived and commit as one engine chunk. -/
  | memWriteCommit (xfer : Nat)
  /-- COLLECTIVE_FINISH (R349) A rank receives the finish message and commits its destination. -/
  | collectiveFinish (cmd : Nat)
  /-- PWRCAP (R378) Writes the package power cap. -/
  | pwrcap (xfer : Nat)
  /-- GATE (R379) Gates or restores clusters with their stacks. -/
  | gate (xfer : Nat)
  /-- KEY (R381) Writing the fourth key word installs the module key. -/
  | key (xfer : Nat)
  /-- HDRRES (R381) Sets the table frames each stack reserves for header blocks. -/
  | hdrres (xfer : Nat)
  /-- UPDATE (R381) Starts a Bolhorn update from a signed image. -/
  | update (xfer : Nat)
  /-- BSRC (R380) Writes a backing-source table entry. -/
  | bsrc (xfer : Nat)
  /-- MGMT_REG_WRITE_OTHER (R380) A write to a read-only or unlisted management register returns status 2. -/
  | mgmtRegWriteOther (xfer : Nat)
  /-- FLR_WRITE_BACK_DONE (R175) The homes finish writing back the newer memory-side lines of an flr range and the waiting drill may issue again. -/
  | flrWriteBackDone (d : Nat)
  /-- BACKING_NO_SUCH_PAGE (R360) A backing source answers that it holds no such page, and the locator is judged invalid at once, without a retry. -/
  | backingNoSuchPage (demand : Nat)
  /-- GATE_TRANSITION_END (R379) A gating or restoring transition of a cluster and its stack completes, and waiting GATE writes and parked accesses may proceed. -/
  | gateTransitionEnd (cluster : Nat)
  /-- PAGE_WAIT_TIMEOUT (R362) A drill waiting over 100 µs on a non-resident page has its workgroup pre-empted. -/
  | pageWaitTimeout (d : Nat)
  /-- FRAME_MOVE (R318) A home moves a page between frames of its own stack. -/
  | frameMove (home : Nat) (table : Nat) (key : Nat) (la : Nat)
  /-- RESIDUE_MISMATCH (R38) A residue or parity check fails; the chunk is squashed and re-run once. -/
  | residueMismatch (d : Nat)
  /-- ECC_ERROR (R365) An ECC error is corrected or handled per structure. -/
  | eccError (unit : Nat) (loc : Nat) (corrected : Bool)
  /-- CORE_REPAIR (R370) Bolhorn drains a core and maps a spare into its logical number. -/
  | coreRepair (core : Nat)
  /-- BANK_RETIRE (R371) A cache-layer bank is written back, invalidated and retired. -/
  | bankRetire (stack : Nat) (bank : Nat)
  /-- PORT_FAILURE (R372) A port fails; traffic moves to other ports while it retrains. -/
  | portFailure (port : Nat)
  /-- PORT_RELINKED (R372) A retrained port links again and event 0x84 is journaled. -/
  | portRelinked (port : Nat) (outage : Nat)
  /-- POWER_ADJUST (R378) Each millisecond the issue share moves one step toward the power cap. -/
  | powerAdjust (watts : Nat)
  /-- BRING_STAGE_DONE (R382) A bring-up stage completes and BRING advances, or stops with FAIL. -/
  | bringStageDone (fail : Nat)
  /-- UNSUPPORTED_PACKET (R337) A packet asking for an unsupported option is dropped and counted. -/
  | unsupportedPacket (port : Nat)
  /-- OPEN (R341) Opens a session of a class and derives its key. -/
  | openMsg (m : Msg)
  /-- CLOSE (R341) Closes the session on which it arrives after its reply. -/
  | closeMsg (m : Msg)
  /-- DATA (R341) Carries bytes of a MEM.WRITE or MEM.READ transfer. -/
  | dataMsg (m : Msg)
  /-- CTX_CREATE (R343) Creates a context from a 128-byte payload. -/
  | ctxCreate (m : Msg)
  /-- CTX_DESTROY (R340) Kills a context's work and frees its ASID and tokens. -/
  | ctxDestroy (m : Msg)
  /-- LAUNCH (R342) Checks and appends a host launch record to a queue. -/
  | launch (m : Msg)
  /-- CANCEL (R340) Fails a named launch with code 10. -/
  | cancel (m : Msg)
  /-- TOKEN_READ (R342) Returns a token word. -/
  | tokenRead (m : Msg)
  /-- TOKEN_SET (R342) Replaces a token word and returns the old one. -/
  | tokenSet (m : Msg)
  /-- TOKEN_SIGNAL (R342) Signals a token, optionally setting ERR. -/
  | tokenSignal (m : Msg)
  /-- MEM_WRITE (R345) Starts a host write whose data follows as DATA messages. -/
  | memWrite (m : Msg)
  /-- MEM_READ (R346) Reads a range at one CSN and returns it as DATA messages. -/
  | memRead (m : Msg)
  /-- PLOT_SET (R308) Writes a plot descriptor or interior entry and drops cached copies. -/
  | plotSet (m : Msg)
  /-- PAGE_MAP (R316) Maps a page at a home, resident or with a locator. -/
  | pageMap (m : Msg)
  /-- PAGE_MAKE_RESIDENT (R316) Fills a frame from the locator and replays deferred stores. -/
  | pageMakeResident (m : Msg)
  /-- PAGE_EVICT (R316) Writes back a page to its backing and marks it not resident. -/
  | pageEvict (m : Msg)
  /-- PAGE_UNMAP (R316) Removes a page's mapping after writing back its lines. -/
  | pageUnmap (m : Msg)
  /-- TAPE_TURN_CMD (R342) Host command that turns the tape into a queue. -/
  | tapeTurnCmd (m : Msg)
  /-- GROUP_CFG (R348) Configures or extends a collective group. -/
  | groupCfg (m : Msg)
  /-- JOURNAL_READ (R367) Returns up to 1,024 journal records from a JSN. -/
  | journalRead (m : Msg)
  /-- STATUS (R342) Returns device state, present cores and open sessions. -/
  | statusMsg (m : Msg)
  /-- MIREM_RESERVED_OP (R340) A command with a reserved opcode receives status 2. -/
  | miremReservedOp (m : Msg)
  /-- COLLECTIVE_STAGED_REPORT (R349) A rank reports to rank 0 that its share is staged. -/
  | collectiveStagedReport (call : GroupCall) (rank : Nat)
  /-- COLLECTIVE_TIMEOUT (R349) A peer or rank 0 is unreachable for 100 ms and the collective fails with code 10. -/
  | collectiveTimeout (cmd : Nat)
  /-- PLOT_MIGRATION_MOVE (R317) Each old home of a migrating plot drains its commits and deferred stores, writes back, copies its pages to the new home and unmaps them while the new home maps them. -/
  | plotMigrationMove (key : Nat) (plot : Nat) (target : Nat)
  /-- COLLECTIVE_RECEIPT (R233) A rank receives collective data or partial values from a peer over a peer session and combines them in the canonical tree. -/
  | collectiveReceipt (call : GroupCall) (rank : Nat) (flags : Nat) (count : Nat) (root : Nat) (values : List Word)
  /-- NOP (R131) Advances the PC only. -/
  | nop
  /-- JOIN (R128) Pops a pending path or reconvergence point and resumes it. -/
  | join
  /-- RET (R129) Pops a call-return entry and resumes at its PC, or traps on underflow. -/
  | ret
  /-- EXIT (R130) Ends the drill and its chunk, discarding pending paths. -/
  | exit
  /-- YIELD (R131) Lets the partition issue from another ready drill first. -/
  | yield
  /-- CHK_END (R168) Ends the explicit chunk, which commits whole. -/
  | chkEnd
  /-- FENCE_S (R172) Ends the chunk and waits for streaming acknowledgements, then invalidates streaming lines. -/
  | fenceS
  /-- FENCE_X (R173) Ends the chunk, waits for its commit and discards fetched instruction words. -/
  | fenceX
  /-- TRET (R192) Returns from a trap handler to s60 with em from s63. -/
  | tret
  /-- ORDER_TOKEN_VISIT (R243) The slice holding the order token stamps or refuses up to 32 waiting requests. -/
  | orderTokenVisit
  /-- PLACE_WORKGROUP (R293) When resources fit, the command processor places the next workgroup of an eligible launch. -/
  | placeWorkgroup
  /-- TIME_SLICE (R297) Every 2 ms, waiting heads pre-empt long-running equal-priority workgroups. -/
  | timeSlice
  /-- BOLHORN_UPDATE_DONE (R373) The update finishes and deferred signals, placements and paging are applied in order. -/
  | bolhornUpdateDone
  /-- MODULE_RESET (R382) Module reset starts bring-up from the reset state. -/
  | moduleReset
  deriving DecidableEq, Repr

end Sys2Proof
end

