-- ==== Sys2Proof/Machine/State.lean ====
section
/-!
DEFINITION. The state of the machine: everything the spec names, as plain data. A `Map` lists (key, value) pairs with rising
keys; a register file or a memory lists only the entries that differ from the value an unlisted entry reads as.
-/

namespace Sys2Proof.Machine

open Sys2Proof

/-- Pairs with rising keys. -/
abbrev Map (α : Type) := List (Nat × α)

/-- Memory: `Host.Cell` pairs with rising addresses, no byte zero listed (R253: a byte never written reads as zero). -/
abbrev Memory := List Host.Cell

/-! ### A drill (02_drill_state.md) -/

/-- KIND of a divergence-stack entry (R26). -/
inductive EntryKind where
  | reconverge
  | pending
  | callReturn
  deriving DecidableEq, Repr

/-- One divergence-stack entry with its PC word (R26). -/
structure StackEntry where
  kind : EntryKind
  mask : DWord
  pc : DWord
  deriving DecidableEq, Repr

/-- What a squash restores (R35): every register of a drill, `em`, the stack, the PC and the trap-handler bit (R189).
Element L of vN is entry 64N + L of `v`; byte b of tN is entry 1024N + b of `tile`; side-band byte b of tN is entry 256N + b of
`side`, 0x60 where unlisted; element e of aN is entry 1024N + e of `acc`. `stack` holds the core-held entries of the divergence stack, newest
first, and `spilled` counts those in the spill region (R26). -/
structure Regs where
  pc : DWord
  em : DWord
  stack : List StackEntry
  spilled : Nat
  v : Map Word
  u : Map DWord
  p : Map DWord
  tile : Map Byte
  side : Map Byte
  acc : Map Word
  status : DWord
  seed : DWord
  round : DWord
  trapvec : DWord
  h : Bool
  deriving DecidableEq, Repr

/-- A ROUND hint's payload (R97). -/
structure RoundHint where
  sat : Bool
  md : Bool
  mode : Nat
  deriving DecidableEq, Repr

/-- The hints of a unit's run (R97). -/
structure Hints where
  limm : Option Nat
  guard : Option (Bool × Nat)
  round : Option RoundHint
  cache : Option (Bool × Nat)
  opc : Option Nat
  offset : Option Int
  deriving DecidableEq, Repr

/-- The unit in execution: its run, the address of its first word and its length in words (R99). -/
structure UnitCtx where
  hints : Hints
  first : DWord
  words : Nat
  deriving DecidableEq, Repr

/-- A read or write signature: four banks of 512 bits (R241). -/
structure Sig where
  b0 : BitVec 512
  b1 : BitVec 512
  b2 : BitVec 512
  b3 : BitVec 512
  deriving DecidableEq, Repr

/-- An item of the checkpoint log (R33). -/
inductive LogItem where
  | vec (n : Nat)
  | tile (n : Nat)
  | acc (n : Nat)
  | uni (n : Nat)
  | pred (n : Nat)
  | em
  | status
  | round
  | seed
  | trapvec
  | fault
  | depth
  | entry (n : Nat)
  deriving DecidableEq, Repr

/-- Where a speculative line lies (R163, R265): a line of a global plot by treatment, of the scratchpad, of a private stack or of
the spill region. -/
inductive LineKind where
  | tracked
  | streaming
  | uncached
  | scratch
  | priv
  | spill
  deriving DecidableEq, Repr

/-- One 128-byte speculative line of a chunk, and the grain or tile it belongs to (R265). -/
structure SpecLine where
  kind : LineKind
  line : Nat
  deriving DecidableEq, Repr

/-- A reduction a chunk carries (R166): op code of major 0x5D, byte address (a code of `Ops`, or a scratchpad offset), operand. -/
structure Red where
  scratch : Bool
  addr : Nat
  op : Nat
  value : DWord
  deriving DecidableEq, Repr

/-- An uncached atomic carried to its home (R163, R165): the drill, register and lane that receive the old value, the target's
address code, op code, width, operand and the value `cas` writes. -/
structure AtomOp where
  drill : Nat
  reg : Nat
  lane : Nat
  addr : Nat
  op : Nat
  wide : Bool
  v : Nat
  vn : Nat
  deriving DecidableEq, Repr

/-- An entry of the store-PC log (R359): the sector, the first unit that wrote it and the kind of write (1 store, 2 red, 3 atom). -/
structure StorePc where
  sector : Nat
  pc : DWord
  kind : Nat
  deriving DecidableEq, Repr

/-- A global grain a chunk writes: address code and size, key, VA, the descriptor the access was checked under, the access's
priority in the memory-side cache (R162, R242). -/
structure GrainUse where
  addr : Nat
  size : Nat
  key : Nat
  va : Nat
  desc : DWord
  prio : Nat
  deriving DecidableEq, Repr

/-- An explicit chunk: the address of its `chk.beg` and its fallback (R168). -/
structure Expl where
  beg : DWord
  fallback : DWord
  deriving DecidableEq, Repr

/-- A chunk (13_drills_and_chunks.md). `spec` holds the speculative bytes of global memory by address code, `scratch` those of
the scratchpad by offset; `grains` the global grains written or reduced into; `eps` the priority of the last store or atomic to each 128-byte line of
them, by key * 2^41 + VA / 128 (R162, R268); `touched` and `reduced` the keys of the grains
read or written and of those reduced into (R164); `refs` the tiles, by key * 2^48 + VA, whose speculative lines refer to a header that is
not identity (R325, R326); `plots` the tags of the plots accessed (R308); `after` the instruction whose operation follows the stamp (R197), or, in the
chunk that follows, the operation still to be performed; `replayed` that it runs again for a residue mismatch (R38). -/
structure Chunk where
  start : Regs
  units : Nat
  limit : Nat
  sq : Nat
  expl : Option Expl
  solo : Bool
  rsig : Sig
  wsig : Sig
  wglob : Sig
  spec : Map Byte
  scratch : Map Byte
  grains : List GrainUse
  eps : Map Nat
  lines : List SpecLine
  refs : List Nat
  plots : List Nat
  reds : List Red
  atoms : List AtomOp
  touched : List DWord
  reduced : List DWord
  pcs : List StorePc
  logged : List LogItem
  lastUse : List Nat
  fault : Option DWord
  drops : List (Nat × Nat × Nat)
  replayed : Bool
  after : Option Instr
  afterUnit : UnitCtx
  deriving DecidableEq, Repr

/-- How far an ended chunk has come (R242). -/
inductive Phase where
  | ended
  | preparing (homes : List Nat)
  | prepared
  | requested
  deriving DecidableEq, Repr

/-- The older of a drill's two chunks, whose commit is under way (R245). -/
structure Older where
  chunk : Chunk
  phase : Phase
  deriving DecidableEq, Repr

/-- Why a drill issues nothing. -/
inductive Wait where
  | none
  /-- the drill's own chunk has to be stamped before the operation of its last unit (R197, R245) -/
  | stamp
  /-- checkpoint-log room, or ways of an L1 set, held by other chunks of the core (R34, R268) -/
  | log
  /-- commits, broadcasts or a reservation of others that the unit has to come after; it tries again as they proceed (R163, R244,
  R247) -/
  | order
  /-- parked on barrier b (R187) -/
  | barrier (b : Nat)
  /-- `sleep`, until this `sr.time` (R193) -/
  | sleep (ns : Nat)
  /-- a page that is not resident, named by its demand (R161, R360) -/
  | page (demand : Nat)
  /-- absent scratchpad sectors (R160, R178) -/
  | sector
  /-- a plot with M set, or a gated home (R161, R379) -/
  | migrating
  /-- an uncached `atom` whose old values a home still holds back (R354) -/
  | atom
  /-- a write of its own chunk that needs a deferred-store entry where its home has none free (R353) -/
  | room
  /-- `eng.wt`: token, value, destination register (R224) -/
  | token (index : Nat) (value : Nat) (d : Nat)
  /-- `fence.s`: acknowledgements outstanding (R172) -/
  | fence
  /-- `flr`: write-backs of a range outstanding (R175) -/
  | flr (va len : Nat)
  /-- `scr.grow`: destination register and the size granted in lines, whose ways are awaited (R176) -/
  | grow (d : Nat) (lines : Nat)
  /-- `scr.shrk`: destination register and bytes, while a command targets the removed lines (R177) -/
  | shrink (d : Nat) (bytes : Nat)
  /-- `lnch`: the command processor has not read the record (R195) -/
  | lnch
  /-- the drill has executed `exit` and its last chunk is committing (R130) -/
  | exiting
  /-- a command waits for range-lock entries (R219) -/
  | locks
  /-- an unhandled trap stopped the drill at its unit (R191) -/
  | stopped
  deriving DecidableEq, Repr

/-- A resident drill. Its slot is its key in `State.drills`: core * 64 + slot (R10, R12). `nv`, `nt`, `na` are the rounded
counts of R19, `priv` the base of its private area (R310), `reg` its registration mask (R186), `waited` the clocks for which its next
unit has been held back only by its partition's choice (R237), `pendingStreams` the streaming
stores its homes have not acknowledged, by home and CSN (R172), `fetched` the instruction words it has
fetched, or may have before a store to them, by VA, `fenced` the CSN up to which it sees every word (R100, R173). -/
structure Drill where
  wg : Nat
  index : Nat
  asid : Nat
  launch : Nat
  nv : Nat
  nt : Nat
  na : Nat
  priv : Nat
  regs : Regs
  chunk : Chunk
  older : Option Older
  csn : Nat
  reg : BitVec 16
  wait : Wait
  order : Nat
  waited : Nat
  yielded : Bool
  inflight : Nat
  pendingStreams : List (Nat × Nat)
  fetched : Map Word
  fenced : Nat := 0
  deriving DecidableEq, Repr

/-! ### Workgroups, launches, contexts (19_launches_and_contexts.md) -/

/-- A barrier object (R186, R301). -/
structure Barrier where
  e : Nat
  a : BitVec 16
  g : Word
  deriving DecidableEq, Repr

/-- Where a workgroup stands: its drills issue; every drill has exited and its commands are awaited (R278); stopped for a
pre-emption, for a move in repair or not (R298, R366); stopped for a kill (R279); saved. -/
inductive WgState where
  | resident
  | draining
  | stopping
  | ending
  | saved
  deriving DecidableEq, Repr

/-- What no save area holds of a saved drill: the acknowledgements of streaming stores it still awaits (R172, R300). -/
structure Kept where
  streams : List (Nat × Nat)
  deriving DecidableEq, Repr

/-- A workgroup placed and not yet ended. `area` is the address of its save area in the context's pool and `areaLen` its bytes;
`sectors` the scratchpad sectors present; `size` its lines; `privs` the private areas of its drills, by index; `spoiled` that
a value of it failed its check on a quarantined core (R269, R270, R272, R301, R310, R366). -/
structure Workgroup where
  launch : Nat
  asid : Nat
  index : Nat
  core : Nat
  state : WgState
  slots : Map Nat
  ndrills : Nat
  privs : List Nat
  nbar : Nat
  barriers : Map Barrier
  size : Nat
  base : Nat
  scratch : Memory
  sectors : List Nat
  nextSeq : Nat
  preempts : Nat
  area : Nat
  areaLen : Nat
  kept : Map Kept
  since : Nat
  waitsFor : Option Nat
  spoiled : Bool
  deriving DecidableEq, Repr

/-- The fields of a launch record (R288), and whether a reserved bit of it is set. -/
structure LaunchRec where
  entry : Nat
  drills : Nat
  nosig : Bool
  vregs : Nat
  args : Nat
  tiles : Nat
  accs : Nat
  cooperative : Bool
  placemap : Bool
  turn : Bool
  conc : Bool
  nx : Nat
  ny : Nat
  nz : Nat
  scratch : Nat
  barriers : Nat
  nwait : Nat
  signal : Nat
  waits : List (Nat × Nat)
  reservedSet : Bool
  deriving DecidableEq, Repr

/-- A launch accepted (R286, R289): `next` is the next workgroup to place, `ended` how many have ended, `failed` its code; `mapAt`
the address of its placement map until that is read (R294), `turnOf` the turn whose replay popped it (R235), `csn` the highest CSN of its
chunks and engine chunks, which its record takes as it completes (R368), `waiting` the clock at which it became an eligible head or a workgroup
of it was last placed (R297). -/
structure Launch where
  asid : Nat
  queue : Nat
  record : LaunchRec
  map : Option (List Nat)
  mapAt : Nat
  turnOf : Option Nat
  next : Nat
  ended : Nat
  eligible : Bool
  started : Bool
  failed : Option Nat
  csn : Nat := 0
  waiting : Nat := 0
  deriving DecidableEq, Repr

/-- A context (R286, R343), with the replay of its tape (R235): the turn's journal number and queue, the launch waited for; `lastQueue` the queue
last served of each priority (R296); `cause` the DETAIL its discards take once it is dead (R358). -/
structure Context where
  sup : Bool
  policy : Nat
  qexist : BitVec 16
  qpri : DWord
  queues : Map (List Nat)
  lastQueue : Map Nat
  tape : List Nat
  replay : Option (Nat × Nat)
  replayWait : Option Nat
  tokens : Map DWord
  mask : BitVec 256
  root : Nat
  rootHome : Nat
  privBase : Nat
  privLen : Nat
  poolBase : Nat
  poolLen : Nat
  pointer : Nat
  faultq : DWord
  faultCount : Nat
  dead : Bool
  cause : Nat
  waiting : Nat
  deriving DecidableEq, Repr

/-! ### Cores (15_core_memory.md) -/

/-- A glaze map (R60), fields as f32 patterns. -/
structure GMap where
  a : Word
  b : Word
  lo : Word
  hi : Word
  sh : Nat
  m : Nat
  deriving DecidableEq, Repr

/-- A clean L1 line (R265): its key, the VA of its first byte, log2 of its grain, its valid sectors, its priority, whether its
plot is glazed; `data` holds, by offset, the bytes of a streaming line (a tracked line's are the committed ones). -/
structure L1Line where
  key : Nat
  va : Nat
  gbits : Nat
  streaming : Bool
  sectors : BitVec 4
  prio : Nat
  glazed : Bool
  data : Map Byte
  deriving DecidableEq, Repr

/-- A range-lock entry (R275), with the command that holds it. -/
structure Lock where
  cmd : Nat
  key : Nat
  base : Nat
  len : Nat
  dest : Bool
  deriving DecidableEq, Repr

/-- A core. `l1` its clean lines, most recently used first, `plots` its plot cache by
key * 2^32 + VA[47:16], most recent first; `glaze` the entries of its glaze header table that clean lines refer to, by key * 2^48 + VA
of the tile (R325); `last` the drill that issued last in each partition (R237); `repair` 1 while it is
drained for a repair, 2 while it is quarantined (R366, R370); `spared` the spares mapped into its number so far; `epoch`
the clock at its last reset (R28). -/
structure Core where
  absent : Bool
  gatedOff : Bool
  draining : Bool
  pointer : Nat
  rotor : Nat
  l1 : List L1Line
  plots : List (Nat × DWord)
  glaze : List (Nat × GMap)
  locks : List Lock
  last : Map Nat
  epoch : Nat
  repair : Nat
  spared : Nat
  deriving DecidableEq, Repr

/-! ### Memory side (20, 21, 25) -/

/-- A tile's header (R320): its map, its version, and the check code as stored (R321). -/
structure Header where
  map : GMap
  ver : BitVec 16
  chk : BitVec 16
  deriving DecidableEq, Repr

/-- Who wrote a sector (R357, R359): sector offset in its grain, PC, WHO, kind of write, token, launch or host command. -/
structure Attr where
  off : Nat
  pc : DWord
  who : Nat
  kind : Nat
  token : Nat
  launch : Nat
  deriving DecidableEq, Repr

/-- What one commit writes into one grain (R242, R351): the grain's address code and size, key and VA, the descriptor, bytes by
offset, reductions, uncached atomics, a firing, a header edit, and the priority of the access (R277). -/
structure GrainWrite where
  addr : Nat
  size : Nat
  key : Nat
  va : Nat
  desc : DWord
  bytes : Map Byte
  reds : List Red
  atoms : List AtomOp
  fire : Bool
  edit : Option GMap
  prio : Nat
  asid : Nat
  attrs : List Attr
  deriving DecidableEq, Repr

/-- A deferred-store buffer entry: a grain's writes and their CSN (R351), and how many of its two copies are good (R365). -/
structure Deferred where
  csn : Nat
  write : GrainWrite
  copies : Nat
  deriving DecidableEq, Repr

/-- A prepare held at a home for a drill's ended chunk (R242). -/
structure Prepare where
  drill : Nat
  grains : List GrainWrite
  deriving DecidableEq, Repr

/-- A line of the memory-side cache (R314, R324): line address code / 512, its first byte's 64 KiB frame, its valid sectors, priority
(R277), the summary bit, and the headers of its tiles that have changed since the line's fill, by tile address code. Most recently used
first in its list. -/
structure McLine where
  line : Nat
  frame : Nat
  sectors : BitVec 16
  prio : Nat
  summary : Bool
  headers : Map Header
  deriving DecidableEq, Repr

/-- A header block of a home's directory (R322): the page's address code / 65536, the GRAIN code of its tiles, the frame it lies in
and its place there in units of 4 KiB. -/
structure Block where
  page : Nat
  grain : Nat
  frame : Nat
  place : Nat
  deriving DecidableEq, Repr

/-- A fault record before it is written (R357): everything but NUM. `asid` is the context whose queue it goes to, `key` its ASID field:
the key of the grain, or the context. -/
structure FaultRec where
  asid : Nat
  key : Nat
  kind : Nat
  detail : Nat
  mask : Nat
  va : Nat
  who : Nat
  pc : Nat
  token : Nat
  csn : Nat
  launch : Nat
  plot : Nat
  loc : Nat
  deriving DecidableEq, Repr

/-- A home controller with its stack: `nodes` counts the 256-byte units of its page-table nodes, `blocks` is its header directory: a
page it does not name has no block (R311, R322). -/
structure Home where
  dsb : List Deferred
  prepares : List Prepare
  lines : List McLine
  retired : List Nat
  gated : Bool
  nodes : Nat
  blocks : List Block
  deriving DecidableEq, Repr

/-- Who has asked for a page without waiting in its name: a drill of a workgroup that waits for room at a home or for its launch record, a command by
its number, a launch whose placement map is read, a workgroup that is saved or resumed, a context for its tape or its fault-record queue (R353, R360). -/
inductive Asker where
  | drill (k : Nat) (wg : Nat)
  | engine (id : Nat)
  | launch (jsn : Nat)
  | workgroup (id : Nat)
  | context (asid : Nat)
  deriving DecidableEq, Repr

/-- A demand for a page (R360): home, table kind (0 direct, 1 interleaved), key, page LA, whether a first fetch failed, and who has asked for it beside
the drills that wait for it and the stores deferred on it; the host's commands name it themselves (R346, R361). -/
structure Demand where
  home : Nat
  table : Nat
  key : Nat
  la : Nat
  retried : Bool
  askers : List Asker
  deriving DecidableEq, Repr

/-- A fill a prefetch has asked for (R167, R249): the core, the grain's key, first byte and descriptor, the priority, whether it
is for the memory-side cache only; the data and the tile's map once served; whether a broadcast has made it stale, or its walk met MIG; the unit that asked. -/
structure Fill where
  core : Nat
  asid : Nat
  key : Nat
  va : Nat
  desc : DWord
  prio : Nat
  memSide : Bool
  served : Bool
  stale : Bool
  mig : Bool
  attr : Attr
  map : GMap
  data : List Byte
  deriving DecidableEq, Repr

/-- A commit request at an arbiter slice (R242). -/
structure Request where
  drill : Nat
  slice : Nat
  key : Nat
  r : Sig
  w : Sig
  horizon : Nat
  deriving DecidableEq, Repr

/-- A stamped commit (R243, R244): its W under a key, the part of it that is broadcast, the homes that have still to apply it with their grains, the ranges and
lines it drops, the plots whose descriptors it changes (key, first, how many; R308), whether its broadcast is released, and the
cores that have still to apply it. -/
structure Commit where
  csn : Nat
  key : Nat
  all : Bool
  w : Sig
  wb : Sig
  grains : List GrainWrite
  homes : List Nat
  drops : List (Nat × Nat × Nat)
  lastUse : List Nat
  plot : Option (Nat × Nat × Nat)
  cores : List Nat
  released : Bool
  deriving DecidableEq, Repr

/-- A solo reservation (R247): the drill, its key, the grains registered with the slices, and the CSN received as the last of them was. -/
structure Solo where
  drill : Nat
  key : Nat
  grains : List DWord
  seen : Nat := 0
  deriving DecidableEq, Repr

/-! ### Engines (12_glaze_and_engine_commands.md) -/

/-- A command handed to its engine (R217): major, op and flags, its operand run, and how far it has come: the scratchpad sectors it
still targets and those of them present at the hand-over, the sectors read and still to land, how many have landed, the count of indices (R229); and, for a
collective, its call number, the ranks' values received, the ranks that reported to rank 0, whether its own share is staged and
whether finish has come (R349). -/
structure Command where
  wg : Nat
  drill : Nat
  index : Nat
  core : Nat
  asid : Nat
  launch : Nat
  pc : DWord
  major : Nat
  op : Nat
  flags : Nat
  run : List DWord
  seq : Nat
  landing : List (Nat × List Byte)
  targets : List Nat
  had : List Nat
  landed : Nat
  count : Nat
  values : Map (List Word)
  reports : List Nat
  staged : Bool
  finished : Bool
  call : Nat
  deriving DecidableEq, Repr

/-! ### Host (24_host_and_peers.md, 25, 27) -/

/-- A reply (R339), in the order sent. -/
structure Reply where
  session : Nat
  cmdid : DWord
  jsn : Nat
  csn : Nat
  result : DWord
  status : Nat
  payload : List Byte
  tag : BitVec 128
  deriving DecidableEq, Repr

/-- A DATA message the device sends (R346). -/
structure DataOut where
  session : Nat
  cmdid : DWord
  offset : Nat
  bytes : List Byte
  tag : BitVec 128
  deriving DecidableEq, Repr

/-- An open session (R338): class 0 management, 1 command, 2 bulk, 3 peer; consecutive tag failures, and all of them; drop count; the last
CMDIDs with their replies (R344). -/
structure Session where
  cls : Nat
  key : BitVec 256
  group : Nat
  fails : Nat
  badTags : Nat
  dropped : Nat
  done : List (DWord × Option Reply)
  deriving DecidableEq, Repr

/-- A MEM.WRITE in flight (R345), by its journal number: its CMDID, where it goes, the bulk session its data comes on, the bytes
that have arrived, and whether a DATA message broke R341. `mgmt` that it is a write of a management register (R380). -/
structure Transfer where
  cmdid : DWord
  asid : Nat
  addr : Nat
  len : Nat
  bulk : Nat
  mgmt : Bool
  got : Map Byte
  bad : Bool
  deriving DecidableEq, Repr

/-- A command accepted that has not taken effect (R344): its number, its message, the demand a MEM.READ or page operation waits for
and whether that was lost (R346, R316); for a PLOT.SET under way, its CSN and the old value (R308); `cls` the class of its session. -/
structure Pending where
  jsn : Nat
  cls : Nat
  msg : Msg
  demand : Option Nat
  lost : Bool
  csn : Nat
  result : DWord
  deriving DecidableEq, Repr

/-- A peer's call of a group, by its number, with its rank, its flags, element count and root, and the values it sends (R348). -/
structure PeerCall where
  call : Nat
  rank : Nat
  flags : Nat
  count : Nat
  root : Nat
  values : List Word
  deriving DecidableEq, Repr

/-- A collective group (R348): `calls` counts the device's own calls; `early` holds peers' calls whose number the device has not come to, and
`reported` the staged reports of such calls, by call and rank. -/
structure Group where
  p : Nat
  own : Nat
  key : BitVec 256
  ranks : Map (BitVec 128)
  calls : Nat
  early : List PeerCall
  reported : List (Nat × Nat)
  deriving DecidableEq, Repr

/-- A port: linked, its drop counter (R337, R372). -/
structure Port where
  up : Bool
  drops : Nat
  deriving DecidableEq, Repr

/-- STATE of a journal record (R368). -/
inductive JState where
  | accepted
  | started
  | completed
  | failed
  deriving DecidableEq, Repr

/-- A journal record (R368); its JSN is its key. `launch` that a launch or turn is journaled in it, as R340 and R369 tell a launch from a
command refused: no field of the 64 bytes. -/
structure JRec where
  csn : Nat
  cmdid : DWord
  asid : Nat
  session : Nat
  op : Nat
  status : Nat
  state : JState
  da : Nat
  db : Nat
  time : Nat
  ref : Nat
  launch : Bool := false
  deriving DecidableEq, Repr

/-- What the command processor defers while Bolhorn is updated (R373). -/
inductive Postponed where
  | event (i : Instr)
  | signal (asid index : Nat) (err : Bool)
  deriving DecidableEq, Repr

/-- Bring-up, power and the management registers (R377 to R382): `moving` the clusters in transition and whether each is being
gated, `updating` the version an update brings, `keyLow` the KEY words written so far, `spares` the good spare cores that the core test
found, by cluster (R10, R382). -/
structure Mgmt where
  bring : Nat
  fail : Nat
  pwrcap : Nat
  pwrnow : Nat
  share : Nat
  gate : BitVec 8
  moving : List (Nat × Bool)
  key : BitVec 256
  keyWritten : Bool
  keyLow : Map DWord
  hdrres : Nat
  bsrc : Map (DWord × Nat)
  updating : Option Nat
  version : Nat
  deferred : List Postponed
  spares : Map Nat
  deriving DecidableEq, Repr

/-! ### The machine -/

/-- Why a step stops. -/
inductive Fault where
  /-- Raised by `exec` of an instruction word when `State.cur` names no resident drill: an instruction is a drill's (R18), and
  no drill executes here. Safe: no run selects such a state, `step` picks a resident drill. -/
  | noDrill
  deriving DecidableEq, Repr

/-- Why an instruction has no meaning. -/
inductive Refusal where
  /-- Raised by an arm of `exec` that has no meaning yet. Safe: nothing is claimed of such an instruction. -/
  | notModelled (mnemonic : String)
  deriving DecidableEq, Repr

/-- The state of the device. -/
structure State where
  /-- events enabled and not yet taken, in the order they will be (the model's own field, log 1) -/
  agenda : List Instr
  /-- the drill slot whose unit executes (the model's own field, log 1) -/
  cur : Nat
  /-- the unit in execution (R99) -/
  unit : UnitCtx
  /-- the partition whose turn it is to issue, core * 4 + partition (the model's own field, log 1) -/
  turn : Nat
  /-- counter the free values are applied to (the model's own field, log 2) -/
  tick : Nat
  /-- arithmetic clocks since module reset (R16, R28) -/
  clock : Nat
  drills : Map Drill
  wgs : Map Workgroup
  launches : Map Launch
  ctxs : Map Context
  cores : Map Core
  homes : Map Home
  /-- bytes of the stacks' bulk layers, by address code (home, table, key, LA) -/
  bulk : Memory
  /-- bytes the memory-side caches hold newer than bulk -/
  newer : Map Byte
  /-- sectors whose check code does not match their data, by address code / 32 (R363, R364) -/
  bad : List Nat
  /-- scratchpad sectors with an uncorrectable error, by workgroup and sector (R365) -/
  badScratch : List (Nat × Nat)
  /-- page-table entries, by home, table, key, level and index (R311, R312) -/
  pt : Map DWord
  /-- frame-owner entries of the frames below the pinned table areas, by home * 2^20 + frame (R315) -/
  owners : Map DWord
  /-- headers that differ from the reset header, by tile address code (R320, R322) -/
  headers : Map Header
  /-- the locator each page the paging agent fetched came from, by page code (R360) -/
  origins : Map Nat
  demands : Map Demand
  fills : Map Fill
  /-- root of the global key's plot table: interior entry (R342, PLOT.SET level 3) -/
  globalRoot : DWord
  token : Nat
  nextCsn : Nat
  requests : List Request
  commits : List Commit
  solos : List Solo
  cmds : Map Command
  /-- records that have reached the fault unit and not been appended yet (R356) -/
  records : List FaultRec
  nextId : Nat
  nextOrder : Nat
  sessions : Map Session
  ports : List Port
  transfers : Map Transfer
  groups : Map Group
  journal : Map JRec
  nextJsn : Nat
  replies : List Reply
  sent : List DataOut
  /-- commands accepted that have not taken effect, in the order of their numbers (R344) -/
  held : List Pending
  /-- those of them to be tried again, by number (the model's own field, log 1) -/
  retry : List Nat
  /-- pages of the backing sources, by source * 2^36 + page * 2^16 + offset (R360) -/
  backing : Map Byte
  mgmt : Mgmt
  deriving DecidableEq, Repr

/-! ### Reset -/

def Hints.empty : Hints :=
  { limm := none, guard := none, round := none, cache := none, opc := none, offset := none }

def UnitCtx.empty : UnitCtx :=
  { hints := Hints.empty, first := 0, words := 1 }

def Sig.empty : Sig := { b0 := 0, b1 := 0, b2 := 0, b3 := 0 }

/-- A core as it leaves reset (R236, R270). -/
def Core.reset : Core :=
  { absent := false, gatedOff := false, draining := false, pointer := 0, rotor := 0, l1 := [], plots := [], glaze := [],
    locks := [], last := [], epoch := 0, repair := 0, spared := 0 }

/-- A home after reset: nothing cached, nothing deferred, no nodes and no header blocks. -/
def Home.reset : Home :=
  { dsb := [], prepares := [], lines := [], retired := [], gated := false, nodes := 0, blocks := [] }

/-- Management state at reset (R380, R382): BRING in state 0, no cap, no gate. -/
def Mgmt.reset : Mgmt :=
  { bring := 0, fail := 0, pwrcap := 0, pwrnow := 0, share := 16, gate := 0, moving := [], key := 0,
    keyWritten := false, keyLow := [], hdrres := 0, bsrc := [], updating := none, version := 0, deferred := [], spares := [] }

/-- The machine right after module reset (R382): BRING 0, no session, no context, no drill, memory with nothing listed, the
journal and the commit order at their start. -/
def State.reset : State :=
  { agenda := [], cur := 0, unit := UnitCtx.empty, turn := 0, tick := 0, clock := 0, drills := [], wgs := [], launches := [],
    ctxs := [], cores := [], homes := [], bulk := [], newer := [], bad := [], badScratch := [], pt := [], owners := [],
    headers := [], origins := [], demands := [], fills := [], globalRoot := 0, token := 0, nextCsn := 1, requests := [], commits := [],
    solos := [], cmds := [], records := [], nextId := 0, nextOrder := 0, sessions := [],
    ports := [⟨false, 0⟩, ⟨false, 0⟩, ⟨false, 0⟩, ⟨false, 0⟩, ⟨false, 0⟩, ⟨false, 0⟩, ⟨false, 0⟩, ⟨false, 0⟩],
    transfers := [], groups := [], journal := [], nextJsn := 1, replies := [], sent := [], held := [], retry := [], backing := [],
    mgmt := Mgmt.reset }

end Sys2Proof.Machine
end

