-- ==== Sys2Proof/Machine/Maps.lean ====
section
/-!
DEFINITION. Reading and writing a `Map`: a lookup, a sorted insertion that replaces, a removal; and the same with a default
value that is never listed, which is how register files and memories are held.
-/

namespace Sys2Proof.Machine

/-- The value at a key, if any. -/
def Map.find {α : Type} (l : Map α) (k : Nat) : Option α :=
  match l with
  | [] => none
  | (k', x) :: t => if k = k' then some x else Map.find t k

/-- The pairs whose key is not `k`. -/
def Map.erase {α : Type} (l : Map α) (k : Nat) : Map α :=
  l.filter (fun c => c.1 != k)

/-- The map with `x` at `k`: in place of what stands there, else before the first larger key. -/
def Map.set {α : Type} (l : Map α) (k : Nat) (x : α) : Map α :=
  match l with
  | [] => [(k, x)]
  | (k', y) :: t => if k < k' then (k, x) :: (k', y) :: t else if k = k' then (k, x) :: t else (k', y) :: Map.set t k x

/-- The value at a key, or the default. -/
def Map.get {α : Type} (dflt : α) (l : Map α) (k : Nat) : α :=
  match Map.find l k with
  | some x => x
  | none => dflt

/-- The map with `x` at `k`, listing nothing where `x` is the default. -/
def Map.put {α : Type} [DecidableEq α] (dflt : α) (l : Map α) (k : Nat) (x : α) : Map α :=
  if x = dflt then Map.erase l k else Map.set l k x

/-- The map with the value at `k`, if any, changed by `f`. -/
def Map.update {α : Type} (l : Map α) (k : Nat) (f : α → α) : Map α :=
  match Map.find l k with
  | some x => Map.set l k (f x)
  | none => l

/-- Keys rising and above `lo`. -/
def Map.risingFrom {α : Type} (lo : Nat) (l : Map α) : Bool :=
  match l with
  | [] => true
  | (k, _) :: t => decide (lo ≤ k) && Map.risingFrom (k + 1) t

/-- Keys strictly rising. -/
def Map.sorted {α : Type} (l : Map α) : Bool := Map.risingFrom 0 l

/-- Canonical form with a default: keys strictly rising and the default nowhere listed. -/
def Map.canonical {α : Type} [DecidableEq α] (dflt : α) (l : Map α) : Bool :=
  Map.sorted l && l.all (fun c => decide (c.2 ≠ dflt))

/-- Memory's canonical form: addresses strictly rising, no byte zero listed. -/
def Memory.wf (m : Memory) : Bool := Map.canonical (0 : BitVec 8) m

/-- A memory's byte at an address; a byte not listed reads as zero (R253). -/
def Memory.get (m : Memory) (a : Nat) : BitVec 8 := Map.get 0 m a

/-- A memory with a byte written. -/
def Memory.put (m : Memory) (a : Nat) (b : BitVec 8) : Memory := Map.put 0 m a b

/-- Numbers below n, ascending. -/
def upto (n : Nat) : List Nat := List.range n

/-- The 64 lanes, ascending. -/
def lanes : List Nat := List.range 64

end Sys2Proof.Machine
end

