-- ==== Sys2Proof/Machine/Bits.lean ====
section
/-!
DEFINITION. Bit fields, extension and byte order (R4, R21, R39, R40).
-/

namespace Sys2Proof.Machine

/-- Bits [lo + n - 1 : lo] of a number. -/
def field (x lo n : Nat) : Nat := x / 2 ^ lo % 2 ^ n

/-- x read as two's complement of w bits. -/
def signed (w x : Nat) : Int :=
  let y := x % 2 ^ w
  if y < 2 ^ (w - 1) then (y : Int) else (y : Int) - 2 ^ w

/-- `Wrap(x, type)` of a type of w bits, as a bit pattern (R40). -/
def wrap (w : Nat) (x : Int) : Nat := (x % 2 ^ w).toNat

/-- The least value of the signed or unsigned type of w bits (R39). -/
def minOf (sgn : Bool) (w : Nat) : Int := if sgn then -(2 ^ (w - 1)) else 0

/-- The greatest value of the signed or unsigned type of w bits (R39). -/
def maxOf (sgn : Bool) (w : Nat) : Int := if sgn then 2 ^ (w - 1) - 1 else 2 ^ w - 1

/-- x read as a value of the signed or unsigned type of w bits. -/
def valueOf (sgn : Bool) (w x : Nat) : Int := if sgn then signed w x else ((x % 2 ^ w : Nat) : Int)

/-- `Sat(x, type)` and whether it differs from x (R40). -/
def saturate (sgn : Bool) (w : Nat) (x : Int) : Nat × Bool :=
  if x < minOf sgn w then (wrap w (minOf sgn w), true)
  else if x > maxOf sgn w then (wrap w (maxOf sgn w), true)
  else (wrap w x, false)

/-- The low `n` bits of x extended to w bits by sign or by zero (R21). -/
def extend (sgn : Bool) (n w x : Nat) : Nat :=
  if sgn then wrap w (signed n x) else x % 2 ^ n

/-- The number a list of bytes holds, lowest address first (R4). -/
def ofBytes : List Byte → Nat
  | [] => 0
  | b :: bs => b.toNat + 256 * ofBytes bs

/-- The n bytes of a number, lowest address first (R4). -/
def toBytes : Nat → Nat → List Byte
  | 0, _ => []
  | n + 1, x => BitVec.ofNat 8 x :: toBytes n (x / 256)

/-- Whether bit k of a mask is set. -/
def bitAt (m : DWord) (k : Nat) : Bool := m.getLsbD k

/-- The number of 1 bits below bit n of x. -/
def popcount (n x : Nat) : Nat := (upto n).foldl (fun c k => c + x / 2 ^ k % 2) 0

/-- Index of the lowest 1 bit of x below n, or n. -/
def lowest (n x : Nat) : Nat :=
  match (upto n).find? (fun k => x / 2 ^ k % 2 == 1) with
  | some k => k
  | none => n

/-- Leading zeros of x in w bits (R114). -/
def leading (w x : Nat) : Nat := if x = 0 then w else w - 1 - Nat.log2 x

/-- x rotated left by c in w bits (R114). -/
def rotl (w x c : Nat) : Nat :=
  let c := c % w
  (x * 2 ^ c + x / 2 ^ (w - c)) % 2 ^ w

/-- Bit i of the result is bit w - 1 - i of x (R114). -/
def reverse (w x : Nat) : Nat := (upto w).foldl (fun r k => r * 2 + x / 2 ^ k % 2) 0

/-- x rounded up to a multiple of n. -/
def roundUp (x n : Nat) : Nat := (x + n - 1) / n * n

/-- Whether the n bytes from a and the m bytes from b share a byte. -/
def overlap (a n b m : Nat) : Bool := decide (0 < n) && decide (0 < m) && decide (a < b + m ∧ b < a + n)

/-- One byte's step of the T10-DIF check code: polynomial 0x8BB7, most significant bit first (R321). -/
def crcByte (c : Nat) (b : Byte) : Nat :=
  (upto 8).foldl (fun c k =>
    let top := c / 32768 % 2
    let bit := b.toNat / 2 ^ (7 - k) % 2
    let c := c * 2 % 65536
    if top = bit then c else c ^^^ 0x8BB7) c

/-- The T10-DIF code of a run of bytes, initial value 0 (R321, R363). -/
def crc (bs : List Byte) : BitVec 16 := BitVec.ofNat 16 (bs.foldl crcByte 0)

end Sys2Proof.Machine
end

