-- ==== Sys2Proof/Machine/Float.lean ====
section
/-!
DEFINITION. Floating-point formats and `Round` (03_numbers.md R41 to R52, R138 to R142). Values are exact until `roundTo`
rounds them (R6): a finite value is (-1)^neg * m * 2^e, with `sticky` standing for a further magnitude below 2^e that is not zero.
-/

namespace Sys2Proof.Machine

/-- The formats (R41). -/
inductive Fmt where
  | f32
  | f16
  | bf16
  | e4m3
  | e5m2
  | e2m1
  | e3m5
  deriving DecidableEq, Repr

/-- Mantissa bits (R41). -/
def Fmt.man : Fmt → Nat
  | .f32 => 23 | .f16 => 10 | .bf16 => 7 | .e4m3 => 3 | .e5m2 => 2 | .e2m1 => 1 | .e3m5 => 5

/-- Exponent bits (R41). -/
def Fmt.exp : Fmt → Nat
  | .f32 => 8 | .f16 => 5 | .bf16 => 8 | .e4m3 => 4 | .e5m2 => 5 | .e2m1 => 2 | .e3m5 => 3

/-- Bias (R41). -/
def Fmt.bias : Fmt → Nat
  | .f32 => 127 | .f16 => 15 | .bf16 => 127 | .e4m3 => 7 | .e5m2 => 15 | .e2m1 => 1 | .e3m5 => 3

/-- Width in bits. -/
def Fmt.width : Fmt → Nat
  | .f32 => 32 | .f16 => 16 | .bf16 => 16 | .e4m3 => 8 | .e5m2 => 8 | .e2m1 => 4 | .e3m5 => 8

/-- Whether the format has infinities (R41). -/
def Fmt.hasInf : Fmt → Bool
  | .f32 | .f16 | .bf16 | .e5m2 => true
  | _ => false

/-- The largest finite magnitude's bits (R41). -/
def Fmt.largest : Fmt → Nat
  | .f32 => 0x7F7FFFFF | .f16 => 0x7BFF | .bf16 => 0x7F7F | .e4m3 => 0x7E | .e5m2 => 0x7B | .e2m1 => 0x7 | .e3m5 => 0xFF

/-- The canonical NaN (R41); e2m1 and e3m5 have none, and nothing asks for theirs. -/
def Fmt.nan : Fmt → Nat
  | .f32 => 0x7FC00000 | .f16 => 0x7E00 | .bf16 => 0x7FC0 | .e4m3 => 0x7F | .e5m2 => 0x7E | .e2m1 => 0 | .e3m5 => 0

/-- The sign bit's weight; e3m5 has no sign. -/
def Fmt.signBit : Fmt → Nat
  | .e3m5 => 0
  | f => 2 ^ (f.width - 1)

/-- The bits of positive infinity. -/
def Fmt.inf (f : Fmt) : Nat := (2 ^ f.exp - 1) * 2 ^ f.man

/-- Rounding modes, by the codes of R30. -/
inductive Mode where
  | rn
  | rz
  | rp
  | rm
  | rna
  | sr
  deriving DecidableEq, Repr

/-- The mode a code of R30 names; 110 and 111 are never held. -/
def Mode.ofCode : Nat → Mode
  | 0 => .rn | 1 => .rz | 2 => .rp | 3 => .rm | 4 => .rna | 5 => .sr
  | _ => .rn

/-! ### Flags, as the bits of `sr.status` (R29) -/

abbrev Flags := BitVec 64

def flagNV : Flags := 1
def flagDZ : Flags := 2
def flagOF : Flags := 4
def flagUF : Flags := 8
def flagNX : Flags := 16
def flagHV : Flags := 32
def flagSA : Flags := 64

/-! ### Values -/

/-- An exact finite value. -/
structure Ex where
  neg : Bool
  m : Nat
  e : Int
  sticky : Bool
  deriving DecidableEq, Repr

/-- A value read from a format: a NaN (signalling or quiet), an infinity by sign, or a finite value. -/
inductive FVal where
  | nan (signalling : Bool)
  | inf (neg : Bool)
  | fin (x : Ex)
  deriving DecidableEq, Repr

def Ex.zero (neg : Bool) : Ex := { neg := neg, m := 0, e := 0, sticky := false }

def Ex.isZero (x : Ex) : Bool := x.m == 0 && !x.sticky

/-- The value of a bit pattern (R41, R43). -/
def unpack (f : Fmt) (bits : Nat) : FVal :=
  let b := bits % 2 ^ f.width
  let neg := decide (f.signBit ≠ 0 ∧ b / f.signBit % 2 = 1)
  let mag := if f.signBit = 0 then b else b % f.signBit
  let e := mag / 2 ^ f.man
  let m := mag % 2 ^ f.man
  if f.hasInf && e == 2 ^ f.exp - 1 then
    (if m = 0 then .inf neg else .nan (m / 2 ^ (f.man - 1) == 0))
  else if f = .e4m3 ∧ mag = 0x7F then .nan false
  else if e = 0 then .fin { neg := neg, m := m, e := (1 : Int) - f.bias - f.man, sticky := false }
  else .fin { neg := neg, m := m + 2 ^ f.man, e := (e : Int) - f.bias - f.man, sticky := false }

/-- The bits with a sign put on a magnitude. -/
def signed? (f : Fmt) (neg : Bool) (mag : Nat) : Nat := if neg then mag + f.signBit else mag

/-! ### Round (R45 to R47, R51) -/

/-- m * 2^(-d) split into its integer part, whether the rest is zero, and how the rest compares with one half. -/
def splitAt (m d : Nat) (sticky : Bool) : Nat × Bool × Ordering :=
  if d = 0 then (m, !sticky, .lt)
  else if d > Nat.log2 m + 2 then (0, m == 0 && !sticky, .lt)
  else
    let q := m / 2 ^ d
    let r := m % 2 ^ d
    let h := 2 ^ (d - 1)
    (q, r == 0 && !sticky, if r < h then .lt else if r = h ∧ !sticky then .eq else .gt)

/-- Floor of the fraction of m * 2^(-d) times 2^32 (R51). -/
def fraction32 (m d : Nat) : Nat :=
  if d > Nat.log2 m + 64 then 0 else m % 2 ^ d * 2 ^ 32 / 2 ^ d

/-- Whether the neighbour of larger magnitude is chosen (R45, R51). -/
def roundsAway (mode : Mode) (neg : Bool) (low : Nat) (exact : Bool) (half : Ordering) (q32 r : Nat) : Bool :=
  if exact then false
  else match mode with
    | .rn => half == .gt || (half == .eq && low % 2 == 1)
    | .rna => half == .gt || half == .eq
    | .rz => false
    | .rp => !neg
    | .rm => neg
    | .sr => decide (q32 > r)

/-- What overflow delivers, and its flags beyond OF and NX (R46, R148). -/
def overflowTo (f : Fmt) (mode : Mode) (sat neg : Bool) : Nat × Flags :=
  if sat || f = .e2m1 || f = .e3m5 then (signed? f neg f.largest, flagSA)
  else
    let toInf := match mode with
      | .rn | .rna => true
      | .rz | .sr => false
      | .rp => !neg
      | .rm => neg
    if toInf then (if f.hasInf then signed? f neg f.inf else f.nan, 0)
    else (signed? f neg f.largest, 0)

/-- `Round(x, fmt, mode, sat)` of an exact finite x, with r the random bits of `sr`: the bits and the flags. A zero keeps the
sign x carries, which the caller has given it by R47. -/
def roundTo (f : Fmt) (mode : Mode) (sat : Bool) (r : Nat) (x : Ex) : Nat × Flags :=
  if x.isZero then (signed? f x.neg 0, 0)
  else
    let p := f.man
    let emin : Int := 1 - f.bias
    let top : Int := x.e + Nat.log2 x.m
    let q : Int := max top emin - p
    let d := (q - x.e).toNat
    let up := (x.e - q).toNat
    let m := x.m * 2 ^ up
    let (n, exact, half) := splitAt m d x.sticky
    let n' := if roundsAway mode x.neg n exact half (fraction32 m d) r then n + 1 else n
    -- magnitude bits with the exponent unbounded above
    let mag : Nat := (q + p - emin).toNat * 2 ^ p + n'
    let nx : Flags := if exact then 0 else flagNX
    if mag > f.largest then
      let (b, fl) := overflowTo f mode sat x.neg
      (b, fl ||| flagOF ||| flagNX)
    else
      let uf : Flags := if !exact && decide (mag < 2 ^ p) then flagUF else 0
      (signed? f x.neg mag, nx ||| uf)

/-! ### Exact arithmetic -/

/-- a + b; an exact zero takes its sign from R47. -/
def addEx (mode : Mode) (a b : Ex) : Ex :=
  let e := min a.e b.e
  let x := (a.m : Int) * 2 ^ (a.e - e).toNat
  let y := (b.m : Int) * 2 ^ (b.e - e).toNat
  let s := (if a.neg then -x else x) + (if b.neg then -y else y)
  if s = 0 then
    { neg := if a.m = 0 ∧ b.m = 0 ∧ a.neg = b.neg then a.neg else mode == .rm, m := 0, e := 0, sticky := false }
  else { neg := decide (s < 0), m := s.natAbs, e := e, sticky := false }

/-- a * b. -/
def mulEx (a b : Ex) : Ex :=
  { neg := a.neg != b.neg, m := a.m * b.m, e := a.e + b.e, sticky := false }

/-- a / b for b not zero: 128 bits of quotient beyond the divisor's, the rest in `sticky`. -/
def divEx (a b : Ex) : Ex :=
  if a.m = 0 then Ex.zero (a.neg != b.neg)
  else
    let k := Nat.log2 b.m + 128
    let n := a.m * 2 ^ k
    { neg := a.neg != b.neg, m := n / b.m, e := a.e - b.e - k, sticky := n % b.m != 0 }

/-- One Newton step after another towards the integer square root, from above. -/
def isqrtFrom (fuel n x : Nat) : Nat :=
  match fuel with
  | 0 => x
  | k + 1 =>
    let y := (x + n / x) / 2
    if y < x then isqrtFrom k n y else x

/-- The integer square root. -/
def isqrt (n : Nat) : Nat :=
  if n = 0 then 0 else isqrtFrom (Nat.log2 n + 2) n (2 ^ (Nat.log2 n / 2 + 1))

/-- The square root of a positive value. -/
def sqrtEx (a : Ex) : Ex :=
  if a.m = 0 then a
  else
    let k : Nat := if (a.e % 2 = 0) then 128 else 129
    let n := a.m * 2 ^ k
    let r := isqrt n
    { neg := false, m := r, e := (a.e - k) / 2, sticky := r * r != n }

/-- 1 / √a for a positive value. -/
def rsqrtEx (a : Ex) : Ex :=
  -- a = m * 2^e with e even; 1 / √m = √(2^(2k) / m) * 2^(-k)
  let m := if a.e % 2 = 0 then a.m else a.m * 2
  let e := if a.e % 2 = 0 then a.e else a.e - 1
  let k := Nat.log2 m + 128
  let n := 2 ^ (2 * k)
  let r := isqrt (n / m)
  { neg := false, m := r, e := -(e / 2) - k, sticky := r * r * m != n }

/-- The order of two values with −0 equal to +0, for values that are no NaN. -/
def cmpEx (a b : Ex) : Ordering :=
  let e := min a.e b.e
  let x := (a.m : Int) * 2 ^ (a.e - e).toNat
  let y := (b.m : Int) * 2 ^ (b.e - e).toNat
  let x := if a.neg then -x else x
  let y := if b.neg then -y else y
  compare x y

/-- The order of two values that are no NaN (R145). -/
def cmpVal (a b : FVal) : Ordering :=
  match a, b with
  | .inf n, .inf n' => if n = n' then .eq else if n then .lt else .gt
  | .inf n, _ => if n then .lt else .gt
  | _, .inf n => if n then .gt else .lt
  | .fin x, .fin y => cmpEx x y
  | _, _ => .eq

def FVal.isNan : FVal → Bool
  | .nan _ => true
  | _ => false

def FVal.isSnan : FVal → Bool
  | .nan s => s
  | _ => false

/-- NV when one of the operands is a signalling NaN (R52). -/
def snanFlag (xs : List FVal) : Flags := if xs.any FVal.isSnan then flagNV else 0

/-- The canonical NaN with NV if an operand signals, or NV given. -/
def nanOf (f : Fmt) (xs : List FVal) (nv : Bool) : Nat × Flags :=
  (f.nan, snanFlag xs ||| (if nv then flagNV else 0))

/-- Infinity as a result. -/
def infOf (f : Fmt) (neg : Bool) : Nat × Flags := (signed? f neg f.inf, 0)

/-! ### Operations on values (R137 to R142) -/

/-- The mode, saturation and random bits a Round takes. -/
structure RoundCtx where
  mode : Mode
  sat : Bool
  r : Nat
  deriving DecidableEq, Repr

def RoundCtx.rn : RoundCtx := { mode := .rn, sat := false, r := 0 }

def RoundCtx.to (c : RoundCtx) (f : Fmt) (x : Ex) : Nat × Flags := roundTo f c.mode c.sat c.r x

/-- Round(a + b). -/
def fadd (f : Fmt) (c : RoundCtx) (a b : FVal) : Nat × Flags :=
  match a, b with
  | .fin x, .fin y => c.to f (addEx c.mode x y)
  | .inf n, .inf n' => if n = n' then infOf f n else nanOf f [] true
  | .inf n, .fin _ => infOf f n
  | .fin _, .inf n => infOf f n
  | _, _ => nanOf f [a, b] false

/-- The value with its sign inverted. -/
def FVal.negate : FVal → FVal
  | .nan s => .nan s
  | .inf n => .inf (!n)
  | .fin x => .fin { x with neg := !x.neg }

/-- Whether a value has its sign bit set. -/
def FVal.isNeg : FVal → Bool
  | .nan _ => false
  | .inf n => n
  | .fin x => x.neg

/-- An exact product: none stands for 0 * ∞. -/
def mulVal (a b : FVal) : Option FVal :=
  match a, b with
  | .fin x, .fin y => some (.fin (mulEx x y))
  | .inf n, .inf n' => some (.inf (n != n'))
  | .inf n, .fin y => if y.isZero then none else some (.inf (n != y.neg))
  | .fin x, .inf n => if x.isZero then none else some (.inf (x.neg != n))
  | _, _ => some (.nan false)

/-- Round(a * b). -/
def fmul (f : Fmt) (c : RoundCtx) (a b : FVal) : Nat × Flags :=
  if a.isNan || b.isNan then nanOf f [a, b] false
  else match mulVal a b with
    | none => nanOf f [] true
    | some (.fin x) => c.to f x
    | some (.inf n) => infOf f n
    | some (.nan _) => nanOf f [] false

/-- Round(a * b + c), one rounding; 0 * ∞ sets NV even when c is a quiet NaN (R137). -/
def ffma (f : Fmt) (k : RoundCtx) (a b c : FVal) : Nat × Flags :=
  if a.isNan || b.isNan then nanOf f [a, b, c] false
  else match mulVal a b with
    | none => nanOf f [a, b, c] true
    | some p => if c.isNan then nanOf f [a, b, c] false else fadd f k p c

/-- Round(a / b), with the special values of R139. -/
def fdiv (f : Fmt) (c : RoundCtx) (a b : FVal) : Nat × Flags :=
  if a.isNan || b.isNan then nanOf f [a, b] false
  else
    let neg := a.isNeg != b.isNeg
    match a, b with
    | .fin x, .fin y =>
      if y.isZero then
        (if x.isZero then nanOf f [] true else ((infOf f neg).1, flagDZ))
      else c.to f (divEx x y)
    | .inf _, .inf _ => nanOf f [] true
    | .inf _, .fin _ => infOf f neg
    | _, _ => (signed? f neg 0, 0)

/-- Round(√a), with the special values of R139. -/
def fsqrt (f : Fmt) (c : RoundCtx) (a : FVal) : Nat × Flags :=
  match a with
  | .nan _ => nanOf f [a] false
  | .inf n => if n then nanOf f [] true else infOf f false
  | .fin x =>
    if x.isZero then (signed? f x.neg 0, 0)
    else if x.neg then nanOf f [] true
    else c.to f (sqrtEx x)

/-- Round(1 / √a), with the special values of R139. -/
def frsq (f : Fmt) (c : RoundCtx) (a : FVal) : Nat × Flags :=
  match a with
  | .nan _ => nanOf f [a] false
  | .inf n => if n then nanOf f [] true else (0, 0)
  | .fin x =>
    if x.isZero then ((infOf f x.neg).1, flagDZ)
    else if x.neg then nanOf f [] true
    else c.to f (rsqrtEx x)

/-- The value one. -/
def one : FVal := .fin { neg := false, m := 1, e := 0, sticky := false }

/-- Round(1 / a), with the special values of R139. -/
def frcp (f : Fmt) (c : RoundCtx) (a : FVal) : Nat × Flags := fdiv f c one a

/-- `fmin` (`less` true) or `fmax` of two operands' bits: one of them, −0 below +0; a NaN gives way (R138). -/
def fminmax (f : Fmt) (less : Bool) (x y : Nat) : Nat × Flags :=
  let a := unpack f x
  let b := unpack f y
  let fl := snanFlag [a, b]
  if a.isNan && b.isNan then (f.nan, fl)
  else if a.isNan then (y % 2 ^ f.width, fl)
  else if b.isNan then (x % 2 ^ f.width, fl)
  else
    let o := match cmpVal a b with
      | .eq => if a.isNeg = b.isNeg then Ordering.eq else if a.isNeg then .lt else .gt
      | o => o
    let first := if less then o != .gt else o != .lt
    ((if first then x else y) % 2 ^ f.width, fl)

/-- `frnd`: a rounded to an integral value of its own format in the direction of the mode; NX is never set (R140). -/
def frnd (f : Fmt) (mode : Mode) (bits : Nat) : Nat × Flags :=
  match unpack f bits with
  | .nan s => (f.nan, if s then flagNV else 0)
  | .inf n => infOf f n
  | .fin x =>
    if x.e ≥ 0 || x.isZero then (bits % 2 ^ f.width, 0)
    else
      let d := (-x.e).toNat
      let (n, exact, half) := splitAt x.m d false
      let n' := if roundsAway mode x.neg n exact half 0 0 then n + 1 else n
      ((roundTo f .rn false 0 { neg := x.neg, m := n', e := 0, sticky := false }).1, 0)

/-- The class mask of `fcls` (R142). -/
def fcls (f : Fmt) (bits : Nat) : Nat :=
  match unpack f bits with
  | .nan s => if s then 1 else 2
  | .inf n => if n then 4 else 512
  | .fin x =>
    let mag := bits % f.signBit
    if x.isZero then (if x.neg then 32 else 64)
    else if mag < 2 ^ f.man then (if x.neg then 16 else 128)
    else (if x.neg then 8 else 256)

/-! ### Conversions (R46, R48, R147) -/

/-- `Round(x, T, mode)` to an integer type of w bits: its bits and flags (R48). -/
def roundInt (sgn : Bool) (w : Nat) (mode : Mode) (x : FVal) : Nat × Flags :=
  match x with
  | .nan _ => (0, flagNV)
  | .inf n => (wrap w (if n then minOf sgn w else maxOf sgn w), flagNV ||| flagSA)
  | .fin x =>
    let d := (-x.e).toNat
    let m := x.m * 2 ^ (min x.e.toNat 200)
    let (n, exact, half) := splitAt m d false
    let n' := if roundsAway mode x.neg n exact half 0 0 then n + 1 else n
    let v : Int := if x.neg then -(n' : Int) else n'
    if v < minOf sgn w then (wrap w (minOf sgn w), flagNV ||| flagSA)
    else if v > maxOf sgn w then (wrap w (maxOf sgn w), flagNV ||| flagSA)
    else (wrap w v, if exact then 0 else flagNX)

/-- A value converted to a floating format (R46, R147, R148). -/
def cvtTo (f : Fmt) (c : RoundCtx) (x : FVal) : Nat × Flags :=
  match x with
  | .nan s =>
    if f = .e2m1 ∨ f = .e3m5 then (0, flagNV) else (f.nan, if s then flagNV else 0)
  | .inf n =>
    if f = .e3m5 then (if n then (0, flagNV) else (f.largest, flagNV ||| flagSA))
    else if f = .e2m1 then (signed? f n f.largest, flagNV ||| flagSA)
    else if f.hasInf then infOf f n
    else if c.sat then (signed? f n f.largest, flagSA)
    else (f.nan, flagNV)
  | .fin x =>
    if f = .e3m5 ∧ x.neg then (0, if x.isZero then 0 else flagNV)
    else c.to f x

/-- An integer as an exact value; zero is +0. -/
def ofInt (v : Int) : FVal := .fin { neg := decide (v < 0), m := v.natAbs, e := 0, sticky := false }

/-- A 0 to 1 f32 bits helper: the f32 value of a bit pattern. -/
def f32v (bits : Nat) : FVal := unpack .f32 bits

end Sys2Proof.Machine
end

