-- ==== Sys2Proof/Machine/Special.lean ====
section
/-!
DEFINITION. The special functions of major 0x44 (08_floating_point.md R144): the exact value to more than 300 bits, in fixed
point, and the one rounding. PRESUMED (log 6): no f32 argument has a value so near a rounding boundary that 300 bits cannot tell
the side. All integers below stand for multiples of 2^(-336) unless they say otherwise.
-/

namespace Sys2Proof.Machine

/-- Fraction bits. -/
def fxBits : Nat := 336

/-- π in multiples of 2^(-640), rounded down. -/
def fxPi : Nat :=
  14333329926761567455775730701799299831126131522901418329710873694248203755857903894978459978948837038337184470360789102305252273090192709030764248428292776480232102476327552185579501988876367276

/-- ln 2, rounded down. -/
def fxLn2 : Nat :=
  97029547075906663113399169169657249852468808957681793420204833414125851958256514691306339555671037333

/-- A product. -/
def fxMul (a b : Int) : Int := a * b / 2 ^ fxBits

/-- t + t·y/(k·s(k)) + ...: the sum of a power series whose k-th term is the one before times y / den k. -/
def fxSeries (fuel : Nat) (den : Nat → Int) (y : Int) (k : Nat) (t acc : Int) : Int :=
  match fuel with
  | 0 => acc
  | n + 1 =>
    let t := fxMul t y / den k
    fxSeries n den y (k + 1) t (acc + t)

/-- e^y for |y| below 1. -/
def fxExp (y : Int) : Int :=
  fxSeries 90 (fun k => (k : Int)) y 1 (2 ^ fxBits) (2 ^ fxBits)

/-- sin y for |y| below 1. -/
def fxSin (y : Int) : Int :=
  fxSeries 45 (fun k => -((2 * k : Nat) : Int) * ((2 * k + 1 : Nat) : Int)) (fxMul y y) 1 y y

/-- cos y for |y| below 1. -/
def fxCos (y : Int) : Int :=
  fxSeries 45 (fun k => -((2 * k - 1 : Nat) : Int) * ((2 * k : Nat) : Int)) (fxMul y y) 1 (2 ^ fxBits) (2 ^ fxBits)

/-- The sum of z^(2k+1) / (2k+1): artanh z. -/
def fxArtanh (fuel : Nat) (z2 : Int) (k : Nat) (p acc : Int) : Int :=
  match fuel with
  | 0 => acc
  | n + 1 =>
    let p := fxMul p z2
    fxArtanh n z2 (k + 1) p (acc + p / ((2 * k + 1 : Nat) : Int))

/-- ln x for x from 1 to 2. -/
def fxLn (x : Int) : Int :=
  let z := (x - 2 ^ fxBits) * 2 ^ fxBits / (x + 2 ^ fxBits)
  2 * fxArtanh 120 (fxMul z z) 1 z z

/-- m·2^e as a multiple of 2^(-336), rounded down. -/
def fxOf (m : Nat) (e : Int) : Int :=
  if e + fxBits ≥ 0 then (m : Int) * 2 ^ (e + fxBits).toNat else (m : Int) / 2 ^ (-(e + fxBits)).toNat

/-- A computed value that is not exact, as a value to round. -/
def fxResult (neg : Bool) (v : Int) (e : Int) : Ex :=
  { neg := neg, m := v.toNat, e := e - fxBits, sticky := true }

/-- A value just below x in magnitude. -/
def justBelow (x : Ex) : Ex :=
  { neg := x.neg, m := x.m * 2 ^ 80 - 1, e := x.e - 80, sticky := true }

/-- 2^a, not exact. The exponent is held within ±1000, beyond which every result overflows or underflows alike. -/
def ex2Of (x : Ex) : Ex :=
  if Nat.log2 x.m + x.e > 10 then { neg := false, m := 1, e := if x.neg then -1000 else 1000, sticky := false }
  else
    let a := if x.neg then -(fxOf x.m x.e) else fxOf x.m x.e
    let n := a / 2 ^ fxBits
    let f := a % 2 ^ fxBits
    if f = 0 then { neg := false, m := 1, e := n, sticky := false }
    else fxResult false (fxExp (fxMul f fxLn2)) n

/-- log2 of a positive value. -/
def lg2Of (x : Ex) : Ex :=
  let k := Nat.log2 x.m
  let e : Int := x.e + k
  if x.m = 2 ^ k then { neg := decide (e < 0), m := e.natAbs, e := 0, sticky := false }
  else
    let f := fxLn (fxOf x.m (-(k : Int))) * 2 ^ fxBits / fxLn2
    let v := e * 2 ^ fxBits + f
    fxResult (decide (v < 0)) (if v < 0 then -v else v) 0

/-- The quadrant of a magnitude, modulo 4, and what is left of it within ±π/4; x and π/2 are multiples of 2^(-640). -/
def reduceAngle (m : Nat) (e : Int) : Nat × Int :=
  let x : Int := if e + 640 ≥ 0 then (m : Int) * 2 ^ (e + 640).toNat else 0
  let h : Int := (fxPi : Int) / 2
  let k := (x + h / 2) / h
  ((k % 4).toNat, (x - k * h) / 2 ^ (640 - fxBits))

/-- sin (`cosine` false) or cos of a value that is not zero. -/
def sinCosOf (cosine : Bool) (x : Ex) : Ex :=
  if Nat.log2 x.m + x.e < -60 then
    (if cosine then justBelow { neg := false, m := 1, e := 0, sticky := false } else justBelow x)
  else
    let (q, r) := reduceAngle x.m x.e
    let q := if cosine then (q + 1) % 4 else q
    let v := if q % 2 = 0 then fxSin r else fxCos r
    let v := if q ≥ 2 then -v else v
    let v := if x.neg && !cosine then -v else v
    fxResult (decide (v < 0)) (if v < 0 then -v else v) 0

/-- tanh of a value that is not zero. -/
def tanhOf (x : Ex) : Ex :=
  let k := Nat.log2 x.m + x.e
  if k < -60 then justBelow x
  else if k ≥ 6 then justBelow { neg := x.neg, m := 1, e := 0, sticky := false }
  else
    -- E = e^(2|x|) = 2^n · e^r
    let a := 2 * fxOf x.m x.e
    let n := a / fxLn2
    let w := fxExp (a - n * fxLn2) * 2 ^ n.toNat
    fxResult x.neg ((w - 2 ^ fxBits) * 2 ^ fxBits / (w + 2 ^ fxBits)) 0

/-- The functions of major 0x44. -/
inductive Special where
  | ex2
  | lg2
  | sin
  | cos
  | tanh
  deriving DecidableEq, Repr

/-- Round(f(a), f32, rn) with its flags, and the special values of the table of R144. -/
def special (g : Special) (bits : Nat) : Nat × Flags :=
  let rnd := roundTo .f32 .rn false 0
  match unpack .f32 bits, g with
  | .nan s, _ => (Fmt.f32.nan, if s then flagNV else 0)
  | .inf n, .ex2 => if n then (0, 0) else infOf .f32 false
  | .inf n, .lg2 => if n then nanOf .f32 [] true else infOf .f32 false
  | .inf _, .sin => nanOf .f32 [] true
  | .inf _, .cos => nanOf .f32 [] true
  | .inf n, .tanh => rnd { neg := n, m := 1, e := 0, sticky := false }
  | .fin x, g =>
    if x.isZero then
      match g with
      | .ex2 => rnd { neg := false, m := 1, e := 0, sticky := false }
      | .cos => rnd { neg := false, m := 1, e := 0, sticky := false }
      | .lg2 => ((infOf .f32 true).1, flagDZ)
      | .sin => rnd x
      | .tanh => rnd x
    else
      match g with
      | .ex2 => rnd (ex2Of x)
      | .lg2 => if x.neg then nanOf .f32 [] true else rnd (lg2Of x)
      | .sin => rnd (sinCosOf false x)
      | .cos => rnd (sinCosOf true x)
      | .tanh => rnd (tanhOf x)

end Sys2Proof.Machine
end

