-- ==== Sys2Proof/Machine/Operands.lean ====
section
/-!
DEFINITION. What a unit names: its runs of registers, the hints that fit it, and the checks of R109 made after the word is
read: orders 3 (details 5, 6, 7), 4, 5 and 6. Then the operand forms: immediates (R96), guards (R97), rounding (R134).
-/

namespace Sys2Proof.Machine

open Sys2Proof

/-- A run of vector registers an instruction names: first register, how many, and what the first is a multiple of. -/
structure VRun where
  first : Nat
  count : Nat
  align : Nat
  deriving DecidableEq, Repr

/-- One 32-bit register. -/
def r1 (n : Nat) : VRun := ⟨n, 1, 1⟩
/-- A pair (R20). -/
def r2 (n : Nat) : VRun := ⟨n, 2, 2⟩
/-- A run of n registers that starts at a multiple of n (R20, R105). -/
def rn (k n : Nat) : VRun := ⟨n, k, k⟩

/-- The index register of a memory operand, unless it is the no-index form (R152). -/
def rIndex (v c : Nat) : List VRun := if v = 0 ∧ c = 0 then [] else [r1 v]

/-- The data registers of a width of 1, 2, 4, 8 or 16 bytes by its op code (R157). -/
def rData (o d : Nat) : VRun := if o = 5 then r2 d else if o = 6 then rn 4 d else r1 d

/-- One register or a pair. -/
def rWide (wide : Bool) (n : Nat) : VRun := if wide then r2 n else r1 n

/-- Whether the instruction is marked OPC (R102, R108). -/
def needsOpc : Instr → Bool
  | .mad .. | .bfi .. | .fma .. | .hfma2F16 .. | .hfma2Bf16 .. | .atomCas .. | .atom64Cas .. => true
  | .fpF16 f .. | .fpBf16 f .. | .fpVs f .. => f == 3
  | _ => false

/-- The vector registers an instruction names, x being the register of its OPC hint. -/
def vecRuns (x : Nat) : Instr → List VRun
  | .add _ d a b | .sub _ d a b | .mul _ d a b | .mulh _ d a b | .min _ d a b | .max _ d a b => [r1 d, r1 a, r1 b]
  | .addc d a b | .subb d a b => [r1 d, r1 a, r1 b]
  | .abs d a | .neg d a | .not d a | .popc d a | .clz d a | .ctz d a | .brev d a | .mov d a => [r1 d, r1 a]
  | .intArith64 f d a b => if f ≥ 14 then [r2 d, r2 a] else [r2 d, r2 a, r2 b]
  | .intArithVs _ d a _ => [r1 d, r1 a]
  | .intArith64Vs _ d a _ => [r2 d, r2 a]
  | .and d a b | .or d a b | .xor d a b | .andn d a b | .shl d a b | .shr d a b | .sra d a b | .rol d a b =>
      [r1 d, r1 a, r1 b]
  | .logic64 f d a b => if f = 4 ∨ f ≥ 9 then [r2 d, r2 a] else [r2 d, r2 a, r2 b]
  | .logicVs _ d a _ => [r1 d, r1 a]
  | .logic64Vs _ d a _ => [r2 d, r2 a]
  | .mad d a b | .bfi d a b => [r1 d, r1 a, r1 b, r1 x]
  | .bfxN32 d a b | .bfxI32 d a b => [r1 d, r1 a, r1 b]
  | .lea _ d a b => [r2 d, r2 a, r1 b]
  | .cvti c d a => [rWide (c == 4 || c == 5) d, rWide (c == 6 || c == 7) a]
  | .addImm d a _ | .mulImm d a _ | .andImm d a _ | .orImm d a _ | .xorImm d a _ => [r1 d, r1 a]
  | .shiftImm d a _ _ => [r1 d, r1 a]
  | .ldi d _ => [r1 d]
  | .movk d _ => [r2 d]
  | .cmp t _ _ a b => [rWide (t ≥ 2) a, rWide (t ≥ 2) b]
  | .cmpVs t _ _ a _ => [rWide (t ≥ 2) a]
  | .sel _ d a b => [r1 d, r1 a, r1 b]
  | .rdsrV d _ => [r1 d]
  | .fadd d a b | .fsub d a b | .fmul d a b | .fmin d a b | .fmax d a b | .fdiv d a b | .fcpsgn d a b => [r1 d, r1 a, r1 b]
  | .fma d a b => [r1 d, r1 a, r1 b, r1 x]
  | .fsqrt d a | .frcp d a | .frsq d a | .frnd d a | .fabs d a | .fneg d a | .fcls d a => [r1 d, r1 a]
  | .fpF16 f d a b | .fpBf16 f d a b =>
      if f = 3 then [r1 d, r1 a, r1 b, r1 x]
      else if (7 ≤ f ∧ f ≤ 12) ∨ f = 14 then [r1 d, r1 a] else [r1 d, r1 a, r1 b]
  | .fpVs f d a _ => if f = 3 then [r1 d, r1 a, r1 x] else [r1 d, r1 a]
  | .fex2 d a | .flg2 d a | .fsin d a | .fcos d a | .ftanh d a => [r1 d, r1 a]
  | .faddImm d a _ | .fmulImm d a _ => [r1 d, r1 a]
  | .fcmp _ _ _ a b => [r1 a, r1 b]
  | .cvt f d a _ src => [rWide (f == 10 || f == 11) d, rWide (src == 10 || src == 11) a]
  | .pk2F16 d a b | .pk2Bf16 d a b => [r1 d, r1 a, r1 b]
  | .upk2F16 d a | .upk2Bf16 d a => [r2 d, r1 a]
  | .hadd2F16 d a b | .hmul2F16 d a b | .hmin2F16 d a b | .hmax2F16 d a b => [r1 d, r1 a, r1 b]
  | .hadd2Bf16 d a b | .hmul2Bf16 d a b | .hmin2Bf16 d a b | .hmax2Bf16 d a b => [r1 d, r1 a, r1 b]
  | .hfma2F16 d a b | .hfma2Bf16 d a b => [r1 d, r1 a, r1 b, r1 x]
  | .iadd2 _ d a b | .imax2 _ d a b | .imin2 _ d a b => [r1 d, r1 a, r1 b]
  | .ld o d _ v c | .st o d _ v c => rData o d :: rIndex v c
  | .atom _ d _ v c => r1 d :: rIndex v c
  | .atomCas d _ v c => r1 d :: r1 x :: rIndex v c
  | .atom64 _ d _ v c => r2 d :: rIndex v c
  | .atom64Cas d _ v c => r2 d :: r2 x :: rIndex v c
  | .red o d _ v c => rWide (o == 6) d :: rIndex v c
  | .pfL1 _ v c | .pfMc _ v c => rIndex v c
  | .shfl d a b => [r1 d, r1 a, r1 b]
  | .lscanAddI32 d a _ | .lscanAddF32 d a _ | .lscanMaxI32 d a _ | .lscanMinI32 d a _ => [r1 d, r1 a]
  | .lscanMaxF32 d a _ | .lscanMinF32 d a _ | .lredAddI32 d a _ | .lredAddF32 d a _ => [r1 d, r1 a]
  | .lredMaxI32 d a _ | .lredMinI32 d a _ | .lredMaxF32 d a _ | .lredMinF32 d a _ => [r1 d, r1 a]
  | .bcst d a _ | .bcstImm d a _ => [r1 d, r1 a]
  | .lxbLo _ d a b | .lxbHi _ d a b => [r1 d, r1 a, r1 b]
  | .tld _ _ v c | .tst _ _ v c | .acld _ _ v c | .acst _ _ v c => rIndex v c
  | .tmvBf16 _ a | .tmvF16 _ a => [rn 8 a]
  | .tmvE4m3 _ a | .tmvE5m2 _ a => [rn 16 a]
  | .tmvE2m1 _ a b => [rn 32 a, r1 b]
  | .tmvRaw _ a => [rn 4 a]
  | .tmvToVec d _ => [rn 4 d]
  | .acmvToVec d _ => [rn 16 d]
  | .acmvFromVec _ a => [rn 16 a]
  | .adamw d a _ => [⟨d, 3, 1⟩, r1 a]
  | _ => []

/-- The tile registers an instruction names. -/
def tileRegsOf : Instr → List Nat
  | .mma _ _ a b _ _ => [a, b]
  | .mmas _ a b _ _ _ => [a, b]
  | .tld t _ _ _ | .tst t _ _ _ => [t]
  | .tmvBf16 t _ | .tmvF16 t _ | .tmvE4m3 t _ | .tmvE5m2 t _ | .tmvRaw t _ => [t]
  | .tmvE2m1 t _ _ => [t]
  | .tmvToVec _ t => [t]
  | .tzero t => [t]
  | _ => []

/-- The accumulators an instruction names. -/
def accRegsOf : Instr → List Nat
  | .mma _ d _ _ _ _ => [d]
  | .mmas d _ _ _ _ _ => [d]
  | .acld a _ _ _ | .acst a _ _ _ => [a]
  | .acmvToVec _ a => [a]
  | .acmvFromVec c _ => [c]
  | .acz a => [a]
  | .exph a _ => [a]
  | _ => []

/-- The run of uniform registers an instruction names (R107): first and count. `ldu` of 128 bits is a pair by alignment. -/
def uniRun : Instr → Option (Nat × Nat)
  | .glzScl r _ | .glzOff r _ | .glzClp r _ | .glzFil r _ | .glzPrm r _ => some (r, 4)
  | .glzMap r _ => some (r, 6)
  | .glzFire r _ => some (r, 3)
  | .glzRdh r _ => some (r, 4)
  | .engCpy r _ => some (r, 4)
  | .engGth r _ _ => some (r, 8)
  | .engGrd r _ _ => some (r, 10)
  | .engSct r _ _ => some (r, 7)
  | .engCol r _ _ _ => some (r, 4)
  | .engWt r _ => some (r, 2)
  | .engTst r _ | .tapePush r _ | .tapeTurn r _ | .lnch r _ => some (r, 1)
  | .adamw _ _ s => some (s, 4)
  | _ => none

/-- Whether a uniform pair is misaligned: `ldu` of 128 bits (R157). -/
def uniMisaligned : Instr → Bool
  | .ldu o d _ => o == 6 && d % 2 == 1
  | _ => false

/-- The hints that fit an instruction (R97, R101, R134); `sat` says whether a ROUND hint may ask for saturation. -/
structure Fits where
  limm : Bool
  guard : Bool
  round : Bool
  sat : Bool
  cache : Bool
  offset : Bool
  deriving DecidableEq, Repr

/-- No hint. -/
def Fits.none : Fits := ⟨false, false, false, false, false, false⟩
/-- GUARD alone. -/
def Fits.lane : Fits := { Fits.none with guard := true }
/-- GUARD, and ROUND with `.sat` where b. -/
def Fits.sat? (b : Bool) : Fits := { Fits.lane with round := b, sat := b }
/-- GUARD and ROUND without `.sat`. -/
def Fits.dir : Fits := { Fits.lane with round := true }
/-- GUARD and LIMM. -/
def Fits.imm : Fits := { Fits.lane with limm := true }
/-- LIMM alone. -/
def Fits.uimm : Fits := { Fits.none with limm := true }

/-- ROUND of the functions of table A (R112, R113). -/
def fitsA (f : Nat) : Fits := Fits.sat? (f < 6 || f == 14 || f == 15)

/-- ROUND of the functions of table E (R134). -/
def fitsE (f : Nat) : Fits :=
  if f ≤ 3 ∨ f = 6 ∨ f = 8 then Fits.sat? true else if f = 7 ∨ f = 9 ∨ f = 10 then Fits.dir else Fits.lane

/-- The hints that fit each instruction, OPC apart. -/
def fits : Instr → Fits
  | .add .. | .sub .. | .mul .. | .abs .. | .neg .. => Fits.sat? true
  | .mulh .. | .min .. | .max .. | .addc .. | .subb .. => Fits.lane
  | .intArith64 f .. | .intArithVs f .. | .intArith64Vs f .. => fitsA f
  | .and .. | .or .. | .xor .. | .andn .. | .not .. | .shl .. | .shr .. | .sra .. | .rol .. | .popc .. | .clz .. => Fits.lane
  | .ctz .. | .brev .. | .mov .. | .logic64 .. | .logicVs .. | .logic64Vs .. => Fits.lane
  | .mad .. | .bfxN32 .. | .bfxI32 .. | .bfi .. | .lea .. => Fits.lane
  | .cvti .. => Fits.sat? true
  | .addImm .. | .mulImm .. | .andImm .. | .orImm .. | .xorImm .. | .ldi .. | .movk .. => Fits.imm
  | .shiftImm .. | .cmp .. | .cmpVs .. | .sel .. | .rdsrV .. => Fits.lane
  | .uniformAlu f .. => { Fits.sat? (f < 6 || f == 26 || f == 27) with guard := false }
  | .addImmU .. | .mulImmU .. | .andImmU .. | .orImmU .. | .xorImmU .. | .ldiU .. | .movkU .. => Fits.uimm
  | .fadd .. | .fsub .. | .fmul .. | .fma .. | .fdiv .. | .frcp .. => Fits.sat? true
  | .fsqrt .. | .frsq .. | .frnd .. => Fits.dir
  | .fmin .. | .fmax .. | .fabs .. | .fneg .. | .fcpsgn .. | .fcls .. => Fits.lane
  | .fpF16 f .. | .fpBf16 f .. | .fpVs f .. => fitsE f
  | .fex2 .. | .flg2 .. | .fsin .. | .fcos .. | .ftanh .. | .fcmp .. => Fits.lane
  | .faddImm .. | .fmulImm .. => { Fits.sat? true with limm := true }
  | .cvt .. | .pk2F16 .. | .pk2Bf16 .. => Fits.sat? true
  | .upk2F16 .. | .upk2Bf16 .. => Fits.lane
  | .hadd2F16 .. | .hmul2F16 .. | .hfma2F16 .. | .hadd2Bf16 .. | .hmul2Bf16 .. | .hfma2Bf16 .. => Fits.sat? true
  | .hmin2F16 .. | .hmax2F16 .. | .hmin2Bf16 .. | .hmax2Bf16 .. => Fits.lane
  | .iadd2 .. => Fits.sat? true
  | .imax2 .. | .imin2 .. => Fits.lane
  | .ld .. | .st .. | .atom .. | .atomCas .. | .atom64 .. | .atom64Cas .. | .red .. =>
      { Fits.lane with cache := true, offset := true }
  | .ldu .. => { Fits.none with cache := true, offset := true }
  | .pfL1 .. | .pfMc .. => { Fits.lane with cache := true }
  | .shfl .. | .lscanAddI32 .. | .lscanAddF32 .. | .lscanMaxI32 .. | .lscanMinI32 .. | .lscanMaxF32 .. => Fits.lane
  | .lscanMinF32 .. | .lredAddI32 .. | .lredAddF32 .. | .lredMaxI32 .. | .lredMinI32 .. | .lredMaxF32 .. => Fits.lane
  | .lredMinF32 .. | .bcst .. | .bcstImm .. | .lxbLo .. | .lxbHi .. | .voteAny .. | .voteAll .. | .voteUni .. => Fits.lane
  | .tld .. | .tst .. | .acld .. | .acst .. => { Fits.none with cache := true, offset := true }
  | .tmvBf16 .. | .tmvF16 .. | .tmvE4m3 .. | .tmvE5m2 .. | .tmvE2m1 .. => { Fits.sat? true with guard := false }
  | _ => Fits.none

/-- The immediate forms of format UI that LIMM fits: their imm13 (R96). -/
def uniImm : Instr → Option Nat
  | .addImmU _ _ i | .mulImmU _ _ i | .andImmU _ _ i | .orImmU _ _ i | .xorImmU _ _ i => some i
  | .ldiU _ i | .movkU _ i => some i
  | _ => none

/-- Order 3 of R109 beyond the word itself: the lowest detail met, of 4 (imm13[12:11] under LIMM, R96), 5, 6 and 7. -/
def illegalDetail (i : Instr) (h : Hints) : Option Nat :=
  let vs := vecRuns (h.opc.getD 0) i
  let wideImm := match uniImm i, h.limm with
    | some n, some _ => decide (n ≥ 2048)
    | _, _ => false
  if wideImm then some 4
  else if needsOpc i && h.opc.isNone then some 5
  else if vs.any (fun r => r.first % r.align != 0) || uniMisaligned i then some 6
  else if vs.any (fun r => decide (r.first + r.count > 128)) then some 7
  else match uniRun i with
    | some (r, n) => if r + n > 64 then some 7 else none
    | none => none

/-- Whether every hint of the run fits the instruction (order 4 of R109). -/
def hintsFit (i : Instr) (h : Hints) : Bool :=
  let f := fits i
  (h.limm.isNone || f.limm) && (h.guard.isNone || f.guard) && (h.cache.isNone || f.cache)
    && (h.offset.isNone || f.offset) && (h.opc.isNone || needsOpc i)
    && (match h.round with
      | none => true
      | some r => f.round && (!r.sat || f.sat))

/-- The registers of a list of runs. -/
def runRegs (rs : List VRun) : List Nat := rs.flatMap (fun r => (upto r.count).map (fun k => r.first + k))

/-- Of registers named, one at or above an allocation (R19): where there are several, the one reported is a free value (log 31). -/
def beyond (n : Nat) (rs : List Nat) : Option Nat :=
  match rs.filter (fun k => decide (k ≥ n)) with
  | [] => none
  | r :: t => some ((r :: t).getD (Config.reportedRegister (r :: t) % (t.length + 1)) r)

/-- The class and number of a register at or above the drill's allocation: vector, then tile, then accumulator (R109). -/
def rangeDetail (i : Instr) (h : Hints) (nv nt na : Nat) : Option (Nat × Nat) :=
  match beyond nv (runRegs (vecRuns (h.opc.getD 0) i)) with
  | some r => some (0, r)
  | none =>
    match beyond nt (tileRegsOf i) with
    | some r => some (1, r)
    | none => (beyond na (accRegsOf i)).map (fun r => (2, r))

/-- Whether the unit reads or writes `sr.fault`, or reads the fault-record count (R28, R194). -/
def needsSupervisor : Instr → Bool
  | .rdsr _ n | .rdsrV _ n => n == 18
  | .wrsr n _ => n == 18
  | .fltq _ => true
  | _ => false

/-! ### Operand forms -/

/-- The register the run's OPC hint names (R108). -/
def opcReg (h : Hints) : Nat := h.opc.getD 0

/-- Rule S, Z or F of R96. -/
inductive ImmRule where
  | s
  | z
  | f
  deriving DecidableEq, Repr

/-- The 32-bit pattern of an immediate of n bits, under the run's LIMM hint (R96). -/
def immPattern (rule : ImmRule) (n imm : Nat) (h : Hints) : Nat :=
  match h.limm with
  | some p => p * 2048 + imm % 2048
  | none => match rule with
    | .s => wrap 32 (signed n imm)
    | .z => imm
    | .f => imm * 2 ^ 21

/-- The mode in force before an instruction says which it accepts: the ROUND hint's, or `sr.round`'s (R30, R97). -/
def modeCode (h : Hints) (round : DWord) : Nat :=
  match h.round with
  | some r => if r.md then r.mode else round.toNat % 8
  | none => round.toNat % 8

/-- Whether the run asks for saturation. -/
def wantsSat (h : Hints) : Bool :=
  match h.round with
  | some r => r.sat
  | none => false

/-- A direction of the first four modes, or `rn` where the instruction does not accept the mode (R134). -/
def dirMode (h : Hints) (round : DWord) : Mode :=
  let c := modeCode h round
  if c ≤ 3 then Mode.ofCode c else .rn

/-- Any of the six modes; `narrow` false where `sr` is not honoured (R49, R134). -/
def anyMode (narrow : Bool) (h : Hints) (round : DWord) : Mode :=
  let c := modeCode h round
  if c = 5 ∧ !narrow then .rn else Mode.ofCode c

/-- Whether a conversion is one of the narrowing conversions that honour `sr`, by the codes of R103 (R49). -/
def narrowing (dst src : Nat) : Bool :=
  (src == 0 && 1 ≤ dst && dst ≤ 5) || ((src == 1 || src == 2) && 3 ≤ dst && dst ≤ 5)

end Sys2Proof.Machine
end

