-- ==== Sys2Proof/Machine/Drill.lean ====
section
/-!
DEFINITION. The registers of a drill (02_drill_state.md): reading, and writing with the checkpoint log's note of what a chunk
has written (R33); lanes written (R25, R97); the divergence stack (R26).
-/

namespace Sys2Proof.Machine

open Sys2Proof

/-! ### Reading registers -/

def allOnes : DWord := BitVec.allOnes 64

/-- The bits a PC has, [47:2] (R25): an address runs on from 0 past the top of the global window. PRESUMED (log 30). -/
def pcBits (a : DWord) : DWord := BitVec.ofNat 64 (a.toNat % 2 ^ 48 / 4 * 4)

/-- Element L of vN. -/
def Regs.vec (r : Regs) (n l : Nat) : Word := Map.get 0 r.v (64 * n + l)

/-- Element L of vN as a number. -/
def Regs.vecN (r : Regs) (n l : Nat) : Nat := (r.vec n l).toNat

/-- Element L of the pair vN, vN+1 (R20). -/
def Regs.pair (r : Regs) (n l : Nat) : Nat := r.vecN n l + 2 ^ 32 * r.vecN (n + 1) l

/-- sN. -/
def Regs.uni (r : Regs) (n : Nat) : DWord := Map.get 0 r.u n

/-- sN as a number. -/
def Regs.uniN (r : Regs) (n : Nat) : Nat := (r.uni n).toNat

/-- pN; p15 reads as all ones (R22). -/
def Regs.pred (r : Regs) (n : Nat) : DWord := if n = 15 then allOnes else Map.get 0 r.p n

/-- Byte b of tN. -/
def Regs.tileByte (r : Regs) (n b : Nat) : Byte := Map.get 0 r.tile (1024 * n + b)

/-- Side-band byte b of tN: 0x60, the e3m5 value 1.0, where nothing was written (R23, R24). -/
def Regs.sideByte (r : Regs) (n b : Nat) : Byte := Map.get 0x60 r.side (256 * n + b)

/-- Element e of aN, e = 32 * row + column. -/
def Regs.accElem (r : Regs) (n e : Nat) : Word := Map.get 0 r.acc (1024 * n + e)

/-! ### The checkpoint log (R33, R34) -/

/-- Bytes logged by item (R33). -/
def LogItem.bytes : LogItem → Nat
  | .vec _ => 256
  | .tile _ => 1280
  | .acc _ => 4096
  | .uni _ | .pred _ | .em | .status | .round | .seed | .trapvec | .fault | .depth => 8
  | .entry _ => 16

def logBytes (l : List LogItem) : Nat := l.foldl (fun n i => n + i.bytes) 0

/-- The drill with an item noted as written by its chunk. -/
def Drill.note (d : Drill) (i : LogItem) : Drill :=
  if i ∈ d.chunk.logged then d else { d with chunk := { d.chunk with logged := i :: d.chunk.logged } }

/-- vN or the pair vN, vN+1 noted as written. -/
def Drill.noteWide (d : Drill) (wide : Bool) (n : Nat) : Drill :=
  let d := d.note (.vec n)
  if wide then d.note (.vec (n + 1)) else d

/-! ### Writing registers -/

def Drill.setPc (d : Drill) (a : DWord) : Drill := { d with regs := { d.regs with pc := a } }

def Drill.setEm (d : Drill) (m : DWord) : Drill := ({ d with regs := { d.regs with em := m } }).note .em

/-- sN written, all 64 bits (R21). -/
def Drill.setUni (d : Drill) (n : Nat) (x : Nat) : Drill :=
  ({ d with regs := { d.regs with u := Map.put 0 d.regs.u n (BitVec.ofNat 64 x) } }).note (.uni n)

/-- pN written; a write to p15 is discarded (R22). -/
def Drill.setPred (d : Drill) (n : Nat) (m : DWord) : Drill :=
  if n = 15 then d
  else ({ d with regs := { d.regs with p := Map.put 0 d.regs.p n m } }).note (.pred n)

/-- A map with f L at k + L for the lanes listed. -/
def putLanes (m : Map Word) (k : Nat) (ls : List Nat) (f : Nat → Nat) : Map Word :=
  ls.foldl (fun m l => Map.put 0 m (k + l) (BitVec.ofNat 32 (f l))) m

/-- vN written in the lanes listed; nothing happens where none is. -/
def Drill.setVec (d : Drill) (n : Nat) (ls : List Nat) (f : Nat → Nat) : Drill :=
  if ls.isEmpty then d
  else ({ d with regs := { d.regs with v := putLanes d.regs.v (64 * n) ls f } }).note (.vec n)

/-- The pair vN, vN+1 written in the lanes listed (R20). -/
def Drill.setPair (d : Drill) (n : Nat) (ls : List Nat) (f : Nat → Nat) : Drill :=
  (d.setVec n ls f).setVec (n + 1) ls (fun l => f l / 2 ^ 32)

/-- vN or the pair vN, vN+1 written. -/
def Drill.setWide (d : Drill) (wide : Bool) (n : Nat) (ls : List Nat) (f : Nat → Nat) : Drill :=
  if wide then d.setPair n ls f else d.setVec n ls f

/-- A mask with bit L of the lanes listed set to f L, other bits kept. -/
def maskWith (m : DWord) (ls : List Nat) (f : Nat → Bool) : DWord :=
  ls.foldl (fun m l => if f l then m ||| ((1 : DWord) <<< l) else m &&& ~~~((1 : DWord) <<< l)) m

/-- Bits of pN written in the lanes listed (R121). -/
def Drill.setPredLanes (d : Drill) (n : Nat) (ls : List Nat) (f : Nat → Bool) : Drill :=
  if ls.isEmpty then d else d.setPred n (maskWith (d.regs.pred n) ls f)

/-- The payload of tN written whole, byte b as f b; the side-band is kept (R23). -/
def Drill.setTile (d : Drill) (n : Nat) (f : Nat → Nat) : Drill :=
  ({ d with regs := { d.regs with
      tile := (upto 1024).foldl (fun m b => Map.put 0 m (1024 * n + b) (BitVec.ofNat 8 (f b))) d.regs.tile } }).note (.tile n)

/-- The side-band of tN written whole. -/
def Drill.setSide (d : Drill) (n : Nat) (f : Nat → Nat) : Drill :=
  ({ d with regs := { d.regs with
      side := (upto 256).foldl (fun m b => Map.put 0x60 m (256 * n + b) (BitVec.ofNat 8 (f b))) d.regs.side } }).note (.tile n)

/-- aN written whole, element e as f e. -/
def Drill.setAcc (d : Drill) (n : Nat) (f : Nat → Nat) : Drill :=
  ({ d with regs := { d.regs with
      acc := (upto 1024).foldl (fun m e => Map.put 0 m (1024 * n + e) (BitVec.ofNat 32 (f e))) d.regs.acc } }).note (.acc n)

/-! ### Lanes written -/

/-- Whether lane l passes the GUARD hint (R97). -/
def guardPasses (r : Regs) (h : Hints) (l : Nat) : Bool :=
  match h.guard with
  | none => true
  | some (neg, p) => bitAt (r.pred p) l != neg

/-- The lanes an instruction writes: active in `em` and past the guard (R25, R110, R133). -/
def written (r : Regs) (h : Hints) : List Nat := lanes.filter (fun l => bitAt r.em l && guardPasses r h l)

/-! ### The divergence stack (R26) -/

/-- Entries a core holds of a divergence stack. -/
def coreHeld : Nat := 32

/-- Entries of the divergence stack, core-held and spilled. -/
def Regs.depth (r : Regs) : Nat := r.stack.length + r.spilled

/-- The stack with an entry pushed, and the depth and the entry noted; a 33rd entry puts the oldest core-held one among those spilled.
DESIGN CHOICE (log 82): it is logged whatever its slot held when the chunk started (R33). -/
def Drill.push (d : Drill) (e : StackEntry) : Drill :=
  let r := d.regs
  let r := if r.stack.length ≥ coreHeld then { r with stack := e :: r.stack.dropLast, spilled := r.spilled + 1 } else { r with stack := e :: r.stack }
  (({ d with regs := r }).note .depth).note (.entry d.regs.depth)

/-- The stack with its newest entry popped. -/
def Drill.pop (d : Drill) : Drill :=
  ({ d with regs := { d.regs with stack := d.regs.stack.tail } }).note .depth

/-- The newest spilled entry back in the core, as its oldest, and logged (DESIGN CHOICE, log 82). -/
def Drill.unspill (d : Drill) (e : StackEntry) : Drill :=
  ({ d with regs := { d.regs with stack := d.regs.stack ++ [e], spilled := d.regs.spilled - 1 } }).note (.entry (d.regs.spilled - 1))

/-- Whether a push would make entry 4,097. -/
def stackFull (d : Drill) : Bool := decide (d.regs.depth ≥ Config.stackEntries)

end Sys2Proof.Machine
end

