-- ==== Sys2Proof/Machine/Flags.lean ====
section
/-!
DEFINITION. The flags of `sr.status` (R29, R52), the count of non-finite elements, and the random bits and count of stochastic
rounding (R50).
-/

namespace Sys2Proof.Machine

open Sys2Proof

/-- The defined bits of `sr.status`: NF in [31:16], SA to NV in [6:0] (R29). -/
def statusMask : DWord := 0xFFFF007F

/-- Flags raised: each sticky, set once however many elements raise it. Nothing is written where none is raised. -/
def Drill.raise (d : Drill) (fl : Flags) : Drill :=
  if fl = 0 then d else ({ d with regs := { d.regs with status := d.regs.status ||| fl } }).note .status

/-- NF advanced by n, stopping at 0xFFFF (R29). -/
def Drill.countNonFinite (d : Drill) (n : Nat) : Drill :=
  if n = 0 then d
  else
    let nf := min 0xFFFF (d.regs.status.toNat / 65536 % 65536 + n)
    ({ d with regs := { d.regs with
        status := (d.regs.status &&& ~~~(0xFFFF0000 : DWord)) ||| BitVec.ofNat 64 (nf * 65536) } }).note .status

/-- One Galois step of the 32-bit generator. -/
def galois (s : Nat) : Nat := if s % 2 = 1 then (s / 2) ^^^ 0x80200003 else s / 2

/-- n Galois steps. -/
def galoisN : Nat → Nat → Nat
  | 0, s => s
  | n + 1, s => galoisN n (galois s)

/-- The state lane L starts from (R50). -/
def srStart (seed : DWord) (l : Nat) : Nat :=
  let count := seed.toNat / 2 ^ 32
  let s := (seed.toNat % 2 ^ 32) ^^^ ((l + 1) * 0x9E3779B9 % 2 ^ 32) ^^^ (count * 0x85EBCA6B % 2 ^ 32)
  if s = 0 then 1 else s

/-- The random bits r[k] of element k of lane L (R50). -/
def srBits (seed : DWord) (l k : Nat) : Nat := galoisN (32 * (k + 1)) (srStart seed l)

/-- The count in `sr.seed` advanced, where the instruction rounds with `sr` (R50). -/
def Drill.countSr (d : Drill) (mode : Mode) : Drill :=
  if mode = .sr then
    ({ d with regs := { d.regs with
        seed := BitVec.ofNat 64 (d.regs.seed.toNat % 2 ^ 32 + (d.regs.seed.toNat / 2 ^ 32 + 1) % 2 ^ 32 * 2 ^ 32) } }).note .seed
  else d

/-- The rounding context of element k of lane l. -/
def roundCtx (mode : Mode) (sat : Bool) (seed : DWord) (l k : Nat) : RoundCtx :=
  { mode := mode, sat := sat, r := if mode = .sr then srBits seed l k else 0 }

/-- The union of the flags the written lanes raise. -/
def flagsOf (ls : List Nat) (f : Nat → Flags) : Flags := ls.foldl (fun a l => a ||| f l) 0

end Sys2Proof.Machine
end

