-- ==== Sys2Proof/Machine/Glaze.lean ====
section
/-!
DEFINITION. Glaze maps (04_glaze_maps.md): the map and its tile, reading through a map, normal form, composition; and the
header's 32-byte image with its check code (21_glazed_memory.md R320, R321).
-/

namespace Sys2Proof.Machine

open Sys2Proof

/-- The identity of R60. -/
def GMap.identity : GMap := { a := 0x3F800000, b := 0x80000000, lo := 0xFF800000, hi := 0x7F800000, sh := 0, m := 0 }

/-- The element format of a descriptor's FMT field (R307). -/
def glazeFmt : Nat → Fmt
  | 0 => .f32 | 1 => .bf16 | 2 => .f16 | 3 => .e4m3
  | _ => .f32

/-- Bytes of an element. -/
def elemBytes (f : Fmt) : Nat := f.width / 8

/-- log2 of the number of elements of a tile of g bytes (R61). -/
def tileK (g : Nat) (f : Fmt) : Nat := Nat.log2 (g / elemBytes f)

/-- rotl over k bits (R62); s is below k in every map of the plot (R60; log 103). -/
def rotlK (k i s : Nat) : Nat := if k = 0 then 0 else (i * 2 ^ (s % k) + i / 2 ^ (k - s % k)) % 2 ^ k

/-- π(i) (R62). -/
def permute (k : Nat) (g : GMap) (i : Nat) : Nat := (rotlK k i g.sh) ^^^ g.m

/-- An exact sum; ∞ + (−∞) does not arise here. -/
def addVal (a b : FVal) : FVal :=
  match a, b with
  | .fin x, .fin y => .fin (addEx .rn x y)
  | .inf n, _ => .inf n
  | _, .inf n => .inf n
  | _, _ => .nan false

/-- a · x + b, exact. -/
def affine (a x b : FVal) : FVal :=
  match mulVal a x with
  | some p => addVal p b
  | none => .nan false

/-- v clamped to lo and hi; the comparisons treat −0 and +0 as equal (R63). -/
def clampVal (v lo hi : FVal) : FVal :=
  let v := if cmpVal v lo == .lt then lo else v
  if cmpVal v hi == .gt then hi else v

/-- Round(v, fmt, rn), NaN to the canonical NaN. -/
def roundVal (f : Fmt) (v : FVal) : Nat := (cvtTo f RoundCtx.rn v).1

/-- The view of element i of a tile under a map, from the payload's elements (R63). -/
def viewElem (f : Fmt) (k : Nat) (g : GMap) (x : Nat → Nat) (i : Nat) : Nat :=
  if g = GMap.identity then x i
  else if g.a = 0 then roundVal f (f32v g.b.toNat)
  else
    match unpack f (x (permute k g i)) with
    | .nan _ => f.nan
    | v => roundVal f (clampVal (affine (f32v g.a.toNat) v (f32v g.b.toNat)) (f32v g.lo.toNat) (f32v g.hi.toNat))

/-- The view of a whole tile of g bytes as a byte image. Where the header holds an s or m that the plot's k does not allow, since its descriptor has been
given another format or grain, the elements that the map reads are free values (R60, R62): DESIGN CHOICE (log 103). -/
def viewTile (f : Fmt) (size : Nat) (g : GMap) (bytes : List Byte) : List Byte :=
  if g = GMap.identity then bytes
  else
    let w := elemBytes f
    let k := tileK size f
    let x := fun i => if g.sh < k ∧ g.m < 2 ^ k then ofBytes ((bytes.drop (i * w)).take w) else (Config.strayElement g.sh g.m i bytes).toNat % 2 ^ (8 * w)
    (upto (size / w)).flatMap (fun i => toBytes w (viewElem f k g x i))

/-! ### Normal form and composition (R65, R67) -/

/-- A constant map; a NaN is recorded as the canonical one. -/
def GMap.const (b : Word) : GMap :=
  let b := if (f32v b.toNat).isNan then (0x7FC00000 : Word) else b
  { GMap.identity with a := 0, b := b }

/-- Whether an f32 pattern is ±0. -/
def isZeroWord (w : Word) : Bool := w.toNat % 2 ^ 31 == 0

/-- The bits of a value that is an operand among those given, for a clamp that returns one of them. -/
def clampWord (b lo hi : Word) : Word :=
  if (f32v b.toNat).isNan then b
  else
    let b := if cmpVal (f32v b.toNat) (f32v lo.toNat) == .lt then lo else b
    if cmpVal (f32v b.toNat) (f32v hi.toNat) == .gt then hi else b

/-- Normal form (R65). -/
def GMap.normal (g : GMap) : GMap :=
  if isZeroWord g.a then GMap.const (clampWord g.b g.lo g.hi)
  else if cmpVal (f32v g.lo.toNat) (f32v g.hi.toNat) == .eq then GMap.const g.lo
  else g

/-- What composing a map onto a tile gives: a new map, or a firing first. -/
inductive Composed where
  | install (g : GMap)
  | fireThen (g : GMap)
  deriving DecidableEq, Repr

/-- Round(M2.a · x + M2.b, f32, rn) with its flags, and whether x was finite. -/
def composeRound (a x b : FVal) : Nat × Flags := cvtTo .f32 RoundCtx.rn (affine a x b)

/-- Whether an f32 pattern is finite. -/
def isFiniteWord (x : Nat) : Bool :=
  match f32v x with
  | .fin _ => true
  | _ => false

/-- Compose(M1, M2) on a plot whose E bit is `exact`, for a tile of 2^k elements (R67, R68). -/
def compose (exact : Bool) (k : Nat) (m1 m2 : GMap) : Composed :=
  let a2 := f32v m2.a.toNat
  let b2 := f32v m2.b.toNat
  if isZeroWord m2.a then .install m2.normal
  else if isZeroWord m1.a then
    match f32v m1.b.toNat with
    | .nan _ => .install (GMap.const 0x7FC00000)
    | x =>
      let c := clampVal (affine a2 x b2) (f32v m2.lo.toNat) (f32v m2.hi.toNat)
      let (r, fl) := cvtTo .f32 RoundCtx.rn c
      if exact && isFiniteWord r && fl &&& flagNX != 0 then .fireThen m2.normal
      else .install (GMap.const (BitVec.ofNat 32 r))
  else
    let zero : FVal := .fin { neg := true, m := 0, e := 0, sticky := false }
    let (a, fa) := match mulVal a2 (f32v m1.a.toNat) with
      | some p => cvtTo .f32 RoundCtx.rn p
      | none => (Fmt.f32.nan, 0)
    let (b, fb) := composeRound a2 (f32v m1.b.toNat) b2
    let (l, fl) := composeRound a2 (f32v m1.lo.toNat) b2
    let (h, fh) := composeRound a2 (f32v m1.hi.toNat) b2
    let neg := cmpVal a2 zero == .lt
    let spill := !isFiniteWord a || !isFiniteWord b
      || (isFiniteWord m1.lo.toNat && !isFiniteWord l) || (isFiniteWord m1.hi.toNat && !isFiniteWord h)
    let inexact := (fa ||| fb ||| fl ||| fh) &&& flagNX != 0
    if spill || (exact && inexact) then .fireThen m2.normal
    else
      let lw := if neg then h else l
      let hw := if neg then l else h
      let lo := if cmpVal (f32v lw) (f32v m2.lo.toNat) == .gt then BitVec.ofNat 32 lw else m2.lo
      let hi := if cmpVal (f32v hw) (f32v m2.hi.toNat) == .lt then BitVec.ofNat 32 hw else m2.hi
      if cmpVal (f32v lo.toNat) (f32v hi.toNat) == .gt then
        .install (GMap.const (if cmpVal (f32v hw) (f32v m2.lo.toNat) == .lt then m2.lo else m2.hi))
      else
        .install (GMap.normal
          { a := BitVec.ofNat 32 a, b := BitVec.ofNat 32 b, lo := lo, hi := hi
            sh := if k = 0 then 0 else (m1.sh + m2.sh) % k, m := (rotlK k m2.m m1.sh) ^^^ m1.m })

/-! ### Headers (R320, R321) -/

/-- Bytes 0 to 29 of a header. -/
def headerBody (g : GMap) (ver : Nat) : List Byte :=
  toBytes 4 g.a.toNat ++ toBytes 4 g.b.toNat ++ toBytes 4 g.lo.toNat ++ toBytes 4 g.hi.toNat
    ++ toBytes 4 (g.sh + 2 ^ 16 * g.m) ++ toBytes 2 (if g = GMap.identity then 1 else 0) ++ toBytes 2 ver ++ toBytes 6 0

/-- The header of a map and a version, with its check code. -/
def Header.of (g : GMap) (ver : BitVec 16) : Header :=
  { map := g, ver := ver, chk := crc (headerBody g ver.toNat) }

/-- The header of a tile that no command has yet touched. -/
def Header.initial : Header := Header.of GMap.identity 0

/-- The 32 bytes of a header. -/
def Header.bytes (h : Header) : List Byte := headerBody h.map h.ver.toNat ++ toBytes 2 h.chk.toNat

/-- Whether the stored check code matches. -/
def Header.good (h : Header) : Bool := crc (headerBody h.map h.ver.toNat) == h.chk

/-- The header with another map: VER advanced and CHK afresh, or nothing where the map is the same (R321). -/
def Header.change (h : Header) (g : GMap) : Header := if g = h.map then h else Header.of g (h.ver + 1)

end Sys2Proof.Machine
end

