-- ==== Sys2Proof/Machine/Homes.lean ====
section
/-!
DEFINITION. The memory side (20_plots_and_translation.md, 21_glazed_memory.md, R277, R363, R364): descriptors, homes and local
addresses, page-table walks, the plot table, the memory-side cache, and what a commit does to a grain.
-/

namespace Sys2Proof.Machine

open Sys2Proof

/-! ### Keys, descriptors, addresses -/

/-- The key of a global address (R305). -/
def keyOf (asid va : Nat) : Nat := if va ≥ 0xF00000000000 then 0 else asid

/-- A field of a descriptor or an entry. -/
def dfield (d : DWord) (lo n : Nat) : Nat := field d.toNat lo n

/-- Grain sizes by GRAIN code (R307). -/
def grainSize (d : DWord) : Nat := if dfield d 7 2 = 0 then 32 else if dfield d 7 2 = 1 then 128 else 512

/-- log2 of the grain size. -/
def grainBits (d : DWord) : Nat := if dfield d 7 2 = 0 then 5 else if dfield d 7 2 = 1 then 7 else 9

/-- Whether a descriptor is valid (R307). -/
def descValid (d : DWord) : Bool :=
  bitAt d 0 && dfield d 22 42 == 0 && dfield d 5 2 != 3 && dfield d 7 2 != 3 && decide (dfield d 16 4 ≤ 8)
    && !(bitAt d 9 && (dfield d 5 2 == 2 || decide (dfield d 10 3 ≥ 4)))
    && !(!bitAt d 9 && (dfield d 10 3 != 0 || bitAt d 13))
    && !(bitAt d 21 && !bitAt d 4)

def descR (d : DWord) : Bool := bitAt d 1
def descW (d : DWord) : Bool := bitAt d 2
def descX (d : DWord) : Bool := bitAt d 3
def descS (d : DWord) : Bool := bitAt d 4
def descG (d : DWord) : Bool := bitAt d 9
def descM (d : DWord) : Bool := bitAt d 20
/-- TREAT: 0 tracked, 1 streaming, 2 uncached. -/
def descTreat (d : DWord) : Nat := dfield d 5 2
def descPrio (d : DWord) : Nat := dfield d 14 2
def descFmt (d : DWord) : Fmt := glazeFmt (dfield d 10 3)
def descExact (d : DWord) : Bool := bitAt d 13

/-- An address code: home, table (0 direct, 1 interleaved), key and LA in one number. -/
def addrCode (h t key la : Nat) : Nat := ((h * 2 + t) * 65536 + key) * 2 ^ 48 + la

def codeHome (a : Nat) : Nat := a / 2 ^ 65
def codeTable (a : Nat) : Nat := a / 2 ^ 64 % 2
def codeKey (a : Nat) : Nat := a / 2 ^ 48 % 65536
def codeLa (a : Nat) : Nat := a % 2 ^ 48

/-- The home and local address of a global address under a descriptor (R309). -/
def locate (d : DWord) (key va : Nat) : Nat :=
  let h := dfield d 16 4
  if h ≤ 7 then addrCode h 0 key va
  else addrCode ((va / 4096 % 8) ^^^ (va / 32768 % 8)) 1 key (va / 32768 * 4096 + va % 4096)

/-- The VA of an address code (R309). -/
def codeVa (a : Nat) : Nat :=
  let la := codeLa a
  if codeTable a = 0 then la
  else la / 4096 * 32768 + ((codeHome a) ^^^ (la / 4096 % 8)) * 4096 + la % 4096

/-- Whether an address code lies in a range of a key. -/
def inRange (r : Nat × Nat × Nat) (a : Nat) : Bool :=
  codeKey a == r.1 && decide (r.2.1 ≤ codeVa a) && decide (codeVa a < r.2.1 + r.2.2)

/-- The tag of a plot in a plot cache. -/
def plotTag (key va : Nat) : Nat := key * 2 ^ 32 + va / 65536

/-! ### Cores and homes of the state -/

def State.core (s : State) (c : Nat) : Core := Map.get Core.reset s.cores c
def State.setCore (s : State) (c : Nat) (x : Core) : State := { s with cores := Map.set s.cores c x }
def State.home (s : State) (h : Nat) : Home := Map.get Home.reset s.homes h
def State.setHome (s : State) (h : Nat) (x : Home) : State := { s with homes := Map.set s.homes h x }

/-- `sr.time`: nanoseconds since device reset, three arithmetic clocks each (R16, R28). -/
def State.time (s : State) : Nat := s.clock / 3

/-- Whether any port is linked (R15, R337). -/
def State.linked (s : State) : Bool := s.ports.any (fun p => p.up)

/-- Whether n bytes at an address code meet a range of a key. -/
def rangeMeets (r : Nat × Nat × Nat) (a n : Nat) : Bool := codeKey a == r.1 && overlap (codeVa a) n r.2.1 r.2.2

/-- A commit that its home has not yet applied and that changes what a read of the n bytes at an address code returns: no read of them is
served before it, whatever grain each was written under (R244, R252). -/
def State.pendingAt (s : State) (a n : Nat) : Bool :=
  s.commits.any (fun c => c.homes.any (fun h => h == codeHome a)
    && (c.grains.any (fun g => overlap g.addr g.size a n) || c.drops.any (fun r => rangeMeets r a n)
        || c.lastUse.any (fun l => overlap (512 * l) 512 a n)))

/-- Whether a home holds a deferred store of some of the n bytes at an address code: no read of them is served before its replay (R261). -/
def State.deferredAt (s : State) (a n : Nat) : Bool :=
  (s.home (codeHome a)).dsb.any (fun e => overlap e.write.addr e.write.size a n)

/-- The events by which a home applies what it has still to apply. -/
def State.applyEvents (s : State) (h : Nat) : List Instr := (s.commits.filter (fun c => h ∈ c.homes)).map (fun _ => Instr.homeApplyCommit h)

/-- Events put behind those already enabled. -/
def State.later (s : State) (es : List Instr) : State := { s with agenda := s.agenda ++ es }

/-! ### The journal (R367, R368) -/

/-- A record under the next JSN; the ring keeps the last 16,384. -/
def State.addRecord (s : State) (r : JRec) : State :=
  { s with
    journal := Map.set (Map.erase s.journal (s.nextJsn - Config.journalSlots)) s.nextJsn { r with time := s.time }
    nextJsn := s.nextJsn + 1 }

/-- A record of a device event, completed at once (R369), with the number of a related record, or 0 (R368). -/
def State.eventFor (s : State) (ref op asid da db : Nat) : State :=
  s.addRecord { csn := 0, cmdid := 0, asid := asid, session := 0xFFFF, op := op, status := 0, state := .completed,
                da := da, db := db, time := 0, ref := ref }

/-- A record of a device event that no other record is related to. -/
def State.event (s : State) (op asid da db : Nat) : State := s.eventFor 0 op asid da db

/-- A record brought to a state with a status (R369). -/
def State.setRecord (s : State) (jsn : Nat) (f : JRec → JRec) : State :=
  { s with journal := Map.update s.journal jsn (fun r => { f r with time := s.time }) }

/-! ### Bytes at the homes -/

/-- A byte as its home holds it: the memory-side cache's where newer, else bulk memory's. -/
def State.byteAt (s : State) (a : Nat) : Byte :=
  match Map.find s.newer a with
  | some b => b
  | none => Memory.get s.bulk a

/-- n bytes from a. -/
def State.bytesAt (s : State) (a n : Nat) : List Byte := (upto n).map (fun k => s.byteAt (a + k))

/-- A byte written at its home: newer in the memory-side cache than in bulk (R314). -/
def State.putByte (s : State) (a : Nat) (b : Byte) : State := { s with newer := Map.set s.newer a b }

/-- Bytes written from a. -/
def State.putBytes (s : State) (a : Nat) : List Byte → State
  | [] => s
  | b :: bs => State.putBytes (s.putByte a b) (a + 1) bs

/-- Every newer byte that meets p written back to bulk memory. -/
def State.writeBack (s : State) (p : Nat → Bool) : State :=
  { s with
    bulk := (s.newer.filter (fun c => p c.1)).foldl (fun m c => Memory.put m c.1 c.2) s.bulk
    newer := s.newer.filter (fun c => !p c.1) }

/-- Every newer byte that meets p discarded, so that reads return what bulk memory last received (R162, R175). -/
def State.discard (s : State) (p : Nat → Bool) : State :=
  { s with newer := s.newer.filter (fun c => !p c.1) }

/-! ### The memory-side cache (R277, R314) -/

/-- The priority an access leaves on a line that holds one (R277). -/
def linePrio (old new : Nat) : Nat := if new = 0 then 0 else if old = 3 then 3 else new

/-- The last of a list that meets p. -/
def lastWith {α : Type} (p : α → Bool) (l : List α) : Option α := l.reverse.find? p

/-- The victim of a set, or none while it has room for one more line: least recently used of the lowest priority present. -/
def mcVictim (ways : Nat) (ls : List McLine) : Option McLine :=
  if ls.length < ways then none
  else
    match lastWith (fun x => x.prio == 0) ls, lastWith (fun x => x.prio == 1) ls, lastWith (fun x => x.prio == 2) ls with
    | some x, _, _ => some x
    | none, some x, _ => some x
    | none, none, some x => some x
    | none, none, none => ls.getLast?

/-! ### Page tables (R311 to R313) -/

/-- The key of a page-table entry. -/
def ptKey (h t key level la : Nat) : Nat :=
  (((h * 2 + t) * 65536 + key) * 8 + level) * 2 ^ 36
    + la / 2 ^ (if level = 1 then 39 else if level = 2 then 30 else if level = 3 then 21 else 16)

/-- What a walk meets. -/
inductive Walk where
  | page (resident large : Bool) (loc : Nat)
  | migrating
  | fatal (level : Nat)
  deriving DecidableEq, Repr

def entV (e : DWord) : Bool := bitAt e 0
def entRes (e : DWord) : Bool := bitAt e 1
def entLarge (e : DWord) : Bool := bitAt e 2
def entMig (e : DWord) : Bool := bitAt e 3
def entNode (e : DWord) : Nat := dfield e 8 8
def entFrame (e : DWord) : Nat := dfield e 16 20
def entLoc (e : DWord) : Nat := dfield e 40 24

/-- Whether the reserved bits of an entry are zero (R312). -/
def entClean (e : DWord) : Bool := dfield e 4 4 == 0 && dfield e 36 4 == 0

/-- Whether an entry is a legal interior entry of a level (R312). -/
def interiorLegal (level : Nat) (e : DWord) : Bool :=
  entV e && entRes e && !entLarge e && entLoc e == 0 && entClean e && (level == 3 || entNode e % 16 == 0)

/-- Whether an entry is a legal page entry (R312). -/
def pageLegal (e : DWord) : Bool :=
  entV e && entClean e && entNode e == 0 && (!entRes e || entLoc e == 0) && (!entLarge e || !entRes e || entFrame e % 32 == 0)

/-- What a page entry answers. -/
def pageWalk (level : Nat) (e : DWord) : Walk :=
  if !pageLegal e then .fatal level
  else if entMig e then .migrating
  else .page (entRes e) (entLarge e) (entLoc e)

/-- The walk of an LA from a list of levels (R313). -/
def walkLevels (pt : Map DWord) (h t key la : Nat) : List Nat → Walk
  | [] => .fatal 4
  | level :: rest =>
    let e := Map.get 0 pt (ptKey h t key level la)
    if !entV e then .fatal level
    else if level = 4 then (if entLarge e then .fatal 4 else pageWalk 4 e)
    else if level = 3 ∧ entLarge e then pageWalk 3 e
    else if !interiorLegal level e then .fatal level
    else if entMig e then .migrating
    else walkLevels pt h t key la rest

/-- The walk for an address code. -/
def State.walk (s : State) (a : Nat) : Walk := walkLevels s.pt (codeHome a) (codeTable a) (codeKey a) (codeLa a) [1, 2, 3, 4]

/-- The page entry over an address, whatever its MIG, and whether it is a large page's. -/
def State.leaf (s : State) (a : Nat) : DWord × Bool :=
  let e := fun level => Map.get 0 s.pt (ptKey (codeHome a) (codeTable a) (codeKey a) level (codeLa a))
  if entV (e 3) && entLarge (e 3) then (e 3, true) else (e 4, false)

/-- The sector-valid bits of n bytes from an address within its 512-byte line (R314). -/
def lineSectors (a n : Nat) : BitVec 16 :=
  (upto 16).foldl (fun m q => if decide (a % 512 / 32 ≤ q) && decide (32 * q < a % 512 + n) then m ||| ((1 : BitVec 16) <<< q) else m) 0

/-- What a read of n bytes within one line meets: sectors that are held never walk (R313). -/
def State.fillWalk (s : State) (a n : Nat) : Walk :=
  if (s.home (codeHome a)).lines.any (fun x => x.line == a / 512 && x.sectors &&& lineSectors a n == lineSectors a n) then .page true false 0
  else s.walk a

/-- The 64 KiB frame of an address, as its page's entry gives it. -/
def State.frameOf (s : State) (a : Nat) : Nat :=
  let e := s.leaf a
  if e.2 then entFrame e.1 + codeLa a / 65536 % 32 else entFrame e.1

/-! ### Headers (R320 to R324) -/

/-- A tile's header: with its memory-side line where that has it changed, else in its page's header block. -/
def State.headerAt (s : State) (a : Nat) : Header :=
  match (s.home (codeHome a)).lines.find? (fun x => x.line == a / 512) with
  | some x => (Map.find x.headers a).getD (Map.get Header.initial s.headers a)
  | none => Map.get Header.initial s.headers a

/-- A line's summary bit: whether a tile in it has a header that is not identity, with the headers it carries (R324). -/
def State.summaryOf (s : State) (line : Nat) (carried : Map Header) : Bool :=
  carried.any (fun x => x.2.map != GMap.identity)
    || s.headers.any (fun x => x.1 / 512 == line && (Map.find carried x.1).isNone && x.2.map != GMap.identity)

/-- The summary of the line of an address: as its line has it, or as its fill would set it. -/
def State.summary (s : State) (a : Nat) : Bool :=
  match (s.home (codeHome a)).lines.find? (fun x => x.line == a / 512) with
  | some x => x.summary
  | none => s.summaryOf (a / 512) []

/-- The headers lines carry written back to their header blocks, as the lines leave the cache (R324). -/
def State.storeHeaders (s : State) (ls : List McLine) : State :=
  { s with headers := ls.foldl (fun m l => l.headers.foldl (fun m x => Map.put Header.initial m x.1 x.2) m) s.headers }

/-- An access of n bytes at a, within one line, at a priority: it fills or hits the line (R277, R314). The sectors a fill makes valid are
those of the access: DESIGN CHOICE (log 62). -/
def State.touch (s : State) (a n prio : Nat) : State :=
  let line := a / 512
  let h := codeHome a
  let hm := s.home h
  match hm.lines.find? (fun x => x.line == line) with
  | some x =>
    let x' := { x with prio := linePrio x.prio prio, sectors := x.sectors ||| lineSectors a n }
    s.setHome h { hm with lines := x' :: hm.lines.filter (fun y => y.line != line) }
  | none =>
    let new : McLine := { line := line, frame := s.frameOf a, sectors := lineSectors a n, prio := prio, summary := s.summaryOf line [], headers := [] }
    let set := hm.lines.filter (fun y => y.line % Config.mscSets == line % Config.mscSets)
    match mcVictim (Config.mscWays - hm.retired.length) set with
    | none => s.setHome h { hm with lines := new :: hm.lines }
    | some v =>
      ((s.writeBack (fun b => b / 512 == v.line)).storeHeaders [v]).setHome h
        { hm with lines := new :: hm.lines.filter (fun y => y.line != v.line) }

/-- The lines that meet p dropped from a home's tags, the headers they carry written back. -/
def State.dropLines (s : State) (h : Nat) (p : Nat → Bool) : State :=
  let hm := s.home h
  (s.storeHeaders (hm.lines.filter (fun x => p x.line))).setHome h { hm with lines := hm.lines.filter (fun x => !p x.line) }

/-- Units of 4 KiB of a header block, by GRAIN code. -/
def blockUnits (grain : Nat) : Nat := if grain = 0 then 16 else if grain = 1 then 4 else 1

/-- Where a block lies, in units of 4 KiB counted from the end of the stack's last frame downward by frames. -/
def Block.pos (b : Block) : Nat := (Config.framesPerStack - 1 - b.frame) * 16 + b.place

/-- A block for a page given the place nearest the end of the table area that is free (log 5). -/
def Home.addBlock (h : Home) (page grain : Nat) : Home :=
  let n := blockUnits grain
  let free := fun (q : Nat) => !h.blocks.any (fun b => overlap q n b.pos (blockUnits b.grain))
  let q := ((0 :: h.blocks.map (fun b => roundUp (b.pos + blockUnits b.grain) n)).filter free).foldl
    (fun (m : Option Nat) q => match m with | none => some q | some x => some (min x q)) none
  let q := q.getD 0
  { h with blocks := { page := page, grain := grain, frame := Config.framesPerStack - 1 - q / 16, place := q % 16 } :: h.blocks }

/-- Whether a page has a header block. -/
def Home.hasBlock (h : Home) (page : Nat) : Bool := h.blocks.any (fun b => b.page == page)

/-- A header of a tile of a plot written: beside its line where that is held, else in its block, which exists from then on (R323,
R324). A block's tile size is that of the tile whose header creates it. -/
def State.setHeader (s : State) (d : DWord) (a : Nat) (h : Header) : State :=
  if h = s.headerAt a then s
  else
    let hm := s.home (codeHome a)
    let hm := if hm.hasBlock (a / 65536) then hm else hm.addBlock (a / 65536) (dfield d 7 2)
    if hm.lines.any (fun x => x.line == a / 512) then
      s.setHome (codeHome a) { hm with lines := hm.lines.map (fun x =>
        if x.line = a / 512 then
          let hs := Map.set x.headers a h
          { x with headers := hs, summary := s.summaryOf x.line hs }
        else x) }
    else { s.setHome (codeHome a) hm with headers := Map.put Header.initial s.headers a h }

/-- The bytes a reader sees of a grain of a plot: payload, or the tile's view (R63, R327). -/
def State.view (s : State) (d : DWord) (a : Nat) : List Byte :=
  let raw := s.bytesAt a (grainSize d)
  if descG d then viewTile (descFmt d) (grainSize d) (s.headerAt a).map raw else raw

/-- The first byte of the grain of an address. -/
def grainBase (d : DWord) (a : Nat) : Nat := a / grainSize d * grainSize d

/-- One byte as a reader sees it. -/
def State.seen (s : State) (d : DWord) (a : Nat) : Byte :=
  if descG d then (s.view d (grainBase d a)).getD (a % grainSize d) 0 else s.byteAt a

/-- Whether a tile's header is read and its check code fails: one in a line with no header but identity is not read (R321, R324). -/
def State.headerBad (s : State) (d : DWord) (a : Nat) : Bool := descG d && s.summary a && !(s.headerAt a).good

/-- Whether the check code of a header fails that a composition reads, whose map and VER it needs whatever the line's summary (R321). -/
def State.editBad (s : State) (d : DWord) (a : Nat) : Bool := descG d && !(s.headerAt a).good

/-- Whether a check code fails on what a read of n bytes at a returns (R321, R363). -/
def State.dataError (s : State) (d : DWord) (a n : Nat) : Bool :=
  let g := grainBase d a
  if descG d then s.bad.any (fun x => decide (g / 32 ≤ x ∧ x < (g + grainSize d) / 32)) || s.headerBad d g
  else s.bad.any (fun x => decide (a / 32 ≤ x ∧ x ≤ (a + n - 1) / 32))

/-- Whether the page of an address is resident, for a write's allocation. -/
def State.resident (s : State) (a : Nat) : Bool :=
  match s.walk a with
  | .page r _ _ => r
  | _ => false

/-- The first byte of the page an address lies in: 64 KiB, or 2 MiB for a large page. -/
def State.pageOf (s : State) (a : Nat) : Nat := if (s.leaf a).2 then a / 2097152 * 2097152 else a / 65536 * 65536

/-! ### The plot table (R306) -/

/-- What a look-up of a plot gives: its descriptor as the table holds it; or a node that cannot be read yet, since its page is not resident or
its home has an earlier write of it still to apply; or one whose walk is fatal, or whose bytes or header fail their check code (R252, R321,
R363). -/
inductive PlotRes where
  | desc (d : DWord)
  | page (a : Nat)
  | fatal (a level : Nat)
  | bad
  deriving DecidableEq, Repr

/-- Whether an interior entry of the plot table is legal; `leaf` where it names a leaf node (R306). -/
def plotInterior (leaf : Bool) (e : DWord) : Bool :=
  bitAt e 0 && dfield e 48 4 ≤ 7 && dfield e 52 12 == 0 && dfield e 1 12 == 0 && !(leaf && bitAt e 13)

/-- The entry at an index of a node, read from its home as committed memory under the global key; `entry` reads the 8 bytes there. The read has no
priority in the memory-side cache, and leaves its lines as they are: DESIGN CHOICE (log 106). -/
def State.plotEntry (s : State) (entry : Nat → Nat → PlotRes) (home va index : Nat) : PlotRes :=
  let a := addrCode home 0 0 (va + 8 * index)
  match s.fillWalk (a / 32 * 32) 32 with
  | .fatal l => .fatal a l
  | .migrating => .page a
  | .page false _ _ => .page a
  | .page true _ _ =>
    if (s.home home).gated || s.pendingAt a 8 || s.deferredAt a 8 then .page a
    else entry a (va + 8 * index)

/-- The walk of a plot table from its root node. -/
def State.plotWalk (s : State) (entry : Nat → Nat → PlotRes) (home root va : Nat) : PlotRes :=
  match s.plotEntry entry home root (va / 2 ^ 37 % 2048) with
  | .desc e =>
    if !plotInterior false e then .desc 0
    else match s.plotEntry entry (dfield e 48 4) (dfield e 13 35 * 8192) (va / 2 ^ 27 % 1024) with
      | .desc e =>
        if !plotInterior true e then .desc 0
        else s.plotEntry entry (dfield e 48 4) (dfield e 13 35 * 8192) (va / 65536 % 2048)
      | r => r
  | r => r

/-- A plot-table entry at an address code as the payload has it, where its sector's check code holds (R363). -/
def State.rawEntry (s : State) (a : Nat) : PlotRes :=
  if s.bad.any (fun x => x == a / 32) then .bad else .desc (BitVec.ofNat 64 (ofBytes (s.bytesAt a 8)))

/-- Whether an address code lies in a tile, of whatever size, whose map is not identity. -/
def State.tileMapped (s : State) (a : Nat) : Bool := [32, 128, 512].any (fun g => (s.headerAt (a / g * g)).map != GMap.identity)

/-- A plot-table entry whose tile no valid descriptor is found for: its payload, or a free value where the tile's map is not identity, since no path
returns that payload (R327; log 63). -/
def State.bareEntry (s : State) (a : Nat) : PlotRes :=
  if s.tileMapped a then .desc (Config.nodeEntry s.tick a) else s.rawEntry a

/-- The plot-table entry at an address code and VA. In a tile whose header is not identity it is eight bytes of the tile's view, whose check codes all
have to hold (R321, R327), under the descriptor that the global key's table gives for the node's plot; where that look-up waits or fails, the
read does as it does. The nodes of the look-up are read in the same way, `n` levels deep: DEDUCED (log 63). -/
def State.nodeEntryIn (s : State) : Nat → Nat → Nat → PlotRes
  | 0, a, _ => s.bareEntry a
  | n + 1, a, va =>
    if !s.summary a then s.rawEntry a
    else
      match (if plotInterior false s.globalRoot then
          s.plotWalk (s.nodeEntryIn n) (dfield s.globalRoot 48 4) (dfield s.globalRoot 13 35 * 8192) va else .desc 0) with
      | .desc d =>
        if !descValid d || locate d 0 va != a then s.bareEntry a
        else if !descG d then s.rawEntry a
        else if s.dataError d a 8 then .bad
        else .desc (BitVec.ofNat 64 (ofBytes ((upto 8).map (fun k => s.seen d (a + k)))))
      | r => r

/-- A plot-table entry as a look-up reads it. -/
def State.nodeEntry (s : State) (a va : Nat) : PlotRes := s.nodeEntryIn 2 a va

/-- The plot in which the block of management registers lies: no plot maps it (R380; DEDUCED, log 75). -/
def mgmtPlot : Nat := 0xFFFFFFFF

/-- The descriptor of a plot as its table holds it; the global key's root is an interior entry of State (R342). -/
def State.plotOf (s : State) (asid va : Nat) : PlotRes :=
  if va / 65536 = mgmtPlot then .desc 0
  else if keyOf asid va = 0 then
    (if plotInterior false s.globalRoot then s.plotWalk s.nodeEntry (dfield s.globalRoot 48 4) (dfield s.globalRoot 13 35 * 8192) va
     else .desc 0)
  else
    match Map.find s.ctxs asid with
    | some c => s.plotWalk s.nodeEntry c.rootHome c.root va
    | none => .desc 0

/-- The descriptor a core uses: its plot cache's, or the table's (R306, R308). -/
def State.plotFor (s : State) (core asid va : Nat) : PlotRes :=
  match Map.find (s.core core).plots (plotTag (keyOf asid va) va) with
  | some d => .desc d
  | none => s.plotOf asid va

/-- The core's plot cache with a descriptor put first; the oldest beyond 512 goes (R308). -/
def State.cachePlot (s : State) (core asid va : Nat) (d : DWord) : State :=
  let c := s.core core
  let tag := plotTag (keyOf asid va) va
  if c.plots.any (fun x => x.1 == tag) then s
  else s.setCore core { c with plots := ((tag, d) :: c.plots).take Config.plotCacheEntries }

/-! ### What a commit does to a grain (R242, R244, R328) -/

/-- The combination of a reduction (R166). -/
def redValue (op old v : Nat) : Nat :=
  match op with
  | 0 => (old + v) % 2 ^ 32
  | 1 => (fadd .f32 RoundCtx.rn (f32v old) (f32v v)).1
  | 2 => if signed 32 old ≤ signed 32 v then old else v % 2 ^ 32
  | 3 => if signed 32 old ≥ signed 32 v then old else v % 2 ^ 32
  | 4 => old &&& (v % 2 ^ 32)
  | 5 => old ||| (v % 2 ^ 32)
  | _ => (old + v) % 2 ^ 64

/-- Bytes of a reduction's target. -/
def redBytes (op : Nat) : Nat := if op = 6 then 8 else 4

/-- One reduction applied at its home. -/
def State.applyRed (s : State) (r : Red) : State :=
  let n := redBytes r.op
  s.putBytes r.addr (toBytes n (redValue r.op (ofBytes (s.bytesAt r.addr n)) r.value.toNat))

/-- Bytes of an atomic's target. -/
def AtomOp.bytes (a : AtomOp) : Nat := if a.wide then 8 else 4

/-- The value an atomic writes (R165), of w bits. -/
def atomValue (op w old v vn : Nat) : Nat :=
  match op with
  | 0 => (old + v) % 2 ^ w
  | 1 => if signed w old ≤ signed w v then old else v
  | 2 => if signed w old ≥ signed w v then old else v
  | 3 => old &&& v
  | 4 => old ||| v
  | 5 => old ^^^ v
  | 6 => v
  | _ => if old = v then vn else old

/-- An old value delivered into the register of the drill that waits for it. The drill's running chunk is empty, and starts with
the value. -/
def State.deliver (s : State) (a : AtomOp) (old : Nat) : State :=
  let put := fun (m : Map Word) =>
    let m := Map.put 0 m (64 * a.reg + a.lane) (BitVec.ofNat 32 old)
    if a.wide then Map.put 0 m (64 * (a.reg + 1) + a.lane) (BitVec.ofNat 32 (old / 2 ^ 32)) else m
  { s with drills := Map.update s.drills a.drill (fun d =>
      { d with regs := { d.regs with v := put d.regs.v }
               chunk := { d.chunk with start := { d.chunk.start with v := put d.chunk.start.v } } }) }

/-- One atomic performed at its home (R165). -/
def State.applyAtom (s : State) (a : AtomOp) : State :=
  let old := ofBytes (s.bytesAt a.addr a.bytes)
  (s.putBytes a.addr (toBytes a.bytes (atomValue a.op (8 * a.bytes) old a.v a.vn))).deliver a old

/-- The kiln fires a tile: its view into its payload, identity into its header (R328). -/
def State.fireTile (s : State) (d : DWord) (a : Nat) : State :=
  let h := s.headerAt a
  if h.map = GMap.identity then s
  else (s.putBytes a (s.view d a)).setHeader d a (h.change GMap.identity)

/-- A map composed onto a tile (R67, R68, R321). -/
def State.composeTile (s : State) (d : DWord) (a : Nat) (g : GMap) : State :=
  let h := s.headerAt a
  match compose (descExact d) (tileK (grainSize d) (descFmt d)) h.map g with
  | .install m => s.setHeader d a (h.change m)
  | .fireThen m =>
    let s := s.fireTile d a
    s.setHeader d a ((s.headerAt a).change m)

/-- Whether composing a map onto a tile fires it first. -/
def State.composeFires (s : State) (d : DWord) (a : Nat) (g : GMap) : Bool :=
  match compose (descExact d) (tileK (grainSize d) (descFmt d)) (s.headerAt a).map g with
  | .install _ => false
  | .fireThen _ => true

/-! ### Table frames (R311, R315, R322, R323, R367, R381) -/

/-- Table frames from the end of the area down to the last that a home's header blocks take. -/
def Home.blockFrames (h : Home) : Nat := h.blocks.foldl (fun n b => max n (Config.framesPerStack - b.frame)) 0

/-- Table frames a home's page-table nodes take. -/
def Home.nodeFrames (h : Home) : Nat := roundUp (256 * h.nodes) 65536 / 65536

/-- Frames of a stack's pinned table area for nodes below the roots and for header blocks: those of log 5, less the 160 that hold the
frame-owner table and the journal mirrors. -/
def tableRoom : Nat := Config.framesPerStack - Config.tableFrames - 160

/-- A home with blocks for more pages, each with its GRAIN code. -/
def Home.withBlocks (h : Home) (bs : List (Nat × Nat)) : Home :=
  bs.foldl (fun (h : Home) b => if h.hasBlock b.1 then h else h.addBlock b.1 b.2) h

/-- Whether a home can hold blocks for more pages. -/
def Home.blockRoom (h : Home) (bs : List (Nat × Nat)) : Bool :=
  decide ((h.withBlocks bs).blockFrames + h.nodeFrames ≤ tableRoom)

/-- Whether a home can hold more units of nodes. A frame reserved for header blocks takes none, where it was still free; units that fit
a frame of nodes already taken need no further one (R381). -/
def Home.nodeRoom (h : Home) (reserve units : Nat) : Bool :=
  let n := ({ h with nodes := h.nodes + units } : Home).nodeFrames
  n == h.nodeFrames || decide (max h.blockFrames reserve + n ≤ tableRoom)

/-- The map a composition leaves in a header. -/
def State.composed (s : State) (d : DWord) (a : Nat) (g : GMap) : GMap :=
  match compose (descExact d) (tileK (grainSize d) (descFmt d)) (s.headerAt a).map g with
  | .install m => m
  | .fireThen m => m

/-- Whether a header edit creates its page's block (R323). -/
def State.needsBlock (s : State) (g : GrainWrite) : Bool :=
  match g.edit with
  | some m => !(s.home (codeHome g.addr)).hasBlock (g.addr / 65536) && s.composed g.desc g.addr m != GMap.identity
  | none => false

/-- The page of a grain and the GRAIN code of its tile, for a header block. -/
def GrainWrite.block (g : GrainWrite) : Nat × Nat := (g.addr / 65536, dfield g.desc 7 2)

/-- The header blocks that edits under way at a home may still create: those of commits it has to apply and of deferred entries (R323). -/
def State.blocksOwed (s : State) (h : Nat) : List (Nat × Nat) :=
  (((s.commits.filter (fun c => h ∈ c.homes)).flatMap (fun c => c.grains) ++ (s.home h).dsb.map (fun e => e.write)).filter
    (fun g => codeHome g.addr == h && g.edit.isSome)).map GrainWrite.block

/-- Whether a grain's commit writes payload, and so fires a tile that is not identity. -/
def GrainWrite.writes (g : GrainWrite) : Bool := !g.bytes.isEmpty || !g.reds.isEmpty || !g.atoms.isEmpty || g.fire

/-- The sectors of a grain of which bytes are written, and whether all 32 are. -/
def GrainWrite.whole (g : GrainWrite) (sector : Nat) : Bool :=
  (upto 32).all (fun k => (Map.find g.bytes (sector * 32 + k)).isSome)

/-- Whether a grain's header edit fires its tile, and so needs its payload (R329). -/
def State.editFires (s : State) (g : GrainWrite) : Bool :=
  match g.edit with
  | some m => s.composeFires g.desc g.addr m
  | none => false

/-- Whether the kiln meets a bad header as it applies a grain: the tile is then left as it is (R321; DEDUCED, log 64). -/
def State.kilnHeaderBad (s : State) (g : GrainWrite) : Bool :=
  (g.writes && s.headerBad g.desc g.addr) || (g.edit.isSome && s.editBad g.desc g.addr)

/-- Whether the kiln fires a grain's tile as it applies the grain (R328). -/
def State.kilnFires (s : State) (g : GrainWrite) : Bool :=
  !s.kilnHeaderBad g && ((descG g.desc && g.writes && (s.headerAt g.addr).map != GMap.identity) || s.editFires g)

/-- The sectors whose check code the kiln finds wrong as it writes a grain: those it reads, which are those not written whole that it writes in, and
every sector of a tile that it fires, unless the grain covers the whole tile (R328, R363, R364); with a bad header, every sector of the tile. -/
def State.kilnErrors (s : State) (g : GrainWrite) : List Nat :=
  let reads := s.kilnFires g && !(upto (g.size / 32)).all g.whole
  (upto (g.size / 32)).filter (fun k =>
    s.kilnHeaderBad g
    || s.bad.any (fun x => x == g.addr / 32 + k)
      && (reads || !g.whole k && (g.bytes.any (fun c => c.1 / 32 == k) || g.reds.any (fun r => (r.addr - g.addr) / 32 == k)
          || g.atoms.any (fun r => (r.addr - g.addr) / 32 == k))))

/-- The words of a grain of an executable plot that a write of a CSN changes, as they were before it: each drill of the key may have them in its
fetch buffer until a `fence.x`, after which it sees every word committed up to the fence's chunk (R100, R173; log 3). -/
def State.keepWords (s before : State) (csn : Nat) (g : GrainWrite) : State :=
  if !descX g.desc then s
  else
    let word := fun (t : State) (k : Nat) => ofBytes ((upto 4).map (fun j => t.seen g.desc (g.addr + 4 * k + j)))
    let old := (upto (g.size / 4)).filter (fun k => word before k != word s k)
    { s with drills := s.drills.map (fun (c : Nat × Drill) =>
        if (g.key = 0 ∨ c.2.asid = g.key) ∧ c.2.fenced < csn then
          (c.1, { c.2 with fetched := old.foldl (fun m k =>
            if (Map.find m (g.va + 4 * k)).isSome then m else Map.set m (g.va + 4 * k) (BitVec.ofNat 32 (word before k))) c.2.fetched })
        else c) }

/-- A grain's commit of a CSN applied: firing, bytes under their mask, reductions and atomics in order, then a header edit (R242, R328). -/
def State.applyGrain (s : State) (csn : Nat) (g : GrainWrite) : State :=
  let before := s
  if s.kilnHeaderBad g then g.atoms.foldl (fun s a => s.deliver a (ofBytes (s.bytesAt a.addr a.bytes))) s
  else
  let s := if g.writes || s.editFires g then s.touch g.addr g.size g.prio else s
  let s := if descG g.desc && g.writes then s.fireTile g.desc g.addr else s
  let s := g.bytes.foldl (fun s c => s.putByte (g.addr + c.1) c.2) s
  let s := g.atoms.foldl State.applyAtom (g.reds.foldl State.applyRed s)
  let s := { s with bad := s.bad.filter (fun x => !(decide (g.addr / 32 ≤ x) && decide (x < (g.addr + g.size) / 32)
              && g.whole (x - g.addr / 32))) }
  (match g.edit with
    | some m => s.composeTile g.desc g.addr m
    | none => s).keepWords before csn g

end Sys2Proof.Machine
end

