-- ==== Sys2Proof/Machine/Order.lean ====
section
/-!
DEFINITION. The commit order (13_drills_and_chunks.md R239 to R249): signatures, chunks, squash, stamping, what homes and cores
do with a commit; tokens (R222); the deferred-store buffer (R351, R352); the fault unit (R355 to R358).
-/

namespace Sys2Proof.Machine

open Sys2Proof

/-! ### Signatures (R240, R241) -/

/-- The key of a global grain. -/
def grainKey (key va gbits : Nat) : DWord := BitVec.ofNat 64 (key * 2 ^ 47 + va / 2 ^ gbits)

/-- The key of a scratchpad grain. -/
def scratchKey (off : Nat) : DWord := BitVec.ofNat 64 (2 ^ 63 + off / 32)

/-- h_k of a key, y being the key rotated left by r[k]. -/
def sigFold (y : Nat) : Nat :=
  (y % 512) ^^^ (y / 2 ^ 9 % 512) ^^^ (y / 2 ^ 18 % 512) ^^^ (y / 2 ^ 27 % 512) ^^^ (y / 2 ^ 36 % 512)
    ^^^ (y / 2 ^ 45 % 512) ^^^ (y / 2 ^ 54 % 512) ^^^ (y / 2 ^ 63)

/-- h_k(K), with r = [0, 17, 31, 46]. -/
def sigHash (k : DWord) (r : Nat) : Nat := sigFold (rotl 64 k.toNat r)

/-- The bank with bit n set. -/
def setBit512 (b : BitVec 512) (n : Nat) : BitVec 512 := b ||| ((1 : BitVec 512) <<< n)

/-- K entered. -/
def Sig.enter (s : Sig) (k : DWord) : Sig :=
  { b0 := setBit512 s.b0 (sigHash k 0), b1 := setBit512 s.b1 (sigHash k 17)
    b2 := setBit512 s.b2 (sigHash k 31), b3 := setBit512 s.b3 (sigHash k 46) }

/-- Whether K is contained. -/
def Sig.has (s : Sig) (k : DWord) : Bool :=
  s.b0.getLsbD (sigHash k 0) && s.b1.getLsbD (sigHash k 17) && s.b2.getLsbD (sigHash k 31) && s.b3.getLsbD (sigHash k 46)

/-- Whether two signatures meet. -/
def Sig.meets (a b : Sig) : Bool :=
  a.b0 &&& b.b0 != 0 && a.b1 &&& b.b1 != 0 && a.b2 &&& b.b2 != 0 && a.b3 &&& b.b3 != 0

/-- Bits set in a bank. -/
def bankCount (b : BitVec 512) : Nat := popcount 512 b.toNat

/-- Whether some bank holds more than 256 bits (R239). -/
def Sig.full (s : Sig) : Bool :=
  decide (bankCount s.b0 > 256) || decide (bankCount s.b1 > 256) || decide (bankCount s.b2 > 256) || decide (bankCount s.b3 > 256)

/-! ### Drills and chunks -/

/-- The core of a drill slot. -/
def coreOf (k : Nat) : Nat := k / 64
/-- The partition of a drill slot (R12). -/
def partOf (k : Nat) : Nat := k % 4

/-- The reset LIMIT (R31). -/
def limitMax : Nat := 4096

/-- A chunk at its start. -/
def Chunk.fresh (r : Regs) (sq limit : Nat) (expl : Option Expl) : Chunk :=
  { start := r, units := 0, limit := limit, sq := sq, expl := expl, solo := false, rsig := Sig.empty,
    wsig := Sig.empty, wglob := Sig.empty, spec := [], scratch := [], grains := [], eps := [], lines := [], refs := [], plots := [], reds := [], atoms := [], touched := [], reduced := [],
    pcs := [], logged := [], lastUse := [], fault := none, drops := [], replayed := false, after := none, afterUnit := UnitCtx.empty }

/-- A drill's entry replaced. -/
def State.setDrill (s : State) (k : Nat) (d : Drill) : State := { s with drills := Map.set s.drills k d }

/-- A drill's entry changed, where there is one. -/
def State.updDrill (s : State) (k : Nat) (f : Drill → Drill) : State := { s with drills := Map.update s.drills k f }

/-- Whether a workgroup is resident and not stopped. -/
def State.running (s : State) (wg : Nat) : Bool :=
  match Map.find s.wgs wg with
  | some w => w.state == .resident
  | none => false

/-- Bytes of its partition's checkpoint log a drill holds, in both its chunks (R33). -/
def Drill.logHeld (d : Drill) : Nat :=
  logBytes d.chunk.logged + (match d.older with | some o => logBytes o.chunk.logged | none => 0)

/-- Bytes of the log of the partition of slot k that the other drills hold. -/
def State.logOthers (s : State) (k : Nat) : Nat :=
  s.drills.foldl (fun n c =>
    if c.1 ≠ k ∧ coreOf c.1 = coreOf k ∧ partOf c.1 = partOf k then n + c.2.logHeld else n) 0

/-- The drills that meet p and wait for w try again. -/
def State.wake (s : State) (w : Wait) (p : Nat → Drill → Bool) : State :=
  { s with drills := s.drills.map (fun c => if c.2.wait = w ∧ p c.1 c.2 then (c.1, { c.2 with wait := .none }) else c) }

/-- Drills of a core whose `scr.grow` waits for ways (R176). -/
def growWaiters (s : State) (core : Nat) : List Instr :=
  (s.drills.filter (fun c => coreOf c.1 == core && (match c.2.wait with | .grow _ _ => true | _ => false))).map
    (fun c => Instr.scrGrowComplete c.1)

/-- Whether some launch has a workgroup to place or to resume. -/
def State.placing (s : State) : Bool :=
  s.launches.any (fun l => l.2.eligible && l.2.failed.isNone && decide (l.2.next < l.2.record.nx * l.2.record.ny * l.2.record.nz))
    || s.wgs.any (fun w => w.2.state == .saved)

/-- The drills of a core that wait for log room or L1 ways try again (R34, R268). -/
def State.wakeWays (s : State) (core : Nat) : State := s.wake .log (fun j _ => coreOf j == core)

/-- The drills of the core of slot k that wait for log room or L1 ways try again, and so do placements (R34, R176, R268, R270). -/
def State.wakeLog (s : State) (k : Nat) : State :=
  (s.wakeWays (coreOf k)).later (growWaiters s (coreOf k) ++ (if s.placing then [.placeWorkgroup] else []))

/-- The event of the operation an instruction performs after its chunk's stamp (R197). -/
def opEvent (k : Nat) : Instr → List Instr
  | .barReg .. | .barArv .. | .barWt .. | .barDrp .. | .exit => [.barrierOperation k]
  | .lnch .. => [.lnchAppend k]
  | .flr .. => [.flrWriteBackDone k]
  | .scrGrow .. | .scrShrk .. => [.scrGrowComplete k]
  | .fenceS => [.streamAck 0 0]
  | _ => [.commandHandoff k]

/-- The events of the operations that the drills whose wait meets p have still to perform. -/
def opEvents (s : State) (p : Wait → Bool) : List Instr :=
  (s.drills.filter (fun c => p c.2.wait)).flatMap (fun c => match c.2.chunk.after with | some i => opEvent c.1 i | none => [])

/-- The drills held back by commits of others try again, at their unit or at the operation after their last chunk. -/
def State.wakeOrder (s : State) : State := (s.wake .order (fun _ _ => true)).later (opEvents s (fun w => w == .order))

/-- The transitions of clusters looked at again (R379). -/
def State.gateEvents (s : State) : List Instr := s.mgmt.moving.map (fun x => Instr.gateTransitionEnd x.1)

/-- The prepares a full or gated home has not accepted, sent again (R353). -/
def State.prepareEvents (s : State) : List Instr :=
  s.drills.flatMap (fun c => match c.2.older with
    | some o => (match o.phase with | .preparing hs => hs.map (fun h => Instr.homePrepare h c.1) | _ => [])
    | none => [])

/-- The drill's prepares withdrawn at every home (R246). -/
def State.withdraw (s : State) (k : Nat) : State :=
  { s with
    homes := s.homes.map (fun (c : Nat × Home) => (c.1, { c.2 with prepares := c.2.prepares.filter (fun p => p.drill != k) }))
    requests := s.requests.filter (fun (r : Request) => r.drill != k) }.later s.gateEvents

/-- The drills of a key that wait for a reservation ask again, in the order in which the token reaches their slices (R247). -/
def soloWaiters (s : State) (key : Nat) : List Instr :=
  let asks := s.drills.filter (fun c => c.2.asid == key && c.2.chunk.sq == 4 && !c.2.chunk.solo && c.2.chunk.units == 0)
  (upto 8).flatMap (fun n => (asks.filter (fun c => coreOf c.1 / 32 == (s.token + n) % 8)).map (fun c => Instr.soloGrant c.1))

/-- The event that takes a command on; the image of `glz.rdh` lands in scratchpad with its engine chunk (R227). -/
def cmdEvent (id : Nat) (c : Command) : Instr := if c.targets.isEmpty || c.major == 0x78 then .engineChunkCommit id else .sectorLand id

/-- Every command tried again. -/
def State.wakeEngines (s : State) : State := s.later (s.cmds.map (fun c => cmdEvent c.1 c.2))

/-- The commands that have not taken effect tried again. -/
def State.retryHeld (s : State) : State := if s.held.isEmpty then s else { s with retry := s.held.map (fun p => p.jsn) }

/-- What a reservation may have held back, requests, engine chunks, records and host writes, looked at again (R247). -/
def State.heldBackTried (s : State) : State :=
  (s.later (if s.requests.isEmpty && s.records.isEmpty then [] else [.orderTokenVisit])).wakeEngines.retryHeld

/-- The reservation of a drill ended; others of its key are asked for, and what it held back is looked at again (R247). -/
def State.endSolo (s : State) (k : Nat) : State :=
  match s.solos.find? (fun o => o.drill == k) with
  | none => s
  | some o =>
    let s := { s with solos := s.solos.filter (fun o => o.drill != k) }.wakeOrder
    (s.later (soloWaiters s o.key)).heldBackTried

/-- The grains of a drill's reservation registered no more, for a unit that has not executed: it registers them again as it does (R247). -/
def State.unregister (s : State) (k : Nat) : State :=
  if s.solos.any (fun o => o.drill == k && !o.grains.isEmpty) then
    ({ s with solos := s.solos.map (fun (o : Solo) => if o.drill = k then { o with grains := [] } else o) }.wakeOrder).heldBackTried
  else s

/-- What a home without room refused, looked at again as entries that an accepted prepare would have needed are free (R353). -/
def State.roomFreed (s : State) : State := ((s.wake .room (fun _ _ => true)).later s.prepareEvents).wakeEngines.retryHeld

/-- Whether a home has accepted a prepare of a drill. -/
def State.prepared (s : State) (k : Nat) : Bool := s.homes.any (fun h => h.2.prepares.any (fun p => p.drill == k))

/-- SQ and LIMIT after a squash that counts (R246); an explicit chunk keeps its limit (R171). -/
def squashedFresh (c : Chunk) (count : Bool) : Chunk :=
  { Chunk.fresh c.start (if count then min (c.sq + 1) 4 else c.sq)
      (if count && c.expl.isNone then max (c.limit / 2) 256 else c.limit) c.expl with replayed := c.replayed }

/-- The event a fresh chunk with SQ = 4 needs before its first unit (R247). -/
def soloAsk (k : Nat) (c : Chunk) : List Instr := if c.sq = 4 then [.soloGrant k] else []

/-- Whether no unit of a drill's running chunk has executed or can: it stands in the operation after its last chunk's stamp, at its end, or where an
unhandled trap stopped it (R191, R197). -/
def Drill.between (d : Drill) : Bool := d.chunk.after.isSome || d.wait == .atom || d.wait == .exiting || d.wait == .stopped

/-- The running chunk squashed: the drill restarts at its first unit (R246). An operation that follows a stamp belongs to no chunk, and goes on; no
squash of a chunk is counted with it (R197). -/
def State.squashNewer (s : State) (k : Nat) (count : Bool) : State :=
  match Map.find s.drills k with
  | none => s
  | some d =>
    let c := squashedFresh d.chunk (count && !d.between)
    let c := if d.between then { c with after := d.chunk.after, afterUnit := d.chunk.afterUnit } else c
    let s := s.setDrill k { d with regs := d.chunk.start, chunk := c, wait := if d.between then d.wait else .none, inflight := 0 }
    ((if d.chunk.solo then s.endSolo k else s).wakeLog k).later (soloAsk k c)

/-- Both chunks squashed: the drill restarts at the older one's first unit, and only the older one's SQ and LIMIT change (R245).
Without an older chunk, the running one is squashed. A newer chunk that ran again for a residue mismatch is forgotten with it: DESIGN CHOICE (log 86). -/
def State.squash (s : State) (k : Nat) (count : Bool) : State :=
  match Map.find s.drills k with
  | none => s
  | some d =>
    match d.older with
    | none => s.squashNewer k count
    | some o =>
      let c := squashedFresh o.chunk count
      let prepared := s.prepared k
      let s := (s.setDrill k { d with regs := o.chunk.start, chunk := c, older := none, wait := .none, inflight := 0 }).withdraw k
      let s := if prepared then s.roomFreed else s
      ((s.endSolo k).wakeLog k).later (soloAsk k c)

/-- What a drill has still to do after its last chunk's stamp is not done, since its context or workgroup ends (R279, R304). -/
def State.dropOp (s : State) (k : Nat) : State :=
  s.updDrill k (fun d => if d.between then { d with chunk := { d.chunk with after := none, afterUnit := UnitCtx.empty }, wait := .none } else d)

/-- Whether the reservation of another drill holds back a W of a key: it contains a registered grain of that key or of the shared
window (R247). -/
def State.soloHolds (s : State) (p : Solo → Bool) (key : Nat) (w : Sig) : Bool :=
  s.solos.any (fun o => p o && o.grains.any (fun g => w.has g && (o.key == key || field g.toNat 47 17 == 0)))

/-! ### Tokens (R222, R287) -/

/-- The token word after a signal: COUNT advanced modulo 2^63, ERR set by a failing one and kept (R222). -/
def tokenSignalled (w : DWord) (err : Bool) : DWord :=
  BitVec.ofNat 64 ((w.toNat % 2 ^ 63 + 1) % 2 ^ 63 + (if err ∨ w.toNat / 2 ^ 63 = 1 then 2 ^ 63 else 0))

def State.tokenWord (s : State) (asid i : Nat) : DWord :=
  match Map.find s.ctxs asid with
  | some c => Map.get 0 c.tokens i
  | none => 0

/-- Whether a token wait is over: COUNT at or above the value, or ERR (R224). -/
def tokenReached (w : DWord) (v : Nat) : Bool := decide (w.toNat % 2 ^ 63 ≥ v) || bitAt w 63

/-- Drills whose token wait is over. -/
def tokenWaiters (s : State) (asid i : Nat) : List Instr :=
  (s.drills.filter (fun c => c.2.asid == asid && (match c.2.wait with
    | .token j v _ => j == i && tokenReached (s.tokenWord asid i) v
    | _ => false))).map (fun c => Instr.engWtReturn c.1)

/-- A token word written; waits it ends, of drills and of launches, are looked at (R224, R290). -/
def State.setToken (s : State) (asid i : Nat) (w : DWord) : State :=
  let s := { s with ctxs := Map.update s.ctxs asid (fun c => { c with tokens := Map.put 0 c.tokens i w }) }
  s.later (tokenWaiters s asid i ++ [.placeWorkgroup])

/-- A signal applied to a token; deferred while Bolhorn is updated (R373). -/
def State.signal (s : State) (asid i : Nat) (err : Bool) : State :=
  if s.mgmt.updating.isSome then { s with mgmt := { s.mgmt with deferred := s.mgmt.deferred ++ [.signal asid i err] } }
  else s.setToken asid i (tokenSignalled (s.tokenWord asid i) err)

/-- An event of the command processor or the paging agent; deferred while Bolhorn is updated (R373). -/
def State.unlessUpdating (s : State) (i : Instr) (f : State) : State :=
  if s.mgmt.updating.isSome then { s with mgmt := { s.mgmt with deferred := s.mgmt.deferred ++ [.event i] } } else f

/-! ### Streaming invalidation and L1 (R196, R265 to R268) -/

/-- The clean lines that go together with one: the four of a 512-byte grain (R266). -/
def L1Line.sameGrain (x y : L1Line) : Bool :=
  x.key == y.key && x.streaming == y.streaming && x.va / 2 ^ (max 7 x.gbits) == y.va / 2 ^ (max 7 x.gbits)

/-- Whether a clean line holds or begins a tile, and so refers to its entry: a 512-byte tile is referred to from its first line. -/
def L1Line.refersTo (x : L1Line) (tag : Nat) : Bool :=
  x.glazed && x.key == tag / 2 ^ 48 && x.va == tag % 2 ^ 48 / 128 * 128 && x.sectors.getLsbD (tag / 32 % 4)

/-- A core with other clean lines; the header-table entries that no clean line refers to are free (R325). -/
def Core.withL1 (c : Core) (l1 : List L1Line) : Core :=
  { c with l1 := l1, glaze := c.glaze.filter (fun e => l1.any (fun x => x.refersTo e.1)) }

/-- The clean lines that meet p invalidated, those of one 512-byte grain together (R266). -/
def Core.dropClean (c : Core) (p : L1Line → Bool) : Core :=
  let hit := c.l1.filter p
  c.withL1 (c.l1.filter (fun x => !hit.any (fun y => y.sameGrain x)))

/-- The fills of a core that meet p and whose data the home has read already made stale: a line filled from them would be older than what the
core has since invalidated or written (R249, R255). -/
def State.staleFills (s : State) (core : Nat) (p : Fill → Bool) : State :=
  { s with fills := s.fills.map (fun (f : Nat × Fill) =>
      if f.2.core = core ∧ f.2.served ∧ p f.2 then (f.1, { f.2 with stale := true }) else f) }

/-- The streaming lines of a core under the keys that meet p invalidated, and what is under way to become one (R255). -/
def State.dropStreaming (s : State) (core : Nat) (p : Nat → Bool) : State :=
  (s.setCore core ((s.core core).dropClean (fun x => x.streaming && p x.key))).staleFills core (fun f => descTreat f.desc == 1 && p f.key)

/-- The streaming lines of an ASID, and of the global key, in a core invalidated (R196). -/
def State.invalidateStreams (s : State) (core asid : Nat) : State := s.dropStreaming core (fun k => k == asid || k == 0)

/-- The set of an address in L1. -/
def l1Set (va : Nat) : Nat := va / 128 % Config.l1Sets

/-! ### What waits at homes, tried again -/

/-- Everything that waits for a page, a plot, a home or room at one tried again: drills whose wait meets p, at their unit or at the
operation after their last chunk, engines, prepares, replays of tapes, saves, placements, records, commands of the host. -/
def State.stir (s : State) (p : Wait → Bool) : State :=
  let ops := opEvents s p
  let s := { s with drills := s.drills.map (fun (c : Nat × Drill) => if p c.2.wait then (c.1, { c.2 with wait := .none }) else c) }
  (s.later (ops
    ++ s.cmds.map (fun c => cmdEvent c.1 c.2) ++ s.prepareEvents
    ++ (s.ctxs.filter (fun c => c.2.replay.isSome && c.2.replayWait.isNone)).map (fun c => Instr.tapePop c.1)
    ++ (s.wgs.filter (fun w => w.2.state == .stopping)).map (fun w => Instr.preempt w.1)
    ++ (if s.placing then [.placeWorkgroup] else []) ++ (if s.records.isEmpty then [] else [.orderTokenVisit])
    ++ s.gateEvents)).retryHeld

/-! ### Stamping (R243 to R245, R251) -/

/-- The highest CSN such that a core has applied every broadcast up to it (R242). -/
def State.horizon (s : State) (core : Nat) : Nat :=
  match s.commits.find? (fun c => core ∈ c.cores) with
  | some c => c.csn - 1
  | none => s.nextCsn - 1

/-- The cores a commit is released to: those that run a drill of its key, or, under the global key, every core (R244); cores
whose state is that of reset hold nothing a broadcast could change. -/
def State.receivers (s : State) (key : Nat) (all : Bool) : List Nat :=
  ((s.drills.filter (fun c => all || c.2.asid == key)).map (fun c => coreOf c.1)
    ++ (if all then s.cores.map (fun c => c.1) else [])).dedup

/-- The homes a commit has something to do at. -/
def commitHomes (grains : List GrainWrite) (drops : List (Nat × Nat × Nat)) (lu : List Nat) : List Nat :=
  (grains.map (fun g => codeHome g.addr) ++ (if drops.isEmpty then [] else upto 8) ++ lu.map (fun l => codeHome (l * 512))).dedup

/-- A commit stamped with the next CSN. Its homes and, once they are done, its cores still have to apply it. -/
def State.stamp (s : State) (c : Commit) : State :=
  let homes := commitHomes c.grains c.drops c.lastUse
  let c := { c with csn := s.nextCsn, homes := homes, released := homes.isEmpty, cores := s.receivers c.key c.all }
  let s := { s with
    nextCsn := s.nextCsn + 1
    commits := s.commits.filter (fun (x : Commit) => decide (x.csn + Config.arbiterWindow > s.nextCsn) || !x.homes.isEmpty || !x.cores.isEmpty)
      ++ [c] }
  s.wakeOrder.later (homes.map Instr.homeApplyCommit ++ (if homes.isEmpty then c.cores.map Instr.broadcastApply else []))

/-- A launch told of the CSN of a chunk or engine chunk of it (R368). -/
def State.launchAt (s : State) (jsn csn : Nat) : State :=
  { s with launches := Map.update s.launches jsn (fun l => { l with csn := csn }) }

/-- A commit with nothing in it. -/
def Commit.blank (key : Nat) : Commit :=
  { csn := 0, key := key, all := false, w := Sig.empty, wb := Sig.empty, grains := [], homes := [], drops := [], lastUse := [], plot := none, cores := [], released := false }

/-- W of grains written by an engine: those of tracked plots (R220, R248). -/
def engineSig (gs : List GrainWrite) : Sig :=
  gs.foldl (fun w g => if descTreat g.desc = 0 then w.enter (grainKey g.key g.va (grainBits g.desc)) else w) Sig.empty

/-- The commit of an engine chunk. -/
def engineCommit (asid : Nat) (gs : List GrainWrite) : Commit :=
  { Commit.blank asid with all := gs.any (fun g => g.key == 0), w := engineSig gs, wb := engineSig gs, grains := gs }

/-! ### What a chunk sends (R242) -/

/-- The grain's part of a chunk's stores and reductions. -/
def chunkGrain (c : Chunk) (asid core k launch : Nat) (g : GrainUse) : GrainWrite :=
  { addr := g.addr, size := g.size, key := g.key, va := g.va, desc := g.desc
    bytes := (c.spec.filter (fun b => decide (g.addr ≤ b.1) && decide (b.1 < g.addr + g.size))).map (fun b => (b.1 - g.addr, b.2))
    reds := c.reds.filter (fun r => !r.scratch && decide (g.addr ≤ r.addr) && decide (r.addr < g.addr + g.size))
    atoms := c.atoms.filter (fun r => decide (g.addr ≤ r.addr) && decide (r.addr < g.addr + g.size))
    fire := false, edit := none, prio := g.prio, asid := asid
    attrs := (c.pcs.filter (fun p => decide (g.addr / 32 ≤ p.sector) && decide (p.sector < (g.addr + g.size) / 32))).map
      (fun p => { off := p.sector - g.addr / 32, pc := p.pc, who := core / 32 / 2 * 16384 + core * 64 + k % 64, kind := p.kind,
                  token := 0, launch := launch }) }

/-- Every grain of a drill's chunk. -/
def Drill.grainWrites (d : Drill) (k : Nat) (c : Chunk) : List GrainWrite :=
  c.grains.map (chunkGrain c d.asid (coreOf k) k d.launch)

/-! ### The deferred-store buffer and the fault unit -/

/-- A fault record of one sector of a grain's write (R357 to R359). -/
def sectorRec (kind csn loc : Nat) (fires : Bool) (g : GrainWrite) (sector : Nat) : FaultRec :=
  let a : Attr := match g.attrs.find? (fun a => a.off == sector) with
    | some a => a
    | none => g.attrs.getD 0 { off := 0, pc := 0, who := 0xFFFF, kind := 4, token := 0, launch := 0 }
  let mask := if fires then 2 ^ 32 - 1
    else (upto 32).foldl (fun m k =>
      if (Map.find g.bytes (sector * 32 + k)).isSome
        || g.reds.any (fun r => decide (r.addr ≤ g.addr + sector * 32 + k) && decide (g.addr + sector * 32 + k < r.addr + redBytes r.op))
        || g.atoms.any (fun r => decide (r.addr ≤ g.addr + sector * 32 + k) && decide (g.addr + sector * 32 + k < r.addr + r.bytes))
      then m + 2 ^ k else m) 0
  { asid := g.asid, key := g.key, kind := kind, detail := a.kind, mask := mask, va := g.va + 32 * sector, who := a.who, pc := a.pc.toNat,
    token := a.token, csn := csn, launch := a.launch, plot := g.desc.toNat, loc := loc }

/-- What a map composed onto a tile's map leaves there, and whether it fires the tile (R67, R68). -/
def composedMap (d : DWord) (old g : GMap) : GMap × Bool :=
  match compose (descExact d) (tileK (grainSize d) (descFmt d)) old g with
  | .install m => (m, false)
  | .fireThen m => (m, true)

/-- The map of a grain's tile when a write of a CSN reaches it: what the header holds, and what the deferred entries before it leave
(R329, R351). -/
def State.mapBefore (s : State) (csn : Nat) (g : GrainWrite) : GMap :=
  ((s.home (codeHome g.addr)).dsb.filter (fun e => e.write.addr == g.addr && decide (e.csn < csn))).foldl (fun m e =>
    let m := if e.write.writes then GMap.identity else m
    match e.write.edit with
    | some x => (composedMap g.desc m x).1
    | none => m) (s.headerAt g.addr).map

/-- Whether a grain's commit of a CSN fires its tile. -/
def State.firesTile (s : State) (csn : Nat) (g : GrainWrite) : Bool :=
  let m := s.mapBefore csn g
  descG g.desc && ((g.writes && m != GMap.identity)
    || (match g.edit with | some x => (composedMap g.desc (if g.writes then GMap.identity else m) x).2 | none => false))

/-- One record for each sector a grain's commit writes (R351, R352). -/
def State.sectorRecs (s : State) (kind csn loc : Nat) (g : GrainWrite) : List FaultRec :=
  let fires := s.firesTile csn g
  ((upto (g.size / 32)).map (sectorRec kind csn loc fires g)).filter (fun r => r.mask != 0)

/-- The locator of a non-resident page. -/
def State.locOf (s : State) (a : Nat) : Nat :=
  let e := (s.leaf a).1
  if entV e && !entRes e then entLoc e else 0

/-- Whether a locator is valid: zero-fill, or a page at a source with an entry in the backing-source table (R360). -/
def State.locValid (s : State) (loc : Nat) : Bool :=
  loc == 0xFFFFFF || (decide (1 ≤ loc / 2 ^ 20) && decide (loc / 2 ^ 20 ≤ 14) && (Map.find s.mgmt.bsrc (loc / 2 ^ 20)).isSome)

/-- Whether the page of an address is not resident and has no valid backing. -/
def State.noBacking (s : State) (a : Nat) : Bool :=
  match s.walk a with
  | .page false _ _ => !s.locValid (s.locOf a)
  | _ => false

/-- The demand a home's paging comes to first: of those that stand there, the one made first (R360). -/
def State.firstDemand (s : State) (h : Nat) : Option Nat := (s.demands.find? (fun d => d.2.home == h)).map (fun d => d.1)

/-- The event that takes the first demand of a home on: the agent serves it, or finds it without a valid backing (R360). -/
def demandEvents (s : State) (h : Nat) : List Instr :=
  match s.firstDemand h with
  | none => []
  | some n => match Map.find s.demands n with
    | none => []
    | some d => [if s.locValid (s.locOf (addrCode d.home d.table d.key d.la)) then .pageFetchComplete n else .backingNoSuchPage n]

/-- A demand for the page of an address, with its number: the one that stands, or a new one (R360). -/
def State.demandFor (s : State) (a : Nat) : State × Nat :=
  let p := s.pageOf a
  match s.demands.find? (fun c => addrCode c.2.home c.2.table c.2.key c.2.la == p) with
  | some (n, _) => (s, n)
  | none =>
    let n := s.nextId
    let s := { s with
      nextId := n + 1
      demands := Map.set s.demands n { home := codeHome p, table := codeTable p, key := codeKey p, la := codeLa p,
                                       retried := false, askers := [] } }
    (s.later (if s.firstDemand (codeHome p) = some n then demandEvents s (codeHome p) else []), n)

/-- An asker of the page of a demand, if it is one. -/
def State.asked (s : State) (page : Option Nat) (x : Asker) : State :=
  match page with
  | some n => { s with demands := Map.update s.demands n (fun d => if x ∈ d.askers then d else { d with askers := d.askers ++ [x] }) }
  | none => s

/-- An asker that asks for no page any more. -/
def State.unasked (s : State) (x : Asker) : State :=
  { s with demands := s.demands.map (fun (d : Nat × Demand) => (d.1, { d.2 with askers := d.2.askers.filter (fun y => y != x) })) }

/-- Whether a home cannot read n bytes at an address code until a gating or a page operation there is over (R313, R379). -/
def State.homeBusy (s : State) (a n : Nat) : Bool := (s.home (codeHome a)).gated || (s.fillWalk a n matches .migrating)

/-- The node of a look-up that cannot be read now: its home takes what it has still to apply, a gating or a page operation there ends, or its page is
demanded; with the wait of a drill (R161, R252, R360, R379). -/
def State.nodeWait (s : State) (a : Nat) : State × Wait :=
  if s.pendingAt a 8 then (s.later [.homeApplyCommit (codeHome a)], .order)
  else if s.homeBusy (a / 32 * 32) 32 then (s, .migrating)
  else
    let r := s.demandFor a
    (r.1, .page r.2)

/-- Whether a grain's commit has to be deferred at its home: its page is not resident and it needs the payload, or an earlier
entry of the grain stands (R329, R351, R352). -/
def State.defers (s : State) (g : GrainWrite) : Bool :=
  let entry := s.deferredAt g.addr g.size
  let payload := g.writes || s.firesTile s.nextCsn g
  entry || (payload && !(s.fillWalk g.addr g.size matches .page true _ _))

/-- Whether a grain's commit takes a deferred-store entry: one that has to be deferred and whose walk is not fatal (R313, R351). -/
def State.entryNeeded (s : State) (g : GrainWrite) : Bool := s.defers g && !(s.walk g.addr matches .fatal _)

/-- A death to be carried out: the context, the KIND and DETAIL of its record, the record's page, and the unit, command or write whose
walk or wait it was, with the CSN of a write's chunk (R357, R361). -/
structure Death where
  asid : Nat
  kind : Nat
  detail : Nat
  page : Nat
  attr : Attr
  csn : Nat
  deriving DecidableEq, Repr

/-- What one grain's commit comes to at its home: the state, the records to append, and the deaths of fatal walks (R313). -/
structure Applied where
  s : State
  recs : List FaultRec
  fatal : List Death

/-- The attribution of writes of no drill and no command. -/
def Attr.device : Attr := { off := 0, pc := 0, who := 0xFFFF, kind := 4, token := 0, launch := 0 }

/-- Whether a context has died, or is none of those that stand; the global key has none. -/
def State.isDead (s : State) (asid : Nat) : Bool :=
  match Map.find s.ctxs asid with
  | some c => c.dead
  | none => asid != 0

/-- The DETAIL of the records of a dead context's discarded writes (R358). -/
def State.causeOf (s : State) (asid : Nat) : Nat :=
  match Map.find s.ctxs asid with
  | some c => if c.dead then c.cause else 5
  | none => 5

/-- Whether a walk for a grain's commit meets MIG and has to wait (R313). -/
def State.migHolds (s : State) (g : GrainWrite) : Bool :=
  (s.defers g || s.needsBlock g) && (s.walk g.addr matches .migrating)

/-- A kind 7 record for each sector whose check code the kiln finds wrong; `fires` says that the grain's commit fires its tile (R359, R363). -/
def kilnRecs (csn : Nat) (fires : Bool) (g : GrainWrite) (errs : List Nat) : List FaultRec :=
  errs.map (fun k => { sectorRec 7 csn 0 fires g k with detail := 1 })

/-- A grain's commit of a CSN applied by the kiln, with an event and a record for each sector whose check code it finds wrong (R363). -/
def State.kilnApply (s : State) (csn : Nat) (g : GrainWrite) : State × List FaultRec :=
  let errs := s.kilnErrors g
  (errs.foldl (fun s k => s.event 0x8A 0 (codeHome g.addr) (codeLa g.addr + 32 * k)) (s.applyGrain csn g), kilnRecs csn (s.kilnFires g) g errs)

/-- Several grains applied one after another. -/
def State.kilnApplyAll (s : State) (csn : Nat) (gs : List GrainWrite) : State × List FaultRec :=
  gs.foldl (fun x g => let y := x.1.kilnApply csn g; (y.1, x.2 ++ y.2)) (s, [])

/-- The death a grain's fatal walk brings its context, attributed as the write is (R313, R357). -/
def GrainWrite.death (g : GrainWrite) (csn level : Nat) : Death :=
  { asid := g.asid, kind := 4, detail := level, page := g.addr, attr := g.attrs.getD 0 Attr.device, csn := csn }

/-- One grain of a commit at its home (R244, R351). A write of a context that has died meanwhile, and that would be deferred, is discarded
as its entries were (R361). -/
def State.commitGrain (s : State) (csn : Nat) (g : GrainWrite) : Applied :=
  if s.defers g then
    match s.walk g.addr with
    | .fatal l => ⟨s, [], [g.death csn l]⟩
    | _ =>
      let h := codeHome g.addr
      let hm := s.home h
      let loc := s.locOf g.addr
      if s.isDead g.asid then ⟨s, (s.sectorRecs 3 csn loc g).map (fun r => { r with detail := s.causeOf g.asid }), []⟩
      else
      let recs := s.sectorRecs 1 csn loc g
      ⟨((s.setHome h { hm with dsb := hm.dsb ++ [{ csn := csn, write := g, copies := 2 }] }).demandFor g.addr).1, recs, []⟩
  else if s.needsBlock g && (s.walk g.addr matches .fatal _) then
    ⟨s, [], [g.death csn (match s.walk g.addr with | .fatal l => l | _ => 0)]⟩
  else
    let x := s.kilnApply csn g
    ⟨x.1, x.2, []⟩

/-- A list of grains, one after another. -/
def State.commitGrains (csn : Nat) : List GrainWrite → Applied → Applied
  | [], x => x
  | g :: gs, x =>
    let y := x.s.commitGrain csn g
    State.commitGrains csn gs ⟨y.s, x.recs ++ y.recs, x.fatal ++ y.fatal⟩

/-- Whether the 512-byte line of an address code overlaps a range of a context's addresses (R174). -/
def lineInRange (asid va len a : Nat) : Bool :=
  let x := codeVa (a / 512 * 512)
  codeKey a == keyOf asid x && overlap x 512 va len

/-- What a commit drops at a home: the lines of its ranges and its last-use lines, deferred grains kept (R162, R175). -/
def State.applyDrops (s : State) (h : Nat) (c : Commit) : State :=
  let gone := fun a => codeHome a == h && (c.drops.any (fun r => inRange r a) || c.lastUse.any (fun l => a / 512 == l))
  (s.discard gone).dropLines h (fun l => gone (l * 512))

/-- Commits with home h of the lowest one ticked off; released when none is left. -/
def tickHome (h csn : Nat) (cs : List Commit) : List Commit :=
  cs.map (fun c => if c.csn = csn then
    let homes := c.homes.filter (fun x => x != h)
    { c with homes := homes, released := homes.isEmpty } else c)

/-- Whether uncached atomics of a drill are still to be performed at some home (R354). -/
def State.atomsPending (s : State) (k : Nat) : Bool :=
  s.homes.any (fun h => h.2.dsb.any (fun e => e.write.atoms.any (fun a => a.drill == k)))
    || s.commits.any (fun c => c.grains.any (fun g => g.atoms.any (fun a => a.drill == k) && c.homes.any (fun h => h == codeHome g.addr)))

/-- What a stopped or draining workgroup awaits is looked at again (R278, R279, R298). -/
def State.nudge (s : State) (wg : Nat) : State :=
  match Map.find s.wgs wg with
  | some w => match w.state with
    | .stopping => s.later [.preempt wg]
    | .ending => s.later [.workgroupKill wg]
    | .draining => s.later [.workgroupExit wg]
    | _ => s
  | none => s

/-- Drills whose uncached atomics have all been performed go on, and what their stopped workgroups await is looked at. -/
def State.wakeAtoms (s : State) : State :=
  let done := s.drills.filter (fun c => c.2.wait == .atom && !s.atomsPending c.1)
  if done.isEmpty then s
  else done.foldl (fun s c => s.nudge c.2.wg) (s.wake .atom (fun k _ => !s.atomsPending k))

/-- The lowest commit a home has still to apply. -/
def State.nextAt (s : State) (h : Nat) : Option Commit := s.commits.find? (fun c => h ∈ c.homes)

/-- The event of a home's acknowledgement of streaming stores, where some drill awaits it and no entry holds them (R172, R256). -/
def State.ackEvents (s : State) (h csn : Nat) : List Instr :=
  if s.drills.any (fun d => (h, csn) ∈ d.2.pendingStreams) && !(s.home h).dsb.any (fun e => e.csn == csn)
  then [.streamAck h csn] else []

/-- Whether the lowest commit a home has still to apply waits for MIG to clear on a page it writes (R313). -/
def State.homeHeld (s : State) (h : Nat) : Bool :=
  match s.nextAt h with
  | none => false
  | some c => c.grains.any (fun g => codeHome g.addr == h && s.migHolds g)

/-- A home applies the lowest commit it has still to apply (R244), unless that waits. Its drops come before its own writes, so that a chunk's stores to
a line it has read for the last time stand: DESIGN CHOICE (log 96). -/
def State.homeApply (s : State) (h : Nat) : Applied :=
  match s.nextAt h with
  | none => ⟨s, [], []⟩
  | some c =>
    if s.homeHeld h then ⟨s, [], []⟩
    else
    let x := State.commitGrains c.csn (c.grains.filter (fun g => codeHome g.addr == h)) ⟨s.applyDrops h c, [], []⟩
    let s := ({ x.s with commits := tickHome h c.csn x.s.commits }.wakeOrder).wakeAtoms
    let s := s.later (s.ackEvents h c.csn ++ s.gateEvents)
    match s.commits.find? (fun x => x.csn == c.csn && x.released) with
    | some c => ⟨s.later (c.cores.map Instr.broadcastApply), x.recs, x.fatal⟩
    | none => ⟨s, x.recs, x.fatal⟩

/-- Every commit a home has still to apply, up to one that waits. -/
def State.drainHome (fuel h : Nat) (x : Applied) : Applied :=
  match fuel with
  | 0 => x
  | n + 1 =>
    if (x.s.nextAt h).isNone || x.s.homeHeld h then x
    else
      let y := x.s.homeApply h
      State.drainHome n h ⟨y.s, x.recs ++ y.recs, x.fatal ++ y.fatal⟩

/-- Deferred-store entries a home holds, or will need for the prepares it has accepted and the commits it has still to apply. -/
def State.entriesHeld (s : State) (h : Nat) : Nat :=
  (s.home h).dsb.length + (s.home h).prepares.foldl (fun n p => n + (p.grains.filter s.entryNeeded).length) 0
    + s.commits.foldl (fun n c =>
        if h ∈ c.homes then n + (c.grains.filter (fun g => codeHome g.addr == h && s.entryNeeded g)).length else n) 0

/-- Whether the home has room for the entries some grains will need (R353). -/
def State.entryRoom (s : State) (h : Nat) (gs : List GrainWrite) : Bool :=
  let need := (gs.filter (fun g => codeHome g.addr == h && s.entryNeeded g)).length
  need == 0 || decide (s.entriesHeld h + need ≤ Config.dsbEntries)

/-- The first non-resident page, at a home without room for them, of grains that would need an entry there. -/
def State.absentPage (s : State) (gs : List GrainWrite) : Option Nat :=
  (gs.find? (fun g => s.entryNeeded g && !s.entryRoom (codeHome g.addr) gs && (s.walk g.addr matches .page false _ _))).map (fun g => g.addr)

/-- What refused prepares wait for: the pages of their grains that would need an entry, demanded. No entry of theirs demands them, and
every wait ends as pages become resident (R250, R353; DEDUCED, log 95). `who` asks for them. -/
def State.demandRoom (s : State) (gs : List GrainWrite) (who : Asker) : State :=
  (gs.filter (fun g => s.entryNeeded g && !s.entryRoom (codeHome g.addr) gs && (s.walk g.addr matches .page false _ _))).foldl
    (fun s g =>
      let r := s.demandFor g.addr
      r.1.asked (some r.2) who) s

/-- Bytes at consecutive addresses of a context as writes of grains, each byte under its own key (R305) and one descriptor per plot; what is
not valid is left out. -/
def State.grainsOf (s : State) (asid va prio : Nat) (attr : Attr) (bytes : List Byte) : List GrainWrite :=
  let cell := fun k => match s.plotOf asid (va + k) with
    | .desc d => if descValid d then some (d, (va + k) / grainSize d * grainSize d) else none
    | _ => none
  let bases := ((upto bytes.length).filterMap cell).dedup
  bases.map (fun (d, b) =>
    { addr := locate d (keyOf asid b) b, size := grainSize d, key := keyOf asid b, va := b, desc := d
      bytes := ((upto bytes.length).filter (fun k => decide (b ≤ va + k) && decide (va + k < b + grainSize d))).map
        (fun k => (va + k - b, bytes.getD k 0))
      reds := [], atoms := [], fire := false, edit := none, prio := prio, asid := asid
      attrs := (upto (grainSize d / 32)).map (fun k => { attr with off := k }) })

/-- The 64 bytes of record number n (R357). -/
def FaultRec.bytes (r : FaultRec) (n : Nat) : List Byte :=
  toBytes 1 r.kind ++ toBytes 1 r.detail ++ toBytes 2 r.key ++ toBytes 4 r.mask ++ toBytes 6 r.va ++ toBytes 2 r.who
    ++ toBytes 6 (r.pc % 2 ^ 48) ++ toBytes 2 r.token ++ toBytes 8 r.csn ++ toBytes 8 r.launch ++ toBytes 8 r.plot
    ++ toBytes 8 n ++ toBytes 3 r.loc ++ toBytes 5 0

/-- Whether a range of a key lies in valid, writable, tracked plots and resident pages (R355, R356, R375). -/
def State.writable (s : State) (asid va n : Nat) : Bool :=
  (upto (n / 32)).all (fun k => match s.plotOf asid (va + 32 * k) with
    | .desc d => descValid d && descW d && descTreat d == 0 && (s.fillWalk (locate d (keyOf asid (va + 32 * k)) (va + 32 * k)) 32 matches .page true _ _)
    | _ => false)

/-- n bytes of a key's memory as a number, as committed. -/
def State.numberAt (s : State) (asid va n : Nat) : Nat :=
  ofBytes ((upto n).map (fun k => match s.plotOf asid (va + k) with
    | .desc d => s.seen d (locate d (keyOf asid (va + k)) (va + k))
    | _ => 0))

/-- An engine chunk of the fault unit stamped and applied at once at its homes; the kiln's records join those that wait, where `tell` has it. -/
def State.engineWrite (s : State) (asid : Nat) (gs : List GrainWrite) (tell : Bool) : State :=
  let x := s.kilnApplyAll s.nextCsn gs
  { x.1 with records := x.1.records ++ (if tell then x.2 else []) }.stamp { engineCommit asid gs with grains := [] }

/-- What the fault unit does with a record: it is lost, it is dropped with a count, or it is written; with the grains of its engine chunk
(R356). -/
inductive Filing where
  | lost
  | dropped (gs : List GrainWrite)
  | filed (gs : List GrainWrite)

/-- The slot of a queue that the next record goes to (R355). -/
def State.recordSlot (s : State) (asid q : Nat) : Nat := q + 64 + 64 * (s.numberAt asid q 8 % s.numberAt asid (q + 16) 4)

/-- Whether the CAP of a queue header is legal, and its address (R355). -/
def State.queueLegal (s : State) (asid q : Nat) : Bool :=
  let cap := s.numberAt asid (q + 16) 4
  decide (q % 64 = 0 ∧ q < 2 ^ 48 ∧ 16 ≤ cap ∧ cap ≤ 65536) && cap == 2 ^ Nat.log2 cap

/-- How the fault unit files a record, its queue's homes having nothing left to apply (R356). -/
def State.filing (s : State) (r : FaultRec) : Filing :=
  match Map.find s.ctxs r.asid with
  | none => .lost
  | some c =>
    let q := c.faultq.toNat
    let cap := s.numberAt r.asid (q + 16) 4
    let read := s.numberAt r.asid (q + 8) 8
    let write := s.numberAt r.asid q 8
    let slot := s.recordSlot r.asid q
    if !(s.writable r.asid q 64 && s.queueLegal r.asid q && s.writable r.asid slot 64) then .lost
    else if (write + 2 ^ 64 - read) % 2 ^ 64 ≥ cap then
      .dropped (s.grainsOf r.asid (q + 24) 1 Attr.device (toBytes 8 (s.numberAt r.asid (q + 24) 8 + 1)))
    else
      .filed (s.grainsOf r.asid slot 1 Attr.device (r.bytes write) ++ s.grainsOf r.asid q 1 Attr.device (toBytes 8 (write + 1)))

/-- The state in which the fault unit's access to n bytes of a key waits, if it has to: for a plot-table node that cannot be read yet; for a plot with
M set; for a gated home, or one with an earlier write of the bytes unapplied; for a page operation (R161, R252, R306, R313, R317, R379). A node without
a valid backing is waited for until its loss has killed the context; then the record is lost (R356, R361). -/
def State.queueWait (s : State) (asid va n : Nat) : Option State :=
  (upto (n / 32)).findSome? (fun k => match s.plotOf asid (va + 32 * k) with
    | .page a =>
      if s.pendingAt a 8 || s.homeBusy (a / 32 * 32) 32 then some s
      else if s.isDead asid && s.noBacking a then none
      else
        let r := s.demandFor a
        some (r.1.asked (some r.2) (.context asid))
    | .desc d =>
      let a := locate d (keyOf asid (va + 32 * k)) (va + 32 * k)
      if descValid d && (descM d || (s.home (codeHome a)).gated || s.pendingAt a 32 || (s.fillWalk a 32 matches .migrating)) then some s else none
    | _ => none)

/-- The state in which the engine chunk of a record waits, if it has to: for the queue's header, for the record's slot, or for a reservation that
holds it back (R247, R356). -/
def State.filingWait (s : State) (r : FaultRec) : Option State :=
  match Map.find s.ctxs r.asid with
  | none => none
  | some c =>
    let q := c.faultq.toNat
    match s.queueWait r.asid q 64, (if s.queueLegal r.asid q then s.queueWait r.asid (s.recordSlot r.asid q) 64 else none), s.filing r with
    | some t, _, _ => some t
    | none, some t, _ => some t
    | none, none, .lost => none
    | none, none, .dropped gs | none, none, .filed gs =>
      if gs.any (fun g => s.pendingAt g.addr g.size) || s.soloHolds (fun _ => true) r.asid (engineSig gs) then some s else none

/-- The fault unit with one record (R356). A check code that its write of a record of kind 7 finds wrong is journaled and gives rise to no further
record, since each of those would find it again: DESIGN CHOICE (log 101). -/
def State.putRecord (s : State) (r : FaultRec) : State :=
  match s.filing r with
  | .lost => s.event 0x89 r.asid r.asid r.kind
  | .dropped gs => s.engineWrite r.asid gs (r.kind != 7)
  | .filed gs =>
    let s := s.engineWrite r.asid gs (r.kind != 7)
    { s with ctxs := Map.update s.ctxs r.asid (fun c => { c with faultCount := c.faultCount + 1 }) }

/-- Every home with nothing left to apply, and the records that gives rise to. -/
def State.drainAll (s : State) : Applied :=
  (upto 8).foldl (fun x h => State.drainHome (x.s.commits.length + 1) h x) ⟨s, [], []⟩

/-- The fault unit appends records in the order in which they reach it (R356). What the homes have still to apply is applied
before the queue is read; the records that gives rise to come after. A record whose engine chunk has to wait waits, and those behind it with it
(R247, R252). -/
def appendRecords : Nat → State → List Death → Applied
  | 0, s, fatal => ⟨s, [], fatal⟩
  | n + 1, s, fatal =>
    let x := s.drainAll
    let s := { x.s with records := x.s.records ++ x.recs }
    match s.records with
    | [] => ⟨s, [], fatal ++ x.fatal⟩
    | r :: rs =>
      match s.filingWait r with
      | some s => ⟨s, [], fatal ++ x.fatal⟩
      | none => appendRecords n ({ s with records := rs }.putRecord r) (fatal ++ x.fatal)

/-- A bound on the records that can arise: those given, one per sector of what is pending, and those of the sectors that their own writing finds
wrong. -/
def State.recordBound (s : State) : Nat :=
  (s.records.length + 1 + (s.commits.foldl (fun n c => n + c.grains.foldl (fun n g => n + g.size / 32 + 1) 0) 0) * 2) * 64

/-- Records brought to the fault unit. -/
def State.report (s : State) (rs : List FaultRec) : Applied :=
  if s.records.isEmpty && rs.isEmpty then ⟨s, [], []⟩
  else
    let s := { s with records := s.records ++ rs }
    appendRecords s.recordBound s []

end Sys2Proof.Machine
end

