-- ==== Sys2Proof/Machine/Faults.lean ====
section
/-!
DEFINITION. Context death (R304, R361) and the settling of what a commit at the homes gives rise to: records, then deaths.
-/

namespace Sys2Proof.Machine

open Sys2Proof

/-- The deferred entries of a context, with their homes. -/
def entriesOf (s : State) (asid : Nat) : List Deferred :=
  (s.homes.flatMap (fun c => c.2.dsb)).filter (fun e => e.write.asid == asid)

/-- A record of a page or a walk, with no bytes written, attributed to the unit, command or write whose walk it was (R357, R358). -/
def pageRec (s : State) (asid kind detail a : Nat) (w : Attr) (csn : Nat) : FaultRec :=
  { asid := asid, key := codeKey a, kind := kind, detail := detail, mask := 0, va := codeVa a / 32 * 32, who := w.who, pc := w.pc.toNat,
    token := w.token, csn := csn, launch := w.launch, plot := (match s.plotOf asid (codeVa a) with | .desc d => d.toNat | _ => 0), loc := if kind = 3 then s.locOf a else 0 }

/-- The records of a death: the walk's (kind 4), or none; one per sector of each entry discarded (kind 3); one for the page where
a backing kills with no entry to discard (R358). -/
def deathRecords (s : State) (x : Death) : List FaultRec :=
  let discarded := (entriesOf s x.asid).flatMap (fun e =>
    (s.sectorRecs 3 e.csn (s.locOf e.write.addr) e.write).map (fun r => { r with detail := if x.kind = 4 then 4 else x.detail }))
  let own := if x.kind = 4 then [pageRec s x.asid 4 x.detail x.page x.attr x.csn] else []
  own ++ (if discarded.isEmpty && x.kind != 4 then [pageRec s x.asid 3 x.detail (x.page / 65536 * 65536) Attr.device 0] else discarded)

/-- Every unstamped chunk of a context's drills squashed, its requests and prepares withdrawn (R361). -/
def State.squashContext (s : State) (asid : Nat) : State :=
  (s.drills.filter (fun c => c.2.asid == asid)).foldl (fun s c => (s.squash c.1 false).dropOp c.1) s

/-- What death does to the context itself (R304): its entries discarded, its queues and tape emptied, its launches failed. -/
def State.markDead (s : State) (asid code cause : Nat) : State :=
  let s := s.squashContext asid
  { s with
    homes := s.homes.map (fun c => (c.1, { c.2 with dsb := c.2.dsb.filter (fun e => e.write.asid != asid) }))
    ctxs := Map.update s.ctxs asid (fun c =>
      { c with dead := true, cause := cause, queues := [], tape := [], replay := none, replayWait := none })
    launches := s.launches.map (fun l =>
      if l.2.asid = asid ∧ l.2.failed.isNone then (l.1, { l.2 with failed := some code }) else l) }

/-- The kills and ends that follow a context's death or a launch's failure: its workgroups killed, and the launches with none
left completed. -/
def endsOf (s : State) (p : Launch → Bool) : List Instr :=
  (s.wgs.filter (fun w => (match Map.find s.launches w.2.launch with | some l => p l | none => false))).map
      (fun w => Instr.workgroupKill w.1)
    ++ (s.launches.filter (fun l => p l.2 && l.2.next == l.2.ended)).map (fun l => Instr.launchComplete l.1)

/-- The launch a turn's replay has come to: the one it waits for, else the last it popped. -/
def State.replayLaunch (s : State) (c : Context) (turn : Nat) : Nat :=
  match c.replayWait with
  | some l => l
  | none => ((s.launches.filter (fun l => l.2.turnOf == some turn)).map (fun l => l.1)).foldl max 0

/-- The turn's record of a replay that stops as its context dies: its launch fails with the code given (R304, R369). -/
def State.stopReplay (s : State) (asid code : Nat) : State :=
  match Map.find s.ctxs asid with
  | some c => match c.replay with
    | some (jsn, _) => s.setRecord jsn (fun r => { r with state := .failed, status := code, ref := s.replayLaunch c jsn })
    | none => s
  | none => s

/-- Deaths carried out one after another, with those that writing the records brings about. What the homes have still to apply is applied
first, so that every entry of the context is among those discarded. -/
def deaths : Nat → State → List Death → State
  | _, s, [] => s
  | 0, s, _ => s
  | n + 1, s, x :: xs =>
    match Map.find s.ctxs x.asid with
    | none => deaths n s xs
    | some c =>
      if c.dead then deaths n s xs
      else
        let z := s.drainAll
        let y := z.s.report (z.recs ++ deathRecords z.s x)
        let s := ((y.s.stopReplay x.asid 9).markDead x.asid 9 (if x.kind = 4 then 4 else x.detail)).event 0x86 x.asid x.asid (x.kind * 256 + x.detail)
        let s := (s.later (endsOf s (fun l => l.asid == x.asid))).stir (fun w => w == .lnch || w == .room)
        deaths n s (xs ++ z.fatal ++ y.fatal)

/-- A bound on the deaths that can follow: each ends one context. -/
def deathBound (s : State) (xs : List Death) : Nat := s.ctxs.length * 2 + xs.length + 2

/-- A context dies (R361). -/
def State.die (s : State) (x : Death) : State := deaths (deathBound s [x] + 64) s [x]

/-- What applying commits gave rise to, carried out: records first, then the deaths of fatal walks (R313, R358). -/
def Applied.settle (x : Applied) : State :=
  let y := x.s.report x.recs
  let ds := x.fatal ++ y.fatal
  deaths (deathBound y.s ds + 64) y.s ds

/-- One record appended. -/
def State.record (s : State) (r : FaultRec) : State := Applied.settle ⟨s, [r], []⟩

/-- The turn that replays a context's tape stopped by a launch that failed (R235, R369). -/
def State.replayFailed (s : State) (asid jsn code : Nat) : State :=
  match Map.find s.ctxs asid with
  | some c => match c.replay with
    | some (turn, _) =>
      { s.setRecord turn (fun r => { r with state := .failed, status := code, ref := jsn }) with
        ctxs := Map.set s.ctxs asid { c with replay := none, replayWait := none } }
    | none => s
  | none => s

/-- Whether a launch was popped by the turn whose replay is active. -/
def State.inReplay (s : State) (l : Launch) : Bool :=
  match Map.find s.ctxs l.asid, l.turnOf with
  | some c, some t => (match c.replay with | some (turn, _) => turn == t | none => false)
  | _, _ => false

/-- A launch fails: no further workgroup, those placed are killed, the replay that popped it stops (R235, R289, R299), and
the next launch of its queue becomes the head (R290). -/
def State.failLaunch (s : State) (jsn code : Nat) : State :=
  match Map.find s.launches jsn with
  | none => s
  | some l =>
    if l.failed.isSome then s
    else
      let s := if s.inReplay l then s.replayFailed l.asid jsn code else s
      let s := { s with launches := Map.set s.launches jsn { l with failed := some code } }
      s.later ((s.wgs.filter (fun w => w.2.launch == jsn)).map (fun w => Instr.workgroupKill w.1)
        ++ (if l.next = l.ended then [.launchComplete jsn] else []) ++ [.placeWorkgroup])

end Sys2Proof.Machine
end

