-- ==== Sys2Proof/Machine/Ops.lean ====
section
/-!
DEFINITION. The shared operations of a unit: its checks (R109), where chunks begin and end (R239, R245), the abort of an explicit
chunk (R169), taking a trap and returning from one (R189 to R192), and the frame every instruction word executes in.
-/

namespace Sys2Proof.Machine

open Sys2Proof

/-! ### Chunks begin and end (R239, R245) -/

/-- The running chunk ended with its last unit; the next one begins. `c` is the chunk as it ends. Its commit is under way from
here (R242). -/
def State.endChunk (s : State) (k : Nat) (d : Drill) (c : Chunk) : State :=
  (s.setDrill k { d with older := some { chunk := c, phase := .ended }, chunk := Chunk.fresh d.regs 0 limitMax none
                         wait := .none }).later [.commitPrepare k]

/-- The abort of an explicit chunk: its state restored, the cause in s63, on at the fallback address (R169). The chunk at the
fallback is a fresh one. DEDUCED (log 8): its start holds s63, so that a squash of it keeps the cause. That write needs no log room (DESIGN CHOICE, log 83); a chunk
that ran again for a residue mismatch leaves no journal entry as it aborts (DESIGN CHOICE, log 86). -/
def State.abort (s : State) (k : Nat) (d : Drill) (e : Expl) (cause code : Nat) : State :=
  let d0 : Drill := { d with regs := { d.chunk.start with pc := e.fallback }, chunk := Chunk.fresh d.chunk.start 0 limitMax none }
  let d1 := d0.setUni 63 (cause + 256 * code)
  let d2 := { d1 with chunk := { d1.chunk with start := d1.regs }, wait := .none, inflight := 0 }
  (if d.chunk.solo then (s.setDrill k d2).endSolo k else s.setDrill k d2).wakeLog k

/-- The drill waits for its older chunk's stamp before its running chunk can end (R245). -/
def State.awaitStamp (s : State) (k : Nat) (d : Drill) : State := s.setDrill k { d with wait := .stamp }

/-- The running chunk ends before the unit, or aborts with the cause where it is explicit (R239, R169). With no unit in it and
none before it, there is nothing to end. -/
def State.endBefore (s : State) (k : Nat) (d : Drill) (cause : Nat) : State :=
  match d.chunk.expl with
  | some e => s.abort k d e cause 0
  | none =>
    if d.older.isSome then s.awaitStamp k d
    else if d.chunk.units = 0 then s
    else s.endChunk k d d.chunk

/-! ### Taking a trap, and returning from one (R189 to R192) -/

/-- A trap: its kind and detail (R190), the code of `trap`, the address, the lane where one is reported, and whether the frame's
ResumePC lies after the unit. -/
structure Trap where
  kind : Nat
  detail : Nat
  code : Nat
  addr : Nat
  lane : Option Nat
  past : Bool
  deriving DecidableEq, Repr

/-- A trap without an address, a lane or a code. -/
def Trap.plain (kind detail : Nat) : Trap := { kind := kind, detail := detail, code := 0, addr := 0, lane := none, past := false }

/-- s61 (R190). -/
def Trap.info (t : Trap) : Nat :=
  t.kind + t.detail * 2 ^ 8 + (match t.lane with | some l => l * 2 ^ 18 + 2 ^ 24 | none => 0) + t.code * 2 ^ 32

/-- The drill with the trap taken: s60 to s63, H, and the PC at the handler; `em`, the stack and all else unchanged (R189). The write of H takes no
bytes of the checkpoint log: DESIGN CHOICE (log 88). -/
def Drill.enterHandler (d : Drill) (first : DWord) (t : Trap) : Drill :=
  let d := (((d.setUni 60 (first.toNat + if t.past then 4 else 0)).setUni 61 t.info).setUni 62 t.addr).setUni 63 d.regs.em.toNat
  { d with regs := { d.regs with h := true, pc := d.regs.trapvec } }

/-- The WHO field of a drill: die, core, slot (R357). -/
def whoOf (k : Nat) : Nat := coreOf k / 64 * 16384 + coreOf k * 64 + k % 64

/-- An unhandled trap: the drill stops at its unit, the fault unit records it, the launch fails with code 8 and its workgroups
are killed (R191, R289). -/
def State.unhandled (s : State) (k : Nat) (d : Drill) (first : DWord) (t : Trap) : State :=
  let s := s.setDrill k { d with wait := .stopped }
  let s := s.record { asid := d.asid, key := d.asid, kind := 6, detail := t.detail, mask := t.kind, va := 0, who := whoOf k,
                      pc := first.toNat, token := 0, csn := 0, launch := d.launch, plot := t.addr, loc := 0 }
  s.failLaunch d.launch 8

/-- A trap at the unit whose first word is at `first` (R189): in an explicit chunk it aborts the chunk; the prefix before the
unit is committed first; then it is delivered, or found unhandled. The frame is logged without a check of the log's room: DESIGN CHOICE (log 83). -/
def State.takeTrap (s : State) (k : Nat) (d : Drill) (first : DWord) (t : Trap) : State :=
  match d.chunk.expl with
  | some e => s.abort k d e 5 0
  | none =>
    if d.older.isSome then s.awaitStamp k d
    else if d.chunk.units > 0 then s.endChunk k d d.chunk
    else if d.regs.h || d.regs.trapvec == 0 then s.unhandled k d first t
    else s.setDrill k { d.enterHandler first t with wait := .none }

/-- The return from a trap: PC from s60, `em` from s63, H cleared (R192). -/
def Drill.trapReturn (d : Drill) : Drill :=
  let d' := d.setEm (d.regs.uni 63)
  { d' with regs := { d'.regs with pc := pcBits (d.regs.uni 60), h := false } }

/-! ### The frame of a unit -/

/-- What executing a unit comes to. -/
inductive Res where
  /-- it executed: the state and the drill after it -/
  | done (s : State) (d : Drill)
  /-- it executed and is the last unit of its chunk; `op` says whether its operation follows the stamp (R197) -/
  | ends (s : State) (d : Drill) (op : Bool)
  /-- it executed and left the drill at its end, as if it were `exit` (R25) -/
  | exits (s : State) (d : Drill)
  /-- it traps, and changes no state (R109, R156) -/
  | trap (t : Trap)
  /-- its chunk ends before it, or aborts with the cause (R239) -/
  | before (cause : Nat)
  /-- it has not executed and the drill waits; it executes again when the wait is over -/
  | wait (s : State) (w : Wait)
  /-- a fatal walk or backing: the context dies (R313, R361) -/
  | dies (x : Death)
  /-- `chk.abt` inside an explicit chunk (R170) -/
  | abort (e : Expl) (code : Nat)
  /-- the unit is a chunk of its own with one CSN: `d` holds it, executed, ready to be stamped and applied at once (R163, R251) -/
  | own (s : State) (d : Drill)

/-- The first check of R109 that a decoded unit fails, orders 3 to 6. -/
def unitTrap (i : Instr) (h : Hints) (d : Drill) (sup : Bool) : Option Trap :=
  match illegalDetail i h with
  | some n => some (Trap.plain 3 n)
  | none =>
    if !hintsFit i h then some (Trap.plain 2 6)
    else match rangeDetail i h d.nv d.nt d.na with
      | some (c, r) => some { Trap.plain 4 c with addr := r }
      | none => if needsSupervisor i && !sup then some (Trap.plain 5 1) else none

/-- Whether a drill's context is a supervisor context. -/
def State.supOf (s : State) (asid : Nat) : Bool :=
  match Map.find s.ctxs asid with
  | some c => c.sup
  | none => false

/-- The instructions that end their chunk by their nature (R197), `chk.abt` apart. -/
def endsByNature : Instr → Bool
  | .exit | .chkBeg .. | .chkEnd | .fenceS | .fenceX | .flr .. | .drop .. | .scrGrow .. | .scrShrk .. => true
  | .barReg .. | .barArv .. | .barWt .. | .barDrp .. | .lnch .. => true
  | .glzScl .. | .glzOff .. | .glzClp .. | .glzFil .. | .glzPrm .. | .glzMap .. | .glzFire .. | .glzRdh .. => true
  | .engCpy .. | .engGth .. | .engGrd .. | .engSct .. | .engCol .. | .engWt .. | .engTst .. => true
  | .tapePush .. | .tapeTurn .. => true
  | _ => false

/-- The address after the unit (R99). -/
def UnitCtx.after (u : UnitCtx) : DWord := pcBits (u.first + BitVec.ofNat 64 (4 * u.words))

/-- The chunk with the unit counted (R99). -/
def Drill.counted (d : Drill) : Drill := { d with chunk := { d.chunk with units := d.chunk.units + 1 } }

/-- The set base of a workgroup (R270). -/
def State.baseOf (s : State) (wg : Nat) : Nat :=
  match Map.find s.wgs wg with
  | some w => w.base
  | none => 0

/-- The set of a speculative line in L1, for a workgroup's set base: a scratchpad line takes a way of the set its line number maps to (R265,
R270). -/
def SpecLine.set (l : SpecLine) (base : Nat) : Nat := if l.kind = .scratch then (base + l.line) % Config.l1Sets else l.line % Config.l1Sets

/-- Speculative lines of a chunk in an L1 set. -/
def Chunk.linesIn (c : Chunk) (base set : Nat) : Nat := (c.lines.filter (fun l => l.set base == set)).length

/-- Speculative lines a drill holds in an L1 set, in both its chunks. -/
def Drill.linesIn (d : Drill) (base set : Nat) : Nat :=
  d.chunk.linesIn base set + (match d.older with | some o => o.chunk.linesIn base set | none => 0)

/-- Speculative lines the other drills of the core hold in a set. -/
def State.linesOthers (s : State) (k set : Nat) : Nat :=
  s.drills.foldl (fun n c => if c.1 ≠ k ∧ coreOf c.1 = coreOf k then n + c.2.linesIn (s.baseOf c.2.wg) set else n) 0

/-- Speculative lines that the drills of a core hold in a set. -/
def State.specIn (s : State) (core set : Nat) : Nat :=
  s.drills.foldl (fun n c => if coreOf c.1 = core then n + c.2.linesIn (s.baseOf c.2.wg) set else n) 0

/-- Pinned lines of a workgroup in a set: line o lies in set (base + o) mod 256 (R270). -/
def pinnedIn (w : Workgroup) (set : Nat) : Nat :=
  if w.state = .saved then 0
  else ((upto w.size).filter (fun o => (w.base + o) % Config.l1Sets == set)).length

/-- Pinned lines of a core in a set. -/
def State.pinned (s : State) (core set : Nat) : Nat :=
  s.wgs.foldl (fun n w => if w.2.core = core ∧ w.2.state ≠ .saved then n + pinnedIn w.2 set else n) 0

/-- Whether some set of the drill's speculative lines has no way for them beside pinned lines and other drills' (R268). -/
def State.noVictim (s : State) (k : Nat) (d : Drill) : Bool :=
  ((d.chunk.lines.map (fun l => l.set (s.baseOf d.wg))).dedup).any (fun set =>
    decide (s.pinned (coreOf k) set + s.linesOthers k set + d.linesIn (s.baseOf d.wg) set > Config.l1Ways))

/-- The entries that a drill's speculative lines refer to, in both its chunks (R325). -/
def Drill.glazeRefs (d : Drill) : List Nat := d.chunk.refs ++ (match d.older with | some o => o.chunk.refs | none => [])

/-- The entries that speculative lines of a core's drills in the slots that meet p refer to (R325). -/
def State.specRefs (s : State) (core : Nat) (p : Nat → Bool) : List Nat :=
  (s.drills.filter (fun d => coreOf d.1 == core && p d.1)).flatMap (fun d => d.2.glazeRefs)

/-- The entries of a core's glaze header table that its clean lines, or speculative lines of the drills in the slots that meet p, refer to (R325). -/
def State.glazeTags (s : State) (core : Nat) (p : Nat → Bool) : List Nat := (s.core core).glaze.map (fun e => e.1) ++ s.specRefs core p

/-- Whether a chunk of a core's lines of tiles that refer to a header other than identity finds no entry free in the core's glaze header table, whose
512 entries the clean lines and the drills' speculative lines share (R325). -/
def State.glazeFull (s : State) (k : Nat) (d : Drill) : Bool :=
  !d.chunk.refs.isEmpty && decide ((s.glazeTags (coreOf k) (fun j => j != k) ++ d.glazeRefs).dedup.length > Config.glazeHeaderEntries)

/-- Why the unit just executed cannot stand in its chunk, if it cannot: the log has no room for its first writes (cause 3), or it
takes a 65th speculative line or a line without a way or without a header entry (cause 2), or it sets a 257th bit in a bank, which only ends an
implicit chunk (R239, R268, R325). Of several events that one unit meets, a trap (cause 5) comes first, then cause 3, then cause 2: DESIGN CHOICE
(log 92). -/
def overLimit (s : State) (k : Nat) (d : Drill) : Option Nat :=
  if d.logHeld + s.logOthers k > Config.logBytes then some 3
  else if d.chunk.lines.length > Config.specLines || s.noVictim k d || s.glazeFull k d then some 2
  else if d.chunk.expl.isNone && (d.chunk.rsig.full || d.chunk.wsig.full) then some 0
  else none

/-- The header-table entries of a core in use (R325). -/
def State.glazeUsed (s : State) (core : Nat) : Nat := (s.glazeTags core (fun _ => true)).dedup.length

/-- Clean lines that refer to entries given up, the least recently used first, until the core's table holds what its lines refer to (R325). -/
def State.freeGlaze : Nat → State → Nat → State
  | 0, s, _ => s
  | n + 1, s, core =>
    let c := s.core core
    if s.glazeUsed core ≤ Config.glazeHeaderEntries then s
    else match lastWith (fun x => c.glaze.any (fun e => x.refersTo e.1)) c.l1 with
      | some x => State.freeGlaze n (s.setCore core (c.dropClean (fun y => y == x))) core
      | none => s

/-- Whether a unit alone in its chunk could not stand there whatever other chunks give back: it takes more than 64 lines, or more ways of a set than
pinned lines leave, or only clean lines hold the header-table entries it needs. Then it executes, and its lines stand beyond the limit until its
stamp, or the clean lines give up their entries: DESIGN CHOICE (log 91). -/
def State.standsAlone (s : State) (k : Nat) (d : Drill) : Bool :=
  decide (d.chunk.lines.length > Config.specLines)
    || ((d.chunk.lines.map (fun l => l.set (s.baseOf d.wg))).dedup).any (fun set =>
        decide (s.pinned (coreOf k) set + d.linesIn (s.baseOf d.wg) set > Config.l1Ways))
    || (!s.noVictim k d && decide ((s.specRefs (coreOf k) (fun j => j != k) ++ d.glazeRefs).dedup.length ≤ Config.glazeHeaderEntries))

/-- A unit that cannot stand in its chunk has not executed: the chunk ends before it. The first unit of a chunk waits for the log
room, the ways or the header-table entries that other chunks hold (R34, R268, R325), and gives up meanwhile what its reservation holds back, which
would wait for it (R250; DEDUCED, log 80); one for which none of them could make room stands alone. `d'` is the drill after the unit. -/
def State.tooBig (s : State) (k : Nat) (d d' : Drill) (cause : Nat) (stands : State) : State :=
  if d.chunk.expl.isSome then s.endBefore k d cause
  else if d.older.isSome || d.chunk.units > 0 then s.endBefore k d cause
  else if cause = 0 then stands
  else if cause = 2 ∧ s.standsAlone k d' then stands.freeGlaze Config.glazeHeaderEntries (coreOf k)
  else (s.setDrill k { d with wait := .log }).unregister k

/-- The drill issued last in its partition; the others' `yield` is over (R131, R237). -/
def State.issued (s : State) (k : Nat) : State :=
  let c := s.core (coreOf k)
  let s := s.setCore (coreOf k) { c with last := Map.set c.last (partOf k) k }
  { s with drills := s.drills.map (fun x =>
      if x.2.yielded ∧ x.1 ≠ k ∧ coreOf x.1 = coreOf k ∧ partOf x.1 = partOf k then (x.1, { x.2 with yielded := false }) else x) }

/-- After a unit that does not end its chunk: it is counted, and the limit looked at. An implicit chunk ends after its LIMIT-th unit; an explicit one
aborts at the next (R239). -/
def State.finish (s : State) (k : Nat) (d : Drill) : State :=
  let d := d.counted
  let s := (s.issued k).setDrill k { d with waited := 0 }
  if d.chunk.units ≥ d.chunk.limit ∧ d.chunk.expl.isNone then s.later [.chunkLimitReached k] else s

/-- The chunk that `chk.beg` opens: its fallback lies at the unit's address plus 4 · off18 (R126, R168). -/
def explOf (u : UnitCtx) : Instr → Option Expl
  | .chkBeg o => some { beg := u.first, fallback := pcBits (u.first + BitVec.ofInt 64 (4 * signed 18 o)) }
  | _ => none

/-- After a unit that ends its chunk: it is the chunk's last (R197). -/
def State.finishEnd (s : State) (k : Nat) (u : UnitCtx) (i : Instr) (d : Drill) (op : Bool) : State :=
  let d := d.counted
  let s := (s.issued k).endChunk k { d with waited := 0 } { d.chunk with after := if op then some i else none, afterUnit := u }
  match explOf u i with
  | some e => s.updDrill k (fun d => { d with chunk := { d.chunk with expl := some e } })
  | none => s

/-- What a unit came to, carried out. `d` is the drill before the unit. `commit` stamps and applies a chunk of one instruction. -/
def State.carry (s : State) (k : Nat) (d : Drill) (i : Instr) (commit : State → Nat → Drill → State) : Res → State
  | .done s' d' =>
    match overLimit s k d' with
    | some c => s.tooBig k d d' c (s'.finish k d')
    | none => s'.finish k d'
  | .ends s' d' op =>
    match overLimit s k d' with
    | some c => s.tooBig k d d' c (s'.finishEnd k s.unit i d' op)
    | none => s'.finishEnd k s.unit i d' op
  | .exits s' d' =>
    if d.chunk.expl.isSome then s.endBefore k d 4
    else if d.older.isSome then s.awaitStamp k d
    else s'.finishEnd k s.unit .exit d' true
  | .trap t => s.takeTrap k d s.unit.first t
  | .before c => s.endBefore k d c
  | .wait s' w => s'.setDrill k { d with wait := w }
  | .dies x => s.die x
  | .abort e code => (s.issued k).abort k { d with waited := 0 } e 6 code
  | .own s' d' =>
    match overLimit s k d' with
    | some c => s.tooBig k d d' c (commit (s'.issued k) k d')
    | none => commit (s'.issued k) k d'

/-- The unit as a drill executes it, past the checks of R109. An instruction that ends its chunk by its nature aborts an explicit
chunk (cause 4) and waits until the older chunk is stamped (R169, R245). -/
def State.runUnit (s : State) (k : Nat) (d : Drill) (i : Instr) (commit : State → Nat → Drill → State)
    (body : State → Drill → Res) : State :=
  if endsByNature i && d.chunk.expl.isSome && i != .chkEnd then s.endBefore k d 4
  else if endsByNature i && d.older.isSome then s.awaitStamp k d
  else s.carry k d i commit (body s ({ d with wait := .none }.setPc s.unit.after))

/-- An instruction word as the drill of the current slot executes it: the checks of R109, then its body, given the drill with
its PC past the unit. -/
def asUnitWith (commit : State → Nat → Drill → State) (i : Instr) (s : State) (body : State → Drill → Res) :
    Host.Outcome State Fault Refusal :=
  match Map.find s.drills s.cur with
  | none => .fault .noDrill
  | some d =>
    match unitTrap i s.unit.hints d (s.supOf d.asid) with
    | some t => .next (s.takeTrap s.cur d s.unit.first t)
    | none => .next (s.runUnit s.cur d i commit body)

/-- As `asUnitWith`, for instructions that never form a chunk of their own. -/
def asUnit (i : Instr) (s : State) (body : State → Drill → Res) : Host.Outcome State Fault Refusal :=
  asUnitWith (fun s k d => s.setDrill k d) i s body

/-- An instruction that only changes its drill. -/
def regUnit (i : Instr) (s : State) (f : Hints → Drill → Drill) : Host.Outcome State Fault Refusal :=
  asUnit i s (fun s d => .done s (f s.unit.hints d))

end Sys2Proof.Machine
end

