-- ==== Sys2Proof/Machine/Access.lean ====
section
/-!
DEFINITION. How an instruction reaches memory (09_memory_instructions.md R152 to R166, 15_core_memory.md R265 to R268): windows
and checks, what each kind of access does to its chunk, the drill's view of a byte, the clean lines of L1.
-/

namespace Sys2Proof.Machine

open Sys2Proof

/-! ### Accesses and their checks (R153 to R156) -/

/-- The kinds of access of R155 and R163: loads (rows of `tld`, `acld` among them), stores, `atom`, `red`. -/
inductive Access where
  | read
  | store
  | atom
  | red
  deriving DecidableEq, Repr

def Access.reads : Access → Bool
  | .read | .atom => true
  | _ => false

def Access.writes : Access → Bool
  | .read => false
  | _ => true

/-- One lane's (or row's) access: generic address and bytes. -/
structure Acc where
  lane : Nat
  ea : Nat
  n : Nat
  deriving DecidableEq, Repr

/-- Bits [63:48]: 0 the global window, 0xFFFE the scratchpad, 0xFFFD the private stack (R153). -/
def winOf (ea : Nat) : Nat := ea / 2 ^ 48
def isGlobal (ea : Nat) : Bool := winOf ea == 0
def isScratch (ea : Nat) : Bool := winOf ea == 0xFFFE
def isPriv (ea : Nat) : Bool := winOf ea == 0xFFFD

/-- The offset of a scratchpad address. -/
def scrOff (ea : Nat) : Nat := ea % 2 ^ 19

/-- Whether a bit is set where R153 requires zero. -/
def strayBits (ea : Nat) : Bool :=
  (isScratch ea && ea % 2 ^ 48 ≥ 2 ^ 19) || (isPriv ea && ea % 2 ^ 48 ≥ 2 ^ 24)

/-- A memory trap of a lane (R156, R190). -/
def laneTrap (kind detail : Nat) (a : Acc) : Trap :=
  { kind := kind, detail := detail, code := 0, addr := a.ea, lane := some a.lane, past := false }

/-- The first row of a table of conditions that some access meets, with its lowest lane (R156). -/
def firstRow (kind : Nat) (l : List Acc) (rows : List (Nat × (Acc → Bool))) : Option Trap :=
  rows.findSome? (fun r => (l.find? r.2).map (laneTrap kind r.1))

/-- The sectors of a scratchpad range. -/
def sectorsOf (off n : Nat) : List Nat := if n = 0 then [] else (upto ((off + n - 1) / 32 + 1 - off / 32)).map (fun k => off / 32 + k)

/-- A drill's workgroup. -/
def State.wgOf (s : State) (d : Drill) : Option Workgroup := Map.find s.wgs d.wg

/-- Bytes of a drill's scratchpad. -/
def State.scratchSize (s : State) (d : Drill) : Nat :=
  match s.wgOf d with
  | some w => 128 * w.size
  | none => 0

/-- Whether a chunk stores into or reduces into a sector. -/
def Chunk.fillsSector (c : Chunk) (q : Nat) : Bool :=
  c.scratch.any (fun b => b.1 / 32 == q) || c.reds.any (fun r => r.scratch && r.addr / 32 == q)

/-- Whether a sector is present for a drill: in its workgroup, or by a store of its own chunks (R160). -/
def State.present (s : State) (d : Drill) (q : Nat) : Bool :=
  (match s.wgOf d with | some w => w.sectors.any (fun x => x == q) | none => false)
    || d.chunk.fillsSector q || (match d.older with | some o => o.chunk.fillsSector q | none => false)

/-- Whether an engine copy in flight targets a sector of a workgroup (R160). -/
def State.targeted (s : State) (wg q : Nat) : Bool := s.cmds.any (fun c => c.2.wg == wg && c.2.targets.any (fun x => x == q))

/-- Rows 1 to 6 of order 1 (R156). -/
def State.addrTrap (s : State) (d : Drill) (kind : Access) (priv : Bool) (l : List Acc) : Option Trap :=
  firstRow 6 l
    [ (1, fun a => !(isGlobal a.ea || isScratch a.ea || isPriv a.ea)),
      (2, fun a => strayBits a.ea),
      (4, fun a => a.ea % a.n != 0),
      (5, fun a => isPriv a.ea && !priv),
      (3, fun a => isScratch a.ea && scrOff a.ea + a.n > s.scratchSize d),
      (6, fun a => isScratch a.ea && kind.reads
            && (sectorsOf (scrOff a.ea) a.n).any (fun q => !s.present d q && !s.targeted d.wg q)) ]

/-- The VA of a byte of a lane's private stack (R310). -/
def privVa (d : Drill) (lane o : Nat) : Nat := d.priv + 64 * (o / 4 * 4) + 4 * lane + o % 4

/-- The VAs (offsets, in the scratchpad) of an access's bytes. -/
def accVas (d : Drill) (a : Acc) : List Nat :=
  (upto a.n).map (fun k =>
    if isScratch a.ea then scrOff a.ea + k
    else if isPriv a.ea then privVa d a.lane (a.ea % 2 ^ 24 + k)
    else a.ea + k)

/-- The plots of the accesses outside the scratchpad, or why they cannot be had. -/
inductive Looked where
  | all (s : State) (ds : List (Acc × DWord)) (bad : List Acc)
  | stop (r : Res)

/-- The attribution of a drill's unit (R357). -/
def State.unitAttr (s : State) (k : Nat) (d : Drill) : Attr :=
  { off := 0, pc := s.unit.first, who := whoOf k, kind := 1, token := 0, launch := d.launch }

/-- The plots looked up, lowest lane first (R155, R306), and the accesses whose plot-table node fails its check code. A node whose page is
not resident makes the drill wait. -/
def lookPlots (k : Nat) (d : Drill) : List Acc → State → List (Acc × DWord) → List Acc → Looked
  | [], s, out, bad => .all s out.reverse bad.reverse
  | a :: rest, s, out, bad =>
    if isScratch a.ea then lookPlots k d rest s out bad
    else
      let va := (accVas d a).headD 0
      match s.plotFor (coreOf k) d.asid va with
      | .desc x => lookPlots k d rest (s.cachePlot (coreOf k) d.asid va x) ((a, x) :: out) bad
      | .page p =>
        let r := s.nodeWait p
        .stop (.wait r.1 r.2)
      | .fatal p level => .stop (.dies { asid := d.asid, kind := 4, detail := level, page := p, attr := s.unitAttr k d, csn := 0 })
      | .bad => lookPlots k d rest s out (a :: bad)

/-- Order 2 (R155, R156). P is not among its checks: a global access to a plot of private data passes by the other bits alone. DESIGN CHOICE (log 84). -/
def plotTrap (kind : Access) (sup : Bool) (ds : List (Acc × DWord)) : Option Trap :=
  let gs := ds.filter (fun x => isGlobal x.1.ea)
  let row := fun (n : Nat) (p : DWord → Bool) => (gs.find? (fun x => p x.2)).map (fun x => laneTrap 7 n x.1)
  [ row 1 (fun x => !descValid x),
    row 2 (fun x => kind.reads && !descR x),
    row 3 (fun x => kind.writes && !descW x),
    row 4 (fun x => descS x && !sup) ].findSome? id

/-- Whether a range of a key meets an entry of a core's range-lock table (R219, R276). Keys are compared: an entry under the global key
meets every context's accesses to the shared window. DEDUCED (log 65). -/
def State.locked (s : State) (core key va n : Nat) (writes : Bool) : Bool :=
  (s.core core).locks.any (fun l => l.key == key && overlap l.base l.len va n && (l.dest || writes))

/-- Order 3. -/
def State.lockTrap (s : State) (core asid : Nat) (kind : Access) (l : List Acc) : Option Trap :=
  (l.find? (fun a => isGlobal a.ea && s.locked core (keyOf asid a.ea) a.ea a.n kind.writes)).map (laneTrap 8 1)

/-! ### Sites -/

/-- Where an access lies, once checked. -/
structure Site where
  acc : Acc
  kind : LineKind
  desc : DWord
  key : Nat
  vas : List Nat
  deriving DecidableEq, Repr

/-- The place of an access under the plots looked up. -/
def siteOf (d : Drill) (ds : List (Acc × DWord)) (a : Acc) : Site :=
  let vas := accVas d a
  if isScratch a.ea then { acc := a, kind := .scratch, desc := 0, key := 0, vas := vas }
  else
    let x := match ds.find? (fun x => x.1 == a) with | some x => x.2 | none => 0
    { acc := a, desc := x, key := keyOf d.asid (vas.headD 0), vas := vas
      kind := if isPriv a.ea then .priv
              else if descTreat x = 0 then .tracked else if descTreat x = 1 then .streaming else .uncached }

/-- The address code of a byte of a site outside the scratchpad. -/
def Site.code (x : Site) (va : Nat) : Nat := locate x.desc x.key va

/-- The first bytes of the grains a site touches. -/
def Site.bases (x : Site) : List Nat :=
  if x.kind = .scratch then (x.vas.map (fun v => v / 32 * 32)).dedup
  else (x.vas.map (fun v => v / grainSize x.desc * grainSize x.desc)).dedup

/-- The key of the grain at a base (R240). -/
def Site.grainKey (x : Site) (base : Nat) : DWord :=
  if x.kind = .scratch then scratchKey base else Machine.grainKey x.key base (grainBits x.desc)

def Site.keys (x : Site) : List DWord := x.bases.map x.grainKey

/-- The site as its read sees it: an `atom` of a streaming plot takes the committed value from the home, as one of a tracked plot does; only a load may
return what an earlier fill left in the core (R158, R163, R165). -/
def Site.reader (kind : Access) (x : Site) : Site := if kind = .atom ∧ x.kind = .streaming then { x with kind := .uncached } else x

/-- Whether a site's access enters R, and W (R163). -/
def Site.entersR (kind : Access) (x : Site) : Bool :=
  match x.kind with
  | .tracked | .scratch => kind.reads
  | .streaming => kind == .atom
  | _ => false

def Site.entersW (kind : Access) (x : Site) : Bool :=
  match x.kind with
  | .tracked | .scratch => kind.writes
  | .streaming => kind == .atom || kind == .red
  | _ => false

/-- The priority of an access to a plot (R162). -/
def accPrio (h : Hints) (desc : DWord) : Nat :=
  match h.cache with
  | some (_, p) => p
  | none => descPrio desc

/-- Whether the run's CACHE hint asks for last use (R162). -/
def lastUseHint (h : Hints) : Bool :=
  match h.cache with
  | some (lu, _) => lu
  | none => false

/-! ### The clean lines of L1 (R265 to R268) -/

/-- Ways of a set that are not invalid. -/
def State.occupied (s : State) (core set : Nat) : Nat :=
  s.pinned core set + s.specIn core set
    + ((s.core core).l1.filter (fun x => l1Set x.va == set)).length

/-- The tag of a tile in a core's glaze header table (R325). -/
def tileTag (key va : Nat) : Nat := key * 2 ^ 48 + va

/-- The clean line a set gives up: the least recently used of priority 0, else of all (R268). -/
def l1Victim (l1 : List L1Line) (set : Nat) : Option L1Line :=
  let inSet := l1.filter (fun x => l1Set x.va == set)
  match lastWith (fun x => x.prio == 0) inSet with
  | some x => some x
  | none => inSet.getLast?

/-- Clean lines of a set given up until at most `room` ways are taken, or none is left. -/
def State.makeRoom : Nat → State → Nat → Nat → Nat → State
  | 0, s, _, _, _ => s
  | fuel + 1, s, core, set, room =>
    if s.occupied core set ≤ room then s
    else
      let c := s.core core
      match l1Victim c.l1 set with
      | none => s
      | some x => State.makeRoom fuel (s.setCore core (c.withL1 (c.l1.filter (fun y => !x.sameGrain y)))) core set room

/-- The line that holds a streaming byte of a core, if one does. -/
def State.streamLine (s : State) (core key va : Nat) : Option L1Line :=
  (s.core core).l1.find? (fun x => x.streaming && x.key == key && x.va == va / 128 * 128 && x.sectors.getLsbD (va / 32 % 4))

/-- Whether a core holds a clean sector. -/
def State.holdsClean (s : State) (core key va : Nat) : Bool :=
  (s.core core).l1.any (fun x => x.key == key && x.va == va / 128 * 128 && x.sectors.getLsbD (va / 32 % 4))

/-- The lines a grain fills: first bytes, and the sectors of each. -/
def fillLines (desc : DWord) (base : Nat) : List (Nat × BitVec 4) :=
  if grainSize desc = 32 then [(base / 128 * 128, (1 : BitVec 4) <<< (base / 32 % 4))]
  else (upto (grainSize desc / 128)).map (fun k => (base + 128 * k, 15))

/-- A grain's bytes installed as clean lines, most recently used, where each set has a way for it and, for a tile whose map is not
identity, the glaze header table an entry (R266, R268, R325). -/
def State.installBytes (s : State) (core : Nat) (desc : DWord) (key base prio : Nat) (map : GMap) (bytes : List Byte) : State :=
  let str := descTreat desc == 1
  let lines := fillLines desc base
  let tag := tileTag key base
  let mapped := descG desc && map != GMap.identity
  let old := fun (c : Core) (va : Nat) => c.l1.find? (fun x => x.key == key && x.streaming == str && x.va == va)
  let s := lines.foldl (fun s l =>
    if (old (s.core core) l.1).isSome then s else s.makeRoom 32 core (l1Set l.1) (Config.l1Ways - 1)) s
  if lines.any (fun l => (old (s.core core) l.1).isNone && decide (s.occupied core (l1Set l.1) ≥ Config.l1Ways)) then s
  else if mapped && !(s.core core).glaze.any (fun e => e.1 == tag) && decide (s.glazeUsed core ≥ Config.glazeHeaderEntries) then s
  else
    let s := lines.foldl (fun s l =>
      let c := s.core core
      let was : L1Line := match old c l.1 with
        | some x => x
        | none => { key := key, va := l.1, gbits := grainBits desc, streaming := str, sectors := 0, prio := prio
                    glazed := descG desc, data := [] }
      let data := if str then
          (upto 128).foldl (fun m k =>
            let va := l.1 + k
            if l.2.getLsbD (k / 32) then Map.set m k (bytes.getD (va - base) 0) else m) was.data
        else []
      let new := { was with sectors := was.sectors ||| l.2, prio := prio, data := data }
      s.setCore core { c with l1 := new :: c.l1.filter (fun x => !(x.key == key && x.streaming == str && x.va == l.1)) }) s
    let c := s.core core
    let rest := c.glaze.filter (fun e => e.1 != tag)
    s.setCore core { c with glaze := if mapped then (tag, map) :: rest else rest }

/-- A grain's committed bytes installed. -/
def State.install (s : State) (core : Nat) (desc : DWord) (key base prio : Nat) : State :=
  let a := locate desc key base
  s.installBytes core desc key base prio (s.headerAt a).map (s.view desc a)

/-! ### The drill's view (R158, R267) -/

/-- The drill's own latest speculative byte, the newer chunk's before the older's. -/
def Drill.ownByte (d : Drill) (scr : Bool) (a : Nat) : Option Byte :=
  let pick := fun (c : Chunk) => Map.find (if scr then c.scratch else c.spec) a
  match pick d.chunk with
  | some b => some b
  | none => match d.older with
    | some o => pick o.chunk
    | none => none

/-- A byte of a workgroup's scratchpad; an absent sector holds nothing, and reads as zero under a store of the drill (R160). -/
def State.scratchByte (s : State) (wg off : Nat) : Byte :=
  match Map.find s.wgs wg with
  | some w => if w.sectors.any (fun x => x == off / 32) then Memory.get w.scratch off else 0
  | none => 0

/-- Whether a core holds the whole tile of a byte of a glazed streaming site, so that no view mixes two points of the order (R330); of
another plot's bytes each stands for itself. -/
def State.tileHeld (s : State) (core : Nat) (x : Site) (va : Nat) : Bool :=
  !descG x.desc || (upto (grainSize x.desc / 32)).all (fun q =>
    (s.streamLine core x.key (va / grainSize x.desc * grainSize x.desc + 32 * q)).isSome)

/-- A byte of a site as the drill sees it. -/
def State.siteByte (s : State) (core : Nat) (d : Drill) (x : Site) (va : Nat) : Byte :=
  if x.kind = .scratch then (d.ownByte true va).getD (s.scratchByte d.wg va)
  else
    let a := x.code va
    match d.ownByte false a with
    | some b => b
    | none =>
      match (if x.kind = .streaming && s.tileHeld core x va then s.streamLine core x.key va else none) with
      | some l => Map.get 0 l.data (va % 128)
      | none => s.seen x.desc a

/-- The number a site holds. -/
def State.siteNat (s : State) (core : Nat) (d : Drill) (x : Site) : Nat := ofBytes (x.vas.map (s.siteByte core d x))

/-! ### Reads ready (R161, R244, R313, R352) -/

/-- Why a grain cannot be read now, if it cannot. -/
inductive Ready where
  | ok
  | stop (r : Res)

/-- Whether the home serves a read of a grain of n bytes at an address code: every commit applied, no deferred entry, the page resident; `w`
attributes the read. -/
def State.homeReady (s : State) (w : Attr) (asid a n : Nat) : Ready :=
  if s.pendingAt a n then .stop (.wait (s.later [.homeApplyCommit (codeHome a)]) .order)
  else if (s.home (codeHome a)).gated then .stop (.wait s .migrating)
  else match s.fillWalk a n with
    | .fatal level => .stop (.dies { asid := asid, kind := 4, detail := level, page := a, attr := w, csn := 0 })
    | .migrating => .stop (.wait s .migrating)
    | .page res _ _ =>
      if res && !s.deferredAt a n then .ok
      else
        let r := s.demandFor a
        .stop (.wait r.1 (.page r.2))

/-- Whether a read of a site needs its home at a base: not where every byte of the grain it reads is in a streaming line. -/
def State.needsHome (s : State) (core : Nat) (x : Site) (base : Nat) : Bool :=
  x.kind != .streaming
    || x.vas.any (fun v => decide (base ≤ v ∧ v < base + grainSize x.desc) && ((s.streamLine core x.key v).isNone || !s.tileHeld core x v))

/-- Whether the core holds clean what a site reads of the grain at a base: no home is asked, but where a store of the grain is still deferred, which
every read of it waits for (R261, R266, R313). -/
def State.hitsClean (s : State) (core : Nat) (x : Site) (base : Nat) : Bool :=
  (x.kind == .tracked || x.kind == .priv || x.kind == .spill) && !s.pendingAt (x.code base) (grainSize x.desc) && !s.deferredAt (x.code base) (grainSize x.desc)
    && (x.vas.filter (fun v => decide (base ≤ v) && decide (v < base + grainSize x.desc))).all (s.holdsClean core x.key)

/-- The first reason a list of sites cannot be read now. -/
def State.readsReady (s : State) (w : Attr) (core asid : Nat) (l : List Site) : Ready :=
  let one := fun (x : Site) (base : Nat) =>
    if x.kind = .scratch then Ready.ok
    else if s.needsHome core x base && !s.hitsClean core x base then s.homeReady w asid (x.code base) (grainSize x.desc) else Ready.ok
  l.foldl (fun r x => x.bases.foldl (fun r b => match r with | .ok => one x b | r => r) r) .ok

/-- Whether a check code fails on data a site reads from its home or from the scratchpad (order 4 of R156, R363, R365). -/
def State.siteBad (s : State) (core : Nat) (d : Drill) (x : Site) : Bool :=
  x.vas.any (fun va =>
    if x.kind = .scratch then (d.ownByte true va).isNone && s.badScratch.any (fun q => q == (d.wg, va / 32))
    else (d.ownByte false (x.code va)).isNone && (x.kind != .streaming || (s.streamLine core x.key va).isNone || !s.tileHeld core x va)
      && !((x.kind == .tracked || x.kind == .priv || x.kind == .spill) && s.holdsClean core x.key va)
      && s.dataError x.desc (x.code va) 1)

/-- The clean lines of a grain used: most recently used, at the access's priority (R162, R268). -/
def Core.useLines (c : Core) (key : Nat) (str : Bool) (vas : List Nat) (prio : Nat) : Core :=
  let hit := fun (x : L1Line) => x.key == key && x.streaming == str && vas.any (fun v => v == x.va)
  { c with l1 := (c.l1.filter hit).map (fun x => { x with prio := prio }) ++ c.l1.filter (fun x => !hit x) }

/-- What reads leave behind: lines used or filled, memory-side lines touched (R266, R268, R277). -/
def State.fillSites (s : State) (core : Nat) (h : Hints) (l : List Site) : State :=
  l.foldl (fun s x =>
    if x.kind = .scratch then s
    else x.bases.foldl (fun s b =>
      let hit := x.kind != .uncached
        && x.vas.all (fun v => !decide (b ≤ v ∧ v < b + grainSize x.desc) || (s.holdsClean core x.key v
              && (x.kind != .streaming || s.tileHeld core x v)))
      if hit then s.setCore core ((s.core core).useLines x.key (descTreat x.desc == 1) ((fillLines x.desc b).map (fun f => f.1)) (accPrio h x.desc))
      else
        let s := s.touch (x.code b) (grainSize x.desc) (accPrio h x.desc)
        if x.kind = .uncached then s else s.install core x.desc x.key b (accPrio h x.desc)) s) s

/-! ### What an access does to its chunk (R163, R164, R247) -/

/-- Keys added to a list. -/
def addKeys (l ks : List DWord) : List DWord := ks.foldl (fun l k => if k ∈ l then l else k :: l) l

/-- Numbers added to a list. -/
def addNats (l ks : List Nat) : List Nat := ks.foldl (fun l k => if k ∈ l then l else k :: l) l

/-- The sites' grains entered in the chunk's signatures and in its exact lists. -/
def Chunk.enter (c : Chunk) (kind : Access) (l : List Site) : Chunk :=
  let rk := (l.filter (Site.entersR kind)).flatMap Site.keys
  let wk := (l.filter (Site.entersW kind)).flatMap Site.keys
  let all := l.flatMap Site.keys
  { c with
    rsig := rk.foldl Sig.enter c.rsig
    wsig := wk.foldl Sig.enter c.wsig
    wglob := ((l.filter (fun x => x.entersW kind && x.kind != .scratch)).flatMap Site.keys).foldl Sig.enter c.wglob
    touched := if kind = .red then c.touched else addKeys c.touched all
    reduced := if kind = .red then addKeys c.reduced all else c.reduced }

/-- The sites a last-use hint acts on (R162). -/
def lastUseSites (l : List Site) : List Site := l.filter (fun x => x.kind == .tracked || x.kind == .streaming)

/-- The memory-side lines a last-use access names (R162). -/
def lastUseLines (l : List Site) : List Nat := (lastUseSites l).flatMap (fun x => x.vas.map (fun v => x.code v / 512))

/-- The grains of those lines, which enter W as those of a `drop` do (R162, R175). -/
def lastUseKeys (l : List Site) : List DWord :=
  ((lastUseSites l).flatMap (fun x => ((x.vas.map (fun v => v / 512 * 512)).dedup).flatMap (fun b =>
    (upto (512 / grainSize x.desc)).map (fun n => Machine.grainKey x.key (b + n * grainSize x.desc) (grainBits x.desc))))).dedup

/-- A load's last-use hint in its chunk (R162). -/
def Chunk.lastUsed (c : Chunk) (l : List Site) : Chunk :=
  let ks := lastUseKeys l
  { c with lastUse := addNats c.lastUse (lastUseLines l), wsig := ks.foldl Sig.enter c.wsig, wglob := ks.foldl Sig.enter c.wglob }

/-- The tags of the plots a chunk's accesses lie in (R308). -/
def plotTags (l : List Site) : List Nat := (l.filter (fun x => x.kind != .scratch)).map (fun x => plotTag x.key (x.vas.headD 0))

/-- The tiles whose speculative lines refer to a header that is not identity: the one a clean copy of the tile refers to, or the one its home
holds (R260, R325, R326). -/
def State.newRefs (s : State) (core : Nat) (l : List Site) : List Nat :=
  ((l.filter (fun x => x.kind != .scratch && x.kind != .uncached && descG x.desc)).flatMap (fun x =>
    (x.bases.filter (fun b => (s.core core).glaze.any (fun e => e.1 == tileTag x.key b)
      || (s.headerAt (x.code b)).map != GMap.identity)).map (tileTag x.key))).dedup

/-- A chunk whose lines at some sites refer to the headers of their tiles (R325). -/
def State.withRefs (s : State) (core : Nat) (c : Chunk) (l : List Site) : Chunk := { c with refs := addNats c.refs (s.newRefs core l) }

/-- The grains new to a solo chunk's R (R247). -/
def State.newGrains (s : State) (k : Nat) (kind : Access) (l : List Site) : List DWord :=
  let has := match s.solos.find? (fun o => o.drill == k) with | some o => o.grains | none => []
  (((l.filter (Site.entersR kind)).flatMap Site.keys).dedup).filter (fun g => !(has.any (fun x => x == g)))

/-- Grains registered for a drill's reservation, which receives the current CSN with them (R247). -/
def State.register (s : State) (k : Nat) (gs : List DWord) : State :=
  if gs.isEmpty then s
  else { s with solos := s.solos.map (fun o => if o.drill = k then { o with grains := o.grains ++ gs, seen := s.nextCsn - 1 } else o) }

/-- Whether a core has still to apply a broadcast up to the CSN that a solo chunk received with its grains (R247). -/
def State.soloBehind (s : State) (k : Nat) : Bool := s.solos.any (fun o => o.drill == k && decide (s.horizon (coreOf k) < o.seen))

/-- Whether a grain is one of the shared window. -/
def sharedGrain (g : DWord) : Bool := field g.toNat 47 17 == 0

/-- Whether a solo chunk may not yet register some grains: reservations of different keys meet in the shared window alone, and one at a time
registers grains there, so that none of them waits for another without end (R250; DEDUCED, log 80). -/
def State.sharedTaken (s : State) (k : Nat) (gs : List DWord) : Bool :=
  gs.any sharedGrain && s.solos.any (fun o => o.drill != k && o.grains.any sharedGrain)

/-- Whether another drill's reservation under a key holds back a W (R247). -/
def State.heldBySolo (s : State) (k key : Nat) (w : Sig) : Bool := s.soloHolds (fun o => o.drill != k) key w

/-! ### An access carried out -/

/-- The grains a unit of its own chunk writes, as far as their homes' room for them goes (R353). -/
def ownGrains (l : List Site) : List GrainWrite :=
  ((l.filter (fun x => x.kind != .scratch)).flatMap (fun x => x.bases.map (fun b => (x.code b, grainSize x.desc, x.key, b, x.desc)))).dedup.map
    (fun (a, n, key, b, desc) =>
      { addr := a, size := n, key := key, va := b, desc := desc, bytes := [(0, 0)], reds := [], atoms := [], fire := false, edit := none
        prio := 0, asid := 0, attrs := [] })

/-- What keeps the accesses of a checked unit from being made in this chunk now, or the uncached case (R161, R163, R164, R247). -/
def State.holdUp (s : State) (k : Nat) (d : Drill) (kind : Access) (l : List Site) : Option Res :=
  let keys := l.flatMap Site.keys
  let core := coreOf k
  if l.any (fun x => x.kind != .scratch && (descM x.desc || x.bases.any (fun b => (s.home (codeHome (x.code b))).gated))) then
    some (.wait s .migrating)
  else if l.any (fun x => x.kind == .scratch && kind.reads && x.bases.any (fun b => !s.present d (b / 32))) then some (.wait s .sector)
  else if keys.any (fun g => (if kind = .red then d.chunk.touched else d.chunk.reduced).any (fun x => x == g)) then some (.before 4)
  else if kind != .red && (match d.older with
      | some o => keys.any (fun g => o.chunk.reduced.any (fun x => x == g))
      | none => false) then some (.wait s .stamp)
  else if l.any (fun x => x.kind == .uncached) then
    if d.chunk.expl.isSome || d.chunk.units > 0 || d.older.isSome then some (.before 4)
    else if s.horizon core < s.nextCsn - 1 then some (.wait (s.later [.broadcastApply core]) .order)
    else if l.any (fun x => x.kind != .scratch && x.bases.any (fun b => s.pendingAt (x.code b) (grainSize x.desc))) then
      some (.wait (s.later ((l.map (fun x => codeHome (x.code (x.vas.headD 0)))).dedup.map Instr.homeApplyCommit)) .order)
    else if s.heldBySolo k d.asid (d.chunk.enter kind l).wsig then some (.wait s .order)
    else if kind.writes && l.any (fun x => x.kind != .scratch && x.bases.any (fun b => s.walk (x.code b) matches .migrating)) then
      some (.wait s .migrating)
    else if kind.writes && !(ownGrains l).all (fun g => s.entryRoom (codeHome g.addr) (ownGrains l)) then
      some (.wait (s.demandRoom (ownGrains l) (.drill k d.wg)) .room)
    else none
  else if d.chunk.solo && s.sharedTaken k (s.newGrains k kind l) then some (.wait s .order)
  else none

/-- The L1 line of a byte of a site. -/
def Site.lineOf (x : Site) (va : Nat) : SpecLine :=
  { kind := x.kind, line := if x.kind = .scratch then va / 128 else x.key * 2 ^ 41 + va / 128 }

/-- The priority of reads set on the lines in which the chunk has stored, as on clean ones: the last access to a line sets it (R162, R268). -/
def Chunk.readLines (c : Chunk) (l : List Site) (prio : DWord → Nat) : Chunk :=
  { c with eps := l.foldl (fun m x => if x.kind = .scratch then m
      else x.vas.foldl (fun m v => Map.update m (x.lineOf v).line (fun _ => prio x.desc)) m) c.eps }

/-- Checked accesses made: what holds them up; the grains of a solo chunk registered, and the broadcasts up to the CSN it receives with them awaited
(R247); then the reads' data; `go` computes the effect from the sites, with the state and
drill as the reads leave them. -/
def State.accessSites (s : State) (k : Nat) (d : Drill) (kind : Access) (h : Hints) (sites : List Site)
    (go : State → Drill → List Site → State × Drill) : Res :=
  match s.holdUp k d kind sites with
  | some r => r
  | none =>
  let s := s.register k (if d.chunk.solo then s.newGrains k kind sites else [])
  if s.soloBehind k then .wait (s.later [.broadcastApply (coreOf k)]) .order
  else
  match (if kind.reads then s.readsReady (s.unitAttr k d) (coreOf k) d.asid
      ((sites.filter (fun x => !(kind == .atom && x.kind == .uncached))).map (Site.reader kind)) else .ok) with
  | .stop r => r
  | .ok =>
  match (if kind.reads then sites.find? (fun x => s.siteBad (coreOf k) d (x.reader kind)) else none) with
  | some x => .trap (laneTrap 9 1 x.acc)
  | none =>
    let c := d.chunk.enter kind sites
    let c := { c with plots := addNats c.plots (plotTags sites) }
    let c := if kind.writes && kind != .red then s.withRefs (coreOf k) c sites else c
    let c := if lastUseHint h && kind == .read then c.lastUsed sites else c
    let c := if kind == .read then c.readLines sites (accPrio h) else c
    let r := go s { d with chunk := c } sites
    let s2 := if kind.reads then r.1.fillSites (coreOf k) h (sites.map (Site.reader kind)) else r.1
    if sites.any (fun x => x.kind == .uncached) then .own s2 r.2 else .done s2 r.2

/-- The accesses of one unit: every check of R156 in order, then the accesses. -/
def State.access (s : State) (k : Nat) (d : Drill) (kind : Access) (priv : Bool) (h : Hints) (l : List Acc)
    (go : State → Drill → List Site → State × Drill) : Res :=
  match s.addrTrap d kind priv l with
  | some t => .trap t
  | none =>
  match lookPlots k d l s [] [] with
  | .stop r => r
  | .all s' ds bad =>
  match plotTrap kind (s.supOf d.asid) ds with
  | some t => .trap t
  | none =>
  match s.lockTrap (coreOf k) d.asid kind l with
  | some t => .trap t
  | none =>
  match bad with
  | a :: _ => .trap (laneTrap 9 1 a)
  | [] => s'.accessSites k d kind h (l.map (siteOf d ds)) go

/-! ### Speculative stores and reductions (R159, R163, R166, R359) -/

/-- Elements added to a list. -/
def addNew {α : Type} [DecidableEq α] (l xs : List α) : List α := xs.foldl (fun l x => if x ∈ l then l else x :: l) l

/-- The grains a chunk writes, with those of a site. The commit writes a grain once, at the priority that the chunk's accesses to it would leave one after
another on a line (R277): DESIGN CHOICE (log 105). -/
def Chunk.addGrains (c : Chunk) (x : Site) (prio : Nat) : Chunk :=
  x.bases.foldl (fun c b =>
    let a := x.code b
    if c.grains.any (fun g => g.addr == a) then
      { c with grains := c.grains.map (fun g => if g.addr = a then { g with prio := linePrio g.prio prio } else g) }
    else
      { c with grains := c.grains ++ [{ addr := a, size := grainSize x.desc, key := x.key, va := b, desc := x.desc, prio := prio }] }) c

/-- The store-PC log with the sectors of a site (R359). -/
def Chunk.addPcs (c : Chunk) (x : Site) (pc : DWord) (kind : Nat) : Chunk :=
  ((x.vas.map (fun v => x.code v / 32)).dedup).foldl (fun c q =>
    if c.pcs.any (fun p => p.sector == q) then c else { c with pcs := c.pcs ++ [{ sector := q, pc := pc, kind := kind }] }) c

/-- Bytes stored at a site as the chunk's speculative data. -/
def Chunk.store (c : Chunk) (x : Site) (prio : Nat) (pc : DWord) (kind : Nat) (bytes : List Byte) : Chunk :=
  if x.kind = .scratch then
    { c with
      scratch := (x.vas.zip bytes).foldl (fun m b => Map.set m b.1 b.2) c.scratch
      lines := addNew c.lines (x.vas.map x.lineOf) }
  else
    let c := (c.addGrains x prio).addPcs x pc kind
    { c with
      spec := (x.vas.zip bytes).foldl (fun m b => Map.set m (x.code b.1) b.2) c.spec
      eps := x.vas.foldl (fun m v => Map.set m (x.lineOf v).line prio) c.eps
      lines := if x.kind = .uncached then c.lines else addNew c.lines (x.vas.map x.lineOf) }

/-- A reduction carried by the chunk. -/
def Chunk.reduce (c : Chunk) (x : Site) (prio : Nat) (pc : DWord) (op : Nat) (v : Nat) : Chunk :=
  let va := x.vas.headD 0
  if x.kind = .scratch then { c with reds := c.reds ++ [{ scratch := true, addr := va, op := op, value := BitVec.ofNat 64 v }] }
  else
    let c := (c.addGrains x prio).addPcs x pc 2
    { c with reds := c.reds ++ [{ scratch := false, addr := x.code va, op := op, value := BitVec.ofNat 64 v }] }

/-- Clean lines give way to the speculative ones of a drill's chunk, in every set that these take (R268). -/
def State.trimLines (s : State) (k : Nat) (d : Drill) : State :=
  ((d.chunk.lines.map (fun l => l.set (s.baseOf d.wg))).dedup).foldl (fun s set => s.makeRoom 32 (coreOf k) set Config.l1Ways) (s.setDrill k d)

/-! ### Scratchpad lines (R176, R177, R269, R270) -/

/-- Lines of o in [lo, hi) that lie in a set for base b. -/
def linesToSet (b lo hi set : Nat) : Nat := ((upto (hi - lo)).filter (fun o => (b + lo + o) % Config.l1Sets == set)).length

/-- Whether each set of new lines stays within 12 pinned lines (R269, R270). -/
def State.canPin (s : State) (core b lo hi : Nat) : Bool :=
  (upto Config.l1Sets).all (fun set => decide (s.pinned core set + linesToSet b lo hi set ≤ Config.pinnedWays))

/-- The workgroup cut or extended to a number of lines; what lies above the lower size is gone (R177, R272). -/
def Workgroup.resize (w : Workgroup) (size : Nat) : Workgroup :=
  let m := min w.size size
  { w with size := size, scratch := w.scratch.filter (fun b => decide (b.1 < 128 * m))
           sectors := w.sectors.filter (fun q => decide (q < 4 * m)) }

end Sys2Proof.Machine
end

