-- ==== Sys2Proof/Machine/Chunk.lean ====
section
/-!
DEFINITION. What becomes of an ended chunk (13_drills_and_chunks.md R239 to R249, R267): prepare, request, stamp, what the core
keeps, and the operations that follow the stamp (R197); the events of the commit order.
-/

namespace Sys2Proof.Machine

open Sys2Proof

/-! ### The scratchpad at a commit (R160, R242, R244, R272) -/

/-- The sectors a chunk stores or reduces into. -/
def Chunk.sectorsFilled (c : Chunk) : List Nat :=
  (c.scratch.map (fun (b : Nat × Byte) => b.1 / 32) ++ (c.reds.filter (fun (r : Red) => r.scratch)).map (fun (r : Red) => r.addr / 32)).dedup

/-- A scratchpad reduction applied by the core (R166). -/
def applyScratchRed (m : Memory) (r : Red) : Memory :=
  let n := redBytes r.op
  let old := ofBytes ((upto n).map (fun k => Memory.get m (r.addr + k)))
  let new := toBytes n (redValue r.op old r.value.toNat)
  (upto n).foldl (fun m k => Memory.put m (r.addr + k) (new.getD k 0)) m

/-- The workgroup with a chunk's scratchpad data committed: an absent sector is zero beside what is stored, and becomes present. -/
def Workgroup.commitScratch (w : Workgroup) (c : Chunk) : Workgroup :=
  let qs := c.sectorsFilled
  let fresh := qs.filter (fun q => !w.sectors.any (fun x => x == q))
  let m := w.scratch.filter (fun b => !fresh.any (fun q => q == b.1 / 32))
  let m := c.scratch.foldl (fun m b => Memory.put m b.1 b.2) m
  let m := (c.reds.filter (fun r => r.scratch)).foldl applyScratchRed m
  { w with scratch := m, sectors := w.sectors ++ fresh }

/-- Whether a chunk writes all 32 bytes of a sector, by stores or reductions (R365). -/
def Chunk.wholeSector (c : Chunk) (q : Nat) : Bool :=
  (upto 32).all (fun k => (Map.find c.scratch (32 * q + k)).isSome
    || c.reds.any (fun r => r.scratch && decide (r.addr ≤ 32 * q + k) && decide (32 * q + k < r.addr + redBytes r.op)))

/-- The chunks that meet p and whose R meets W squashed; a chunk whose request is sent is left to its slice, a solo one is met by
no commit (R243, R244, R247). -/
def State.squashMeeting (s : State) (p : Nat → Drill → Bool) (w : Sig) : State :=
  s.drills.foldl (fun s c =>
    if !p c.1 c.2 then s
    else
      let oldHit : Bool := match c.2.older with
        | some o => o.phase != .requested && !o.chunk.solo && o.chunk.rsig.meets w
        | none => false
      if oldHit then s.squash c.1 true
      else if !c.2.chunk.solo && c.2.chunk.rsig.meets w then s.squashNewer c.1 true
      else s) s

/-- A chunk's scratchpad data committed within its core; drills of the workgroup that wait for a sector look again (R160, R178). -/
def State.commitScratch (s : State) (d : Drill) (c : Chunk) : State :=
  if c.sectorsFilled.isEmpty then s
  else
    let s := { s with
      wgs := Map.update s.wgs d.wg (fun w => w.commitScratch c)
      badScratch := s.badScratch.filter (fun q => !(q.1 == d.wg && c.wholeSector q.2)) }
    (s.wake .sector (fun _ x => x.wg == d.wg)).squashMeeting (fun _ x => x.wg == d.wg) c.wsig

/-! ### The chunk's speculative lines at its stamp (R267, R326) -/

/-- A speculative line of the core's memory at a stamp: its grain's use, the VA of its first byte, the priority of the last access to it, and the
chunk's bytes in it by VA. -/
structure StampLine where
  use : GrainUse
  va : Nat
  prio : Nat
  bytes : List (Nat × Byte)

/-- The sectors of a line that are written, by number in the line. -/
def StampLine.sectors (x : StampLine) : List Nat := (x.bytes.map (fun b => b.1 / 32 % 4)).dedup

/-- Whether the written sectors are wholly covered. -/
def StampLine.covered (x : StampLine) : Bool :=
  x.sectors.all (fun q => decide ((x.bytes.filter (fun b => b.1 / 32 % 4 == q)).length = 32))

/-- The lines a chunk stores into outside the scratchpad and uncached plots, whole: the bytes of every grain in the line. -/
def Chunk.stampLines (c : Chunk) : List StampLine :=
  let gs := c.grains.filter (fun g => descTreat g.desc != 2)
  let bytes := fun (g : GrainUse) => (c.spec.filter (fun b => decide (g.addr ≤ b.1) && decide (b.1 < g.addr + g.size))).map (fun b => (g.va + (b.1 - g.addr), b.2))
  let all := gs.flatMap (fun g => (bytes g).map (fun b => (g, b)))
  let lines := (all.map (fun x => (x.1.key, x.2.1 / 128 * 128))).dedup
  lines.filterMap (fun l =>
    let here := all.filter (fun x => x.1.key == l.1 && x.2.1 / 128 * 128 == l.2)
    here.head?.map (fun x => { use := x.1, va := l.2, prio := Map.get x.1.prio c.eps (l.1 * 2 ^ 41 + l.2 / 128), bytes := here.map (fun x => x.2) }))

/-- The tiles of a glazed line's written bytes, by VA. -/
def StampLine.tiles (x : StampLine) : List Nat := (x.bytes.map (fun b => b.1 / x.use.size * x.use.size)).dedup

/-- The chunk's bytes in a tile, over all its lines. -/
def tileBytes (ls : List StampLine) (key tile size : Nat) : Nat :=
  (ls.filter (fun y => y.use.key == key)).foldl (fun n y => n + (y.bytes.filter (fun b => decide (tile ≤ b.1) && decide (b.1 < tile + size))).length) 0

/-- Whether a line of a glazed plot refers to a header that is not identity and does not cover whole tiles with the chunk's other lines:
it becomes invalid, and no clean copy of those tiles stays, whose view is older than the drill's own store (R255, R326; DEDUCED, log 9). -/
def StampLine.invalid (x : StampLine) (refs : List Nat) (ls : List StampLine) : Bool :=
  descG x.use.desc && x.tiles.any (fun t => refs.any (fun r => r == tileTag x.use.key t))
    && !x.tiles.all (fun t => decide (tileBytes ls x.use.key t x.use.size = x.use.size))

/-- One line at the stamp: clean, merged, at the priority of the chunk's access, or invalid (R162, R267). Where it neither becomes clean nor merges, no older copy of its sectors stays
either: DEDUCED (log 9) from R255. A tile stored whole holds the stored bytes with an identity header (R326). -/
def State.cleanLine (s : State) (core : Nat) (refs : List Nat) (ls : List StampLine) (x : StampLine) : State :=
  let c := s.core core
  let str := descTreat x.use.desc == 1
  let mine := fun (y : L1Line) => y.key == x.use.key && y.streaming == str && y.va == x.va
  let was : L1Line := match c.l1.find? mine with
    | some y => y
    | none => { key := x.use.key, va := x.va, gbits := grainBits x.use.desc, streaming := str, sectors := 0, prio := x.prio
                glazed := descG x.use.desc, data := [] }
  let mask := x.sectors.foldl (fun m q => m ||| ((1 : BitVec 4) <<< q)) 0
  if x.invalid refs ls then
    s.setCore core (c.dropClean (fun y => mine y))
  else if x.covered || x.sectors.all (fun q => was.sectors.getLsbD q) then
    let data := if str then x.bytes.foldl (fun m b => Map.set m (b.1 % 128) b.2) was.data else []
    let c := { c with glaze := c.glaze.filter (fun e => !x.tiles.any (fun t => e.1 == tileTag x.use.key t && refs.any (fun r => r == e.1))) }
    s.setCore core (c.withL1 ({ was with sectors := was.sectors ||| mask, prio := x.prio, data := data } :: c.l1.filter (fun y => !mine y)))
  else
    let left := was.sectors &&& ~~~mask
    let rest := c.l1.filter (fun y => !mine y)
    s.setCore core (c.withL1 (if left == 0 then rest else { was with sectors := left } :: rest))

/-- The tiles a chunk stores into whose header at the home is not identity, or will be changed by a commit the home has still to apply: at its stamp
the chunk's lines of them refer to it whatever an older clean copy holds, so that no store is seen on an unfired payload (R260, R326). -/
def State.stampRefs (s : State) (c : Chunk) : List Nat :=
  (c.grains.filter (fun g => descG g.desc && ((s.headerAt g.addr).map != GMap.identity
    || s.commits.any (fun x => x.homes.any (fun h => h == codeHome g.addr) && x.grains.any (fun y => y.addr == g.addr && y.edit.isSome))
    || (s.home (codeHome g.addr)).dsb.any (fun e => e.write.addr == g.addr && e.write.edit.isSome)))).map (fun g => tileTag g.key g.va)

/-- Whether a chunk reduces into a grain, or carries an uncached atomic of it. -/
def Chunk.reducesAt (c : Chunk) (g : GrainUse) : Bool :=
  c.reds.any (fun r => !r.scratch && decide (g.addr ≤ r.addr) && decide (r.addr < g.addr + g.size))

/-- Whether two byte ranges of one key meet. -/
def GrainUse.meets (g : GrainUse) (key va n : Nat) : Bool := g.key == key && overlap g.va g.size va n

/-- The chunk's lines at its stamp. No clean copy of a grain it has reduced into stays, which would lack the reduction (R164), and no data that the
home has read for a fill of a grain it writes is installed any more (R255). DEDUCED (log 9). -/
def State.cleanLines (s : State) (core : Nat) (c : Chunk) : State :=
  let ls := c.stampLines
  let refs := c.refs ++ s.stampRefs c
  let s := ls.foldl (fun s x => s.cleanLine core refs ls x) s
  let reduced := c.grains.filter c.reducesAt
  (s.setCore core ((s.core core).dropClean (fun x => reduced.any (fun g => g.meets x.key x.va 128)))).staleFills core
    (fun f => c.grains.any (fun g => g.meets f.key f.va (grainSize f.desc)))

/-! ### The stamp (R242 step 5, R243, R251) -/

/-- A chunk of drill k stamped with the next CSN; `d` is the drill as it goes on. -/
def State.commitChunk (s : State) (k : Nat) (d : Drill) (c : Chunk) : State :=
  let csn := s.nextCsn
  let grains := d.grainWrites k c
  let streams := ((grains.filter (fun g => descTreat g.desc == 1)).map (fun g => codeHome g.addr)).dedup.map (fun h => (h, csn))
  let s := (s.setDrill k { d with csn := csn, pendingStreams := d.pendingStreams ++ streams }).launchAt d.launch csn
  let s := match c.fault with
    | some v => { s with ctxs := Map.update s.ctxs d.asid (fun x => { x with faultq := v }) }
    | none => s
  let s := s.cleanLines (coreOf k) c
  let s := if c.solo then s.endSolo k else s
  let s := if c.replayed then s.event 0x80 0 4 (whoOf k) else s
  let s := s.stamp { Commit.blank d.asid with
    all := grains.any (fun g => g.key == 0) || c.drops.any (fun r => r.1 == 0) || c.lastUse.any (fun l => codeKey (l * 512) == 0)
    w := c.wsig, wb := c.wglob, grains := grains, drops := c.drops, lastUse := c.lastUse }
  (s.commitScratch d c).wakeLog k

/-- What a drill waits for while the operation is performed. -/
def opWait (r : Regs) : Instr → Wait
  | .flr a b => .flr (r.uniN a) (r.uniN b)
  | .scrShrk d a => .shrink d (roundUp (r.uniN a) 128)
  | .fenceS => .fence
  | .lnch .. => .lnch
  | .exit => .exiting
  | _ => .none

/-- The operation performed: the drill goes on with its chunk. -/
def Drill.opDone (d : Drill) : Drill := { d with chunk := { d.chunk with after := none, afterUnit := UnitCtx.empty }, wait := .none }

/-- A register written by an operation after the stamp belongs to the chunk that follows; a squash of that chunk keeps it, since
the operation is of no chunk (R197). -/
def Drill.opWrite (d : Drill) (n x : Nat) : Drill :=
  let r := { d.regs with u := Map.put 0 d.regs.u n (BitVec.ofNat 64 x) }
  { d with regs := r, chunk := { d.chunk with start := r } }

/-- Bytes of a save area with L lines and n drill parts (R300). -/
def LaunchRec.areaBytes (r : LaunchRec) (lines n : Nat) : Nat :=
  256 + roundUp (128 * lines + (lines + 1) / 2) 256 + roundUp (16 * r.barriers) 256 + 1024
    + n * (256 + 256 * roundUp r.vregs 8 + 512 + 256 + 1280 * roundUp r.tiles 4 + 4096 * roundUp r.accs 2 + 1024)

/-- The save area for n bytes in a context's pool for a workgroup: the lowest place that no other workgroup's area takes (R293, R300).
DESIGN CHOICE (log 17): first fit. -/
def State.freeArea (s : State) (id asid n : Nat) : Option Nat :=
  match Map.find s.ctxs asid with
  | none => none
  | some c =>
    let used := (s.wgs.filter (fun w => w.1 != id && w.2.asid == asid)).map (fun w => (w.2.area, w.2.areaLen))
    let ok := fun a => decide (a + n ≤ c.poolBase + c.poolLen) && !used.any (fun u => overlap a n u.1 u.2)
    let ends := used.map (fun u => roundUp (u.1 + u.2) 256)
    ((c.poolBase :: ends).filter ok).foldl (fun m a => match m with | none => some a | some b => some (min a b)) none

/-- The save area a workgroup needs with a number of lines: its own where that is large enough, else another that is free (R293, R300). -/
def State.areaFor (s : State) (id : Nat) (w : Workgroup) (lines : Nat) : Option (Nat × Nat) :=
  match Map.find s.launches w.launch with
  | none => none
  | some l =>
    let n := l.record.areaBytes lines w.ndrills
    if n ≤ w.areaLen then some (w.area, w.areaLen) else (s.freeArea id w.asid n).map (fun a => (a, n))

/-- The request of an `scr.grow` at the stamp of the chunk it ended (R176): granted, so that every drill of the workgroup sees the new size,
and the drill waits for the ways; or not met, and the drill goes on with the unchanged size. It is met only where the save pool has room for
the larger image, which it reserves, so that the workgroup can always be pre-empted (R293): DEDUCED (log 17). -/
def State.growAt (s : State) (k : Nat) (dst bytes : Nat) : State :=
  match Map.find s.drills k with
  | none => s
  | some d => match Map.find s.wgs d.wg with
    | none => s
    | some w =>
      let hi := w.size + bytes / 128
      match (if 128 * w.size + bytes > Config.scratchMax || !s.canPin w.core w.base w.size hi then none else s.areaFor d.wg w hi) with
      | none => s.setDrill k ((d.opWrite dst (128 * w.size)).opDone)
      | some (a, n) =>
        ({ s with wgs := Map.set s.wgs d.wg { w.resize hi with area := a, areaLen := n } }.setDrill k { d with wait := .grow dst hi }).later
          [.scrGrowComplete k]

/-- The older chunk of a drill stamped; the operation of its last unit is then performed. That of `fence.x` discards every word the drill
has fetched, and from then on it sees every word committed up to that chunk (R173). -/
def State.stampOlder (s : State) (k : Nat) (d : Drill) (o : Older) : State :=
  let fence := o.chunk.after = some .fenceX
  let d' := { d with older := none, wait := if d.wait = .stamp then Wait.none else d.wait
                     fetched := if fence then [] else d.fetched, fenced := if fence then s.nextCsn else d.fenced }
  let s := s.withdraw k
  let op := if fence then none else o.chunk.after
  match op with
  | some i =>
    let d' := { d' with chunk := { d'.chunk with after := some i, afterUnit := o.chunk.afterUnit }, wait := opWait d.regs i }
    let s := s.commitChunk k d' o.chunk
    match i with
    | .scrGrow dst a => s.growAt k dst (roundUp (d.regs.uniN a) 128)
    | i => s.later (opEvent k i)
  | none =>
    let s := s.commitChunk k d' o.chunk
    if d'.chunk.units ≥ d'.chunk.limit ∧ d'.chunk.expl.isNone then s.later [.chunkLimitReached k] else s

/-- A chunk of one instruction stamped and applied at its homes at once (R163, R251). -/
def State.commitOwn (s : State) (k : Nat) (d : Drill) : State :=
  let c := d.counted.chunk
  let wait := if c.atoms.isEmpty then Wait.none else Wait.atom
  let d' := { d with chunk := Chunk.fresh d.regs 0 limitMax none, wait := wait, waited := 0 }
  let s := s.commitChunk k d' c
  let homes := commitHomes (d.grainWrites k c) c.drops c.lastUse
  (homes.foldl (fun (x : Applied) h => State.drainHome (x.s.commits.length + 1) h x) ⟨s, [], []⟩).settle

/-! ### Events of the commit order -/

/-- COMMIT_PREPARE: the ended chunk's dirty grains are sent to their homes (R242 steps 1 and 2). -/
def execCommitPrepare (d : Nat) (s : State) : Host.Outcome State Fault Refusal :=
  match Map.find s.drills d with
  | none => .next s
  | some x => match x.older with
    | none => .next s
    | some o =>
      if o.phase ≠ .ended then .next s
      else
        let homes := (o.chunk.grains.map (fun g => codeHome g.addr)).dedup
        if homes.isEmpty then .next ((s.setDrill d { x with older := some { o with phase := .prepared } }).later [.commitRequest d])
        else .next ((s.setDrill d { x with older := some { o with phase := .preparing homes } }).later
          (homes.map (fun h => .homePrepare h d)))

/-- HOME_PREPARE: a home accepts a prepare, or refuses it while its deferred-store buffer has no room for it (R353), a
walk of it meets MIG (R313), or the home is gated. -/
def execHomePrepare (home : Nat) (d : Nat) (s : State) : Host.Outcome State Fault Refusal :=
  match Map.find s.drills d with
  | none => .next s
  | some x => match x.older with
    | none => .next s
    | some o => match o.phase with
      | .preparing hs =>
        if home ∉ hs then .next s
        else
          let gs := (x.grainWrites d o.chunk).filter (fun g => codeHome g.addr == home)
          if (s.home home).gated then .next s
          else if !s.entryRoom home gs then .next (s.demandRoom gs (.drill d x.wg))
          else if gs.any s.migHolds then .next s
          else
            let hm := s.home home
            let s := s.setHome home { hm with prepares := hm.prepares ++ [{ drill := d, grains := gs }] }
            let rest := hs.filter (fun h => h != home)
            if rest.isEmpty then .next ((s.setDrill d { x with older := some { o with phase := .prepared } }).later [.commitRequest d])
            else .next (s.setDrill d { x with older := some { o with phase := .preparing rest } })
      | _ => .next s

/-- COMMIT_REQUEST: R, W and the horizon go to the cluster's arbiter slice (R242 step 3). -/
def execCommitRequest (d : Nat) (s : State) : Host.Outcome State Fault Refusal :=
  match Map.find s.drills d with
  | none => .next s
  | some x => match x.older with
    | none => .next s
    | some o =>
      if o.phase ≠ .prepared then .next s
      else
        let q : Request := { drill := d, slice := coreOf d / 32, key := x.asid, r := o.chunk.rsig, w := o.chunk.wsig
                             horizon := s.horizon (coreOf d) }
        .next ({ s.setDrill d { x with older := some { o with phase := .requested } } with requests := s.requests ++ [q] }.later
          [.orderTokenVisit])

/-- Whether the arbiter refuses a request: its R meets a W stamped above its horizon, or its horizon lies below the window (R243).
A solo chunk is never refused (R247). -/
def State.refuses (s : State) (q : Request) (solo : Bool) : Bool :=
  !solo && (decide (q.horizon + Config.arbiterWindow < s.nextCsn)
    || s.commits.any (fun c => decide (c.csn > q.horizon) && q.r.meets c.w))

/-- One request decided (R243). -/
def State.decideRequest (s : State) (q : Request) : State :=
  match Map.find s.drills q.drill with
  | none => s.withdraw q.drill
  | some d => match d.older with
    | none => s.withdraw q.drill
    | some o =>
      if s.refuses q o.chunk.solo then (s.squash q.drill true).nudge d.wg
      else if s.heldBySolo q.drill q.key q.w then s
      else (s.stampOlder q.drill d o).nudge d.wg

/-- Whether a request would be decided now. -/
def State.decidable (s : State) (q : Request) : Bool :=
  (match Map.find s.drills q.drill with
    | some d => match d.older with
      | some o => s.refuses q o.chunk.solo
      | none => true
    | none => true) || !s.heldBySolo q.drill q.key q.w

/-- Up to n requests of a list decided, in order. One that a reservation holds back is left waiting and is none of the n, so that a solo chunk's
own request behind any number of them is decided (R243, R250; DEDUCED, log 80). -/
def decideUpTo : Nat → List Request → State → State
  | _, [], s => s
  | 0, _, s => s
  | n + 1, q :: qs, s => if s.decidable q then decideUpTo n qs (s.decideRequest q) else decideUpTo (n + 1) qs s

/-- ORDER_TOKEN_VISIT: the slice with the token decides up to 32 of its requests, in order, and passes it on (R243). Records whose engine
chunks a reservation held back go on where they may (R247, R356). -/
def execOrderTokenVisit (s : State) : Host.Outcome State Fault Refusal :=
  let s := if s.records.isEmpty then s else Applied.settle ⟨s, [], []⟩
  let s := (decideUpTo Config.arbiterBatch (s.requests.filter (fun q => q.slice == s.token)) s).retryHeld
  let s := { s with token := (s.token + 1) % 8 }
  .next (if s.requests.any s.decidable then s.later [.orderTokenVisit] else s)

/-- HOME_APPLY_COMMIT: a home applies the lowest commit it has still to apply (R244). -/
def execHomeApplyCommit (home : Nat) (s : State) : Host.Outcome State Fault Refusal := .next (s.homeApply home).settle

/-- Clean lines a commit's W contains invalidated, with their header references (R244, R325); streaming lines are in no signature but where W
holds them. -/
def Core.invalidate (c : Core) (key : Nat) (all : Bool) (w : Sig) : Core :=
  c.dropClean (fun x => (x.key == key || (all && x.key == 0)) &&
    (if x.gbits = 5 then (upto 4).any (fun q => w.has (grainKey x.key (x.va + 32 * q) 5))
     else w.has (grainKey x.key (x.va / 2 ^ x.gbits * 2 ^ x.gbits) x.gbits)))

/-- Whether a chunk has used one of n plots of a key from a first one on. -/
def Chunk.usesPlot (c : Chunk) (p : Nat × Nat × Nat) : Bool :=
  c.plots.any (fun t => decide (p.1 * 2 ^ 32 + p.2.1 ≤ t) && decide (t < p.1 * 2 ^ 32 + p.2.1 + p.2.2))

/-- The chunks of a core that have used a plot under a descriptor now changed, and whose request is not sent, squashed; those requested
commit under the old one. Fills in flight of the plot are dropped. DEDUCED (log 66) from R308: no access uses the old descriptor after the
command completes. -/
def State.leavePlot (s : State) (core : Nat) (p : Nat × Nat × Nat) : State :=
  let s := s.drills.foldl (fun s c =>
    if coreOf c.1 ≠ core then s
    else if c.2.older.any (fun o => o.phase != .requested && o.chunk.usesPlot p) then s.squash c.1 true
    else if c.2.chunk.usesPlot p then s.squashNewer c.1 true
    else s) s
  { s with fills := s.fills.filter (fun f => !(f.2.core == core && f.2.key == p.1 && decide (p.2.1 ≤ f.2.va / 65536)
      && decide (f.2.va / 65536 < p.2.1 + p.2.2))) }

/-- BROADCAST_APPLY: a core applies the lowest commit released to it: clean grains invalidated, a changed plot's descriptor
dropped, running chunks whose R meets W squashed (R244, R308). -/
def execBroadcastApply (core : Nat) (s : State) : Host.Outcome State Fault Refusal :=
  match s.commits.find? (fun c => core ∈ c.cores) with
  | none => .next s
  | some c =>
    if !c.released then .next s
    else
      let x := (s.core core).invalidate c.key c.all c.wb
      let x := match c.plot with
        | some (key, first, n) =>
          { x with plots := x.plots.filter (fun p => !(decide (key * 2 ^ 32 + first ≤ p.1) && decide (p.1 < key * 2 ^ 32 + first + n))) }
        | none => x
      let s := s.setCore core x
      let s := { s with fills := s.fills.map (fun (f : Nat × Fill) =>
        if f.2.core = core ∧ c.wb.has (grainKey f.2.key f.2.va (grainBits f.2.desc)) then (f.1, { f.2 with stale := true }) else f) }
      let s := s.squashMeeting (fun k d => coreOf k == core && (c.all || d.asid == c.key)) c.wb
      let left := c.cores.filter (fun n => n != core)
      let s := { s with commits := s.commits.map (fun (y : Commit) => if y.csn = c.csn then { y with cores := left } else y) }.wakeOrder
      let s := match c.plot with | some p => s.leavePlot core p | none => s
      let s := if c.plot.isSome then s.stir (fun w => w == .migrating || w == .lnch) else s
      .next (match s.commits.find? (fun (y : Commit) => core ∈ y.cores) with
        | some y => if y.released then s.later [.broadcastApply core] else s
        | none => s)

/-- SOLO_GRANT: the reservation of a key goes to a chunk that starts with SQ = 4, where no other holds it (R247); a stopped workgroup's drill gets
none (R298). -/
def execSoloGrant (d : Nat) (s : State) : Host.Outcome State Fault Refusal :=
  match Map.find s.drills d with
  | none => .next s
  | some x =>
    if x.chunk.sq = 4 ∧ !x.chunk.solo ∧ x.chunk.units = 0 ∧ s.running x.wg ∧ !s.solos.any (fun o => o.key == x.asid || o.drill == d) then
      .next { s.setDrill d { x with chunk := { x.chunk with solo := true } } with
        solos := s.solos ++ [{ drill := d, key := x.asid, grains := [] }] }
    else .next s

/-- `fence.s` complete: every streaming line of the core invalidated (R172). -/
def State.fenceDone (s : State) (k : Nat) (d : Drill) : State :=
  (s.setDrill k d.opDone).dropStreaming (coreOf k) (fun _ => true)

/-- The acknowledgement of home and CSN awaited no more, by a drill or for a saved one. -/
def State.acknowledged (s : State) (home csn : Nat) : State :=
  let rest := fun (l : List (Nat × Nat)) => l.filter (fun p => p != (home, csn))
  { s with
    drills := s.drills.map (fun (c : Nat × Drill) => (c.1, { c.2 with pendingStreams := rest c.2.pendingStreams }))
    wgs := s.wgs.map (fun (w : Nat × Workgroup) =>
      (w.1, { w.2 with kept := w.2.kept.map (fun (x : Nat × Kept) => (x.1, { x.2 with streams := rest x.2.streams })) })) }

/-- STREAM_ACK: a home acknowledges the streaming stores of a commit that are visible there (R172, R256); fences whose drills
await no more are complete, and a `lnch` that waits goes on (R195). -/
def execStreamAck (home : Nat) (csn : Nat) (s : State) : Host.Outcome State Fault Refusal :=
  let held := s.commits.any (fun c => c.csn == csn && c.homes.any (fun h => h == home)) || (s.home home).dsb.any (fun e => e.csn == csn)
  let s := if held then s else s.acknowledged home csn
  .next (s.drills.foldl (fun s c =>
    match c.2.wait, c.2.chunk.after with
    | .fence, some .fenceS => if c.2.pendingStreams.isEmpty then s.fenceDone c.1 c.2 else s
    | .lnch, _ => if c.2.pendingStreams.isEmpty then s.later [.lnchAppend c.1] else s
    | _, _ => s) s)

/-- CHUNK_LIMIT_REACHED: the chunk ends after its LIMIT-th unit; an explicit one aborts with cause 1 where its drill would issue the unit after
that (R169, R239). A drill that sleeps sleeps on (R193). -/
def execChunkLimitReached (d : Nat) (s : State) : Host.Outcome State Fault Refusal :=
  match Map.find s.drills d with
  | none => .next s
  | some x =>
    if x.chunk.units < x.chunk.limit then .next s
    else match x.chunk.expl with
      | some e => .next (if x.wait = .none then s.abort d x e 1 0 else s)
      | none =>
        if x.older.isSome then .next (if x.wait = .none then s.awaitStamp d x else s)
        else .next ((s.endChunk d x x.chunk).updDrill d (fun y => { y with wait := x.wait }))

/-- Whether a drill has waited for the age cap (R237). -/
def Drill.aged (d : Drill) : Bool := decide (d.waited ≥ Config.ageCap)

/-- AGE_CAP: a drill ready and unissued for 4,096 clk goes first in its partition (R237), which issues next. -/
def execAgeCap (d : Nat) (s : State) : Host.Outcome State Fault Refusal :=
  .next (match Map.find s.drills d with
    | some x => if x.aged ∧ x.wait = .none then { s with turn := coreOf d * 4 + partOf d } else s
    | none => s)

/-- INSTRUCTION_COMPLETE: an instruction in flight releases the scoreboard; its results are those of program order (R201). -/
def execInstructionComplete (d : Nat) (s : State) : Host.Outcome State Fault Refusal :=
  .next (s.updDrill d (fun x => { x with inflight := x.inflight - 1 }))

end Sys2Proof.Machine
end

