-- ==== Sys2Proof/Machine/Barriers.lean ====
section
/-!
DEFINITION. Barriers (10_lanes_barriers_traps.md R186 to R188), trap and system instructions (R192 to R194), and the end of a drill
(R130, R278): majors 0x6C and 0x6D.
-/

namespace Sys2Proof.Machine

open Sys2Proof

/-! ### Barrier objects (R186, R187) -/

/-- A barrier object at placement. -/
def Barrier.reset : Barrier := { e := 0, a := 0, g := 0 }

/-- Whether `Complete` finds every expected arrival. -/
def Barrier.full (b : Barrier) : Bool := decide (b.e > 0) && popcount 16 b.a.toNat == b.e

/-- The object with a generation completed. -/
def Barrier.completed (b : Barrier) : Barrier := { b with a := 0, g := b.g + 1 }

/-- Bit i of a 16-bit mask. -/
def bit16 (i : Nat) : BitVec 16 := (1 : BitVec 16) <<< i

/-- Barrier n of a workgroup. -/
def Workgroup.barrier (w : Workgroup) (n : Nat) : Barrier := Map.get Barrier.reset w.barriers n

/-- A barrier object written. -/
def State.setBarrier (s : State) (wg n : Nat) (b : Barrier) : State :=
  { s with wgs := Map.update s.wgs wg (fun w => { w with barriers := Map.set w.barriers n b }) }

/-- The drills of a workgroup parked on a barrier test it again. -/
def parkedOn (s : State) (wg n : Nat) : List Instr :=
  (s.drills.filter (fun c => c.2.wg == wg && c.2.wait == .barrier n)).map (fun c => Instr.barrierOperation c.1)

/-- `Complete(b)`, the object as it then is written (R187). -/
def State.complete (s : State) (wg n : Nat) (b : Barrier) : State :=
  if b.full then (s.setBarrier wg n b.completed).later (parkedOn s wg n) else s.setBarrier wg n b

/-- The object as `bar.drp` by drill index i leaves it, before `Complete`. -/
def Barrier.dropped (b : Barrier) (i : Nat) : Barrier := { b with a := b.a &&& ~~~(bit16 i), e := b.e - 1 }

/-- `bar.drp` performed for a drill of a workgroup. -/
def State.dropBarrier (s : State) (wg i n : Nat) : State :=
  match Map.find s.wgs wg with
  | some w => s.complete wg n ((w.barrier n).dropped i)
  | none => s

/-! ### A drill's end (R130, R188, R278) -/

/-- The drill leaves: every barrier it is registered with dropped as one operation, its slot and registers free. The workgroup's
last drill leaves it draining, and keeps its slot and registers until the workgroup is gone (R278). -/
def State.endDrill (s : State) (k : Nat) (d : Drill) : State :=
  let s := ((upto 16).filter (fun n => d.reg.getLsbD n)).foldl (fun s n => s.dropBarrier d.wg d.index n) s
  match Map.find s.wgs d.wg with
  | none => { s with drills := Map.erase s.drills k }
  | some w =>
    if (Map.erase w.slots d.index).isEmpty then
      ({ s with wgs := Map.set s.wgs d.wg { w with state := .draining } }.setDrill k { d.opDone with reg := 0, wait := .exiting }).later
        [.workgroupExit d.wg]
    else
      ({ s with
        drills := Map.erase s.drills k
        wgs := Map.set s.wgs d.wg { w with slots := Map.erase w.slots d.index } }.wakeLog k).later [.placeWorkgroup]

/-! ### The instructions -/

/-- The argument traps of R187, found before the chunk ends. -/
def barrierTrap (s : State) (d : Drill) (n : Nat) (registered : Bool) : Option Trap :=
  if n ≥ (match s.wgOf d with | some w => w.nbar | none => 0) then some (Trap.plain 10 6)
  else if registered && !d.reg.getLsbD n then some (Trap.plain 10 7)
  else none

/-- A barrier instruction: the last unit of its chunk, its operation after the stamp. -/
def barrierUnit (i : Instr) (n : Nat) (registered : Bool) (s : State) : Host.Outcome State Fault Refusal :=
  asUnit i s (fun s d => match barrierTrap s d n registered with
    | some t => .trap t
    | none => .ends s d true)

/-- `bar.reg`. -/
def execBarReg (b : Nat) (s : State) : Host.Outcome State Fault Refusal := barrierUnit (.barReg b) b false s
/-- `bar.arv`. -/
def execBarArv (b : Nat) (s : State) : Host.Outcome State Fault Refusal := barrierUnit (.barArv b) b true s
/-- `bar.wt`. -/
def execBarWt (b : Nat) (s : State) : Host.Outcome State Fault Refusal := barrierUnit (.barWt b) b false s
/-- `bar.drp`. -/
def execBarDrp (b : Nat) (s : State) : Host.Outcome State Fault Refusal := barrierUnit (.barDrp b) b true s

/-- BARRIER_OPERATION: the registration, arrival, wait, drop or end that follows the stamp (R187, R188). -/
def execBarrierOperation (d : Nat) (s : State) : Host.Outcome State Fault Refusal :=
  .next (match Map.find s.drills d with
    | none => s
    | some x => match Map.find s.wgs x.wg with
      | none => s
      | some w =>
        match x.chunk.after with
        | some (.barReg n) =>
          if x.reg.getLsbD n then s.setDrill d x.opDone
          else (s.setBarrier x.wg n { w.barrier n with e := (w.barrier n).e + 1 }).setDrill d { x.opDone with reg := x.reg ||| bit16 n }
        | some (.barArv n) =>
          if (w.barrier n).a.getLsbD x.index then s.setDrill d { x with wait := .barrier n }
          else (s.setDrill d x.opDone).complete x.wg n { w.barrier n with a := (w.barrier n).a ||| bit16 x.index }
        | some (.barWt n) =>
          if (w.barrier n).a.getLsbD x.index then s.setDrill d { x with wait := .barrier n } else s.setDrill d x.opDone
        | some (.barDrp n) =>
          (s.setDrill d { x.opDone with reg := x.reg &&& ~~~(bit16 n) }).dropBarrier x.wg x.index n
        | some .exit => s.endDrill d x
        | _ => s)

/-! ### Trap and system instructions (R192 to R194) -/

/-- `trap n`. -/
def execTrap (n : Nat) (s : State) : Host.Outcome State Fault Refusal :=
  asUnit (.trap n) s (fun _ _ => .trap { Trap.plain 13 1 with code := n, past := true })

/-- `tret`. -/
def execTret (s : State) : Host.Outcome State Fault Refusal :=
  asUnit .tret s (fun s d => if d.regs.uni 63 = 0 then .trap (Trap.plain 10 5) else .done s d.trapReturn)

/-- `sleep` (R193). -/
def execSleep (a : Nat) (s : State) : Host.Outcome State Fault Refusal :=
  asUnit (.sleep a) s (fun s d =>
    let n := d.regs.uniN a % 2 ^ 32
    .done s (if n = 0 then d else { d with wait := .sleep (s.time + n) }))

/-- `fltq` (R194). -/
def execFltq (d : Nat) (s : State) : Host.Outcome State Fault Refusal :=
  asUnit (.fltq d) s (fun s x =>
    .done s (x.setUni d (match Map.find s.ctxs x.asid with | some c => c.faultCount % 2 ^ 64 | none => 0)))

/-- SLEEP_EXPIRY (R193). -/
def execSleepExpiry (d : Nat) (s : State) : Host.Outcome State Fault Refusal :=
  .next (match Map.find s.drills d with
    | some x => match x.wait with
      | .sleep ns =>
        if s.time < ns then s
        else s.setDrill d { x with wait := if x.chunk.units ≥ x.chunk.limit && x.older.isSome then .stamp else .none }
      | _ => s
    | none => s)

end Sys2Proof.Machine
end

