-- ==== Sys2Proof/Machine/Control.lean ====
section
/-!
DEFINITION. Control flow and special registers (07_integer_and_control.md R126 to R132, 02_drill_state.md R25 to R32): majors 0x32 to
0x38.
-/

namespace Sys2Proof.Machine

open Sys2Proof

/-! ### The divergence stack and its spill region (R26, R27) -/

/-- KIND's code. -/
def EntryKind.code : EntryKind → Nat
  | .reconverge => 0
  | .pending => 1
  | .callReturn => 2

/-- A stack entry's 32 bytes (R26). -/
def StackEntry.bytes (e : StackEntry) : List Byte :=
  toBytes 8 e.mask.toNat ++ toBytes 8 (e.kind.code * 2 ^ 16) ++ toBytes 8 e.pc.toNat ++ toBytes 8 0

/-- KIND of a code read back. A reserved code is read as a call return: DESIGN CHOICE (log 67), since no spill writes one. -/
def entryKind (n : Nat) : EntryKind := if n = 0 then .reconverge else if n = 1 then .pending else .callReturn

/-- The entry of 32 bytes read back from the spill region; reserved bytes are ignored (R26). -/
def StackEntry.ofBytes (bs : List Byte) : StackEntry :=
  { mask := BitVec.ofNat 64 (Machine.ofBytes (bs.take 8)), kind := entryKind (Machine.ofBytes ((bs.drop 8).take 8) / 2 ^ 16 % 4)
    pc := pcBits (BitVec.ofNat 64 (Machine.ofBytes ((bs.drop 16).take 8))) }

/-- The VA of a spilled entry (R27, R310). -/
def spillVa (d : Drill) (n : Nat) : Nat := d.priv + 2 ^ 30 + 32 * n

/-- What reaching a spilled entry comes to: its place, or why it cannot be reached now. -/
inductive Spill where
  | at (s : State) (x : Site)
  | stop (r : Res)

/-- The place of spilled entry n of a drill: its plot passes no check, but parks the drill where it migrates or its home is gated (R310,
R317, R379). -/
def State.spillSite (s : State) (k : Nat) (d : Drill) (n : Nat) : Spill :=
  let va := spillVa d n
  match s.plotFor (coreOf k) d.asid va with
  | .page p =>
    let r := s.nodeWait p
    .stop (.wait r.1 r.2)
  | .fatal p level => .stop (.dies { asid := d.asid, kind := 4, detail := level, page := p, attr := s.unitAttr k d, csn := 0 })
  | .bad => .stop (.trap { Trap.plain 9 1 with addr := va })
  | .desc x =>
    if descM x || (s.home (codeHome (locate x (keyOf d.asid va) va))).gated then .stop (.wait s .migrating)
    else .at (s.cachePlot (coreOf k) d.asid va x)
      { acc := { lane := 0, ea := va, n := 32 }, kind := .spill, desc := x, key := keyOf d.asid va, vas := (upto 32).map (fun j => va + j) }

/-- An entry pushed: the 4,097th is an overflow trap; the 33rd core-held one is first written to the spill region, as speculative
data that enters no signature (R26, R27, R110). -/
def pushEntry (s : State) (k : Nat) (d : Drill) (e : StackEntry) (go : State → Drill → Res) : Res :=
  if stackFull d then .trap (Trap.plain 11 1)
  else match (d.regs.stack[coreHeld - 1]? : Option StackEntry) with
    | none => go s (d.push e)
    | some old =>
      match s.spillSite k d d.regs.spilled with
      | .stop r => r
      | .at s site =>
        let c := d.chunk.store site (descPrio site.desc) s.unit.first 1 old.bytes
        let c := s.withRefs (coreOf k) { c with plots := addNats c.plots (plotTags [site]) } [site]
        go (s.trimLines k { d with chunk := c }) ({ d with chunk := c }.push e)

/-- What a pop comes to: the drill without its newest entry, or why it has to wait. -/
inductive Popped where
  | ok (s : State) (d : Drill)
  | stop (r : Res)

/-- The newest entry popped. Where that leaves the core fewer than 32 entries, the newest spilled one is read back, through its home like
any read of the drill's own memory (R26, R310). -/
def popStack (s : State) (k : Nat) (d : Drill) : Popped :=
  let d := d.pop
  if d.regs.spilled = 0 ∨ d.regs.stack.length ≥ coreHeld then .ok s d
  else
    match s.spillSite k d (d.regs.spilled - 1) with
    | .stop r => .stop r
    | .at s site =>
      match s.readsReady (s.unitAttr k d) (coreOf k) d.asid [site] with
      | .stop r => .stop r
      | .ok =>
        if s.siteBad (coreOf k) d site then .stop (.trap { Trap.plain 9 1 with addr := site.acc.ea })
        else
          let e := StackEntry.ofBytes (site.vas.map (s.siteByte (coreOf k) d site))
          let d := { d with chunk := { d.chunk with plots := addNats d.chunk.plots (plotTags [site]) }.readLines [site] descPrio }
          .ok (s.fillSites (coreOf k) Hints.empty [site]) (d.unspill e)

/-- The next pending path of the stack taken, what lies above it popped and dropped (DESIGN CHOICE, log 85); with none left the drill has reached its
end (R25). -/
def takePending : Nat → State → Nat → Drill → Res
  | 0, s, _, d => .exits s d
  | n + 1, s, k, d =>
    match d.regs.stack with
    | [] => .exits s d
    | e :: _ =>
      match popStack s k d with
      | .stop r => r
      | .ok s d => if e.kind = .pending ∧ e.mask ≠ 0 then .done s ((d.setEm e.mask).setPc e.pc) else takePending n s k d

/-- The newest entry popped and the drill at its PC with its mask; with no lane active it takes the next pending path, or has reached its
end (R25). -/
def resumeAt (s : State) (k : Nat) (d : Drill) (e : StackEntry) : Res :=
  match popStack s k d with
  | .stop r => r
  | .ok s d => if e.mask ≠ 0 then .done s ((d.setEm e.mask).setPc e.pc) else takePending d.regs.depth s k d

/-- The target of a format B instruction (R126). -/
def branchTarget (first : DWord) (o : Nat) : DWord := pcBits (first + BitVec.ofInt 64 (4 * signed 18 o))

/-! ### Transfers -/

/-- `bra` (R127): h is the hint, n the negation, p the predicate. -/
def execBra (h : Nat) (n : Nat) (p : Nat) (o : Nat) (s : State) : Host.Outcome State Fault Refusal :=
  asUnit (.bra h n p o) s (fun s d =>
    let em := d.regs.em
    let pn := if n = 1 then ~~~ d.regs.pred p else d.regs.pred p
    let t := em &&& pn
    let target := branchTarget s.unit.first o
    if t = em then .done s (d.setPc target)
    else if t = 0 then .done s d
    else
      let rest := em &&& ~~~ t
      let go := fun (first firstPc other otherPc : DWord) =>
        pushEntry s s.cur (if h = 3 then d.raise 0x20 else d) { kind := .pending, mask := other, pc := otherPc }
          (fun s d => .done s ((d.setEm first).setPc firstPc))
      if h = 2 then go rest s.unit.after t target else go t target rest s.unit.after)

/-- `rcv` (R128). -/
def execRcv (o : Nat) (s : State) : Host.Outcome State Fault Refusal :=
  asUnit (.rcv o) s (fun s d =>
    pushEntry s s.cur d { kind := .reconverge, mask := d.regs.em, pc := branchTarget s.unit.first o } .done)

/-- `join` (R128). -/
def execJoin (s : State) : Host.Outcome State Fault Refusal :=
  asUnit .join s (fun s d => match d.regs.stack with
    | e :: _ => if e.kind = .callReturn then .done s d else resumeAt s s.cur d e
    | [] => .done s d)

/-- `jmp label` (R129). -/
def execJmp (o : Nat) (s : State) : Host.Outcome State Fault Refusal :=
  asUnit (.jmp o) s (fun s d => .done s (d.setPc (branchTarget s.unit.first o)))

/-- `jmp sa` (R129). -/
def execJmpReg (a : Nat) (s : State) : Host.Outcome State Fault Refusal :=
  asUnit (.jmpReg a) s (fun s d => .done s (d.setPc (pcBits (d.regs.uni a))))

/-- `call` (R129). -/
def execCall (o : Nat) (s : State) : Host.Outcome State Fault Refusal :=
  asUnit (.call o) s (fun s d =>
    pushEntry s s.cur d { kind := .callReturn, mask := d.regs.em, pc := s.unit.after }
      (fun s d => .done s (d.setPc (branchTarget s.unit.first o))))

/-- `ret` (R129). -/
def execRet (s : State) : Host.Outcome State Fault Refusal :=
  asUnit .ret s (fun s d => match d.regs.stack with
    | e :: _ => if e.kind = .callReturn then resumeAt s s.cur d e else .trap (Trap.plain 12 1)
    | [] => .trap (Trap.plain 12 1))

/-- `exit` (R130): the drill's end follows its chunk's commit. -/
def execExit (s : State) : Host.Outcome State Fault Refusal :=
  asUnit .exit s (fun s d => .ends s d true)

/-- `nop` (R131). -/
def execNop (s : State) : Host.Outcome State Fault Refusal :=
  asUnit .nop s (fun s d => .done s d)

/-- `yield` (R131). -/
def execYield (s : State) : Host.Outcome State Fault Refusal :=
  asUnit .yield s (fun s d => .done s { d with yielded := true })

/-! ### Special registers (R28 to R32, R132) -/

/-- `sr.chunk` (R31). -/
def srChunk (c : Chunk) : Nat :=
  c.limit + c.sq * 2 ^ 13 + (if c.solo then 2 ^ 16 else 0) + (if c.expl.isSome then 2 ^ 17 else 0)

/-- The value of `sr.fault` for a drill: its own latest write, or the context's. -/
def State.srFault (s : State) (d : Drill) : DWord :=
  match d.chunk.fault, (match d.older with | some o => o.chunk.fault | none => none) with
  | some v, _ => v
  | none, some v => v
  | none, none => match Map.find s.ctxs d.asid with
    | some c => c.faultq
    | none => 0

/-- A special register as the drill in slot k reads it (R28). `sr.lane` is the lanes' own, and not read here. `sr.clock` counts from when the core
left reset, for a core of bring-up from module reset on: DESIGN CHOICE (log 78). -/
def State.srValue (s : State) (k : Nat) (d : Drill) (n : Nat) : Nat :=
  let w := (s.wgOf d).map (fun w => w.index)
  let r := (Map.find s.launches d.launch).map (fun l => l.record)
  let nx := match r with | some r => r.nx | none => 1
  let ny := match r with | some r => r.ny | none => 1
  let nz := match r with | some r => r.nz | none => 1
  let ix := w.getD 0
  match n with
  | 1 => d.index + ((match s.wgOf d with | some w => w.ndrills | none => 1) - 1) * 2 ^ 8 + k % 64 * 2 ^ 16
  | 2 => ix % nx
  | 3 => ix / nx % ny
  | 4 => ix / nx / ny
  | 5 => nx
  | 6 => ny
  | 7 => nz
  | 8 => d.launch
  | 9 => coreOf k
  | 10 => s.clock - (s.core (coreOf k)).epoch
  | 11 => s.time
  | 12 => d.csn
  | 13 => d.regs.status.toNat
  | 14 => d.regs.round.toNat
  | 15 => d.regs.seed.toNat
  | 16 => d.regs.trapvec.toNat
  | 17 => srChunk d.chunk
  | 18 => (s.srFault d).toNat
  | _ => 0

/-- `sr.csn` names the chunk before the running one: it is read once that chunk is stamped (R32). -/
def srWaits (d : Drill) (n : Nat) : Bool := n == 12 && d.older.isSome

/-- `rdsr` into a uniform register (R132). -/
def execRdsr (d : Nat) (n : Nat) (s : State) : Host.Outcome State Fault Refusal :=
  asUnit (.rdsr d n) s (fun s x => if srWaits x n then .wait s .stamp else .done s (x.setUni d (s.srValue s.cur x n)))

/-- `rdsr` into a vector register: each lane its own `sr.lane`, or the low 32 bits (R28, R132). -/
def execRdsrV (d : Nat) (n : Nat) (s : State) : Host.Outcome State Fault Refusal :=
  asUnit (.rdsrV d n) s (fun s x =>
    if srWaits x n then .wait s .stamp
    else .done s (x.setVec d (written x.regs s.unit.hints) (fun l => if n = 0 then l else s.srValue s.cur x n)))

/-- The registers with a special register written (R28 to R30). -/
def Drill.setSr (d : Drill) (n : Nat) (x : DWord) : Drill :=
  match n with
  | 13 => ({ d with regs := { d.regs with status := x &&& statusMask } }).note .status
  | 14 => ({ d with regs := { d.regs with round := BitVec.ofNat 64 (x.toNat % 8) } }).note .round
  | 15 => ({ d with regs := { d.regs with seed := x } }).note .seed
  | 16 => ({ d with regs := { d.regs with trapvec := pcBits x } }).note .trapvec
  | 18 => ({ d with chunk := { d.chunk with fault := some x } }).note .fault
  | _ => d

/-- `wrsr` (R132). -/
def execWrsr (n : Nat) (a : Nat) (s : State) : Host.Outcome State Fault Refusal :=
  asUnit (.wrsr n a) s (fun s d =>
    if n = 14 ∧ d.regs.uniN a % 8 ≥ 6 then .trap (Trap.plain 10 1)
    else .done s (d.setSr n (d.regs.uni a)))

end Sys2Proof.Machine
end

