-- ==== Sys2Proof/Machine/Memory.lean ====
section
/-!
DEFINITION. Memory, atomic, chunk and fence instructions (09_memory_instructions.md): majors 0x58 to 0x61, and the events that
complete them.
-/

namespace Sys2Proof.Machine

open Sys2Proof

/-! ### Address formation (R152) -/

/-- EA of a lane. -/
def eaOf (r : Regs) (h : Hints) (base v c l : Nat) : Nat :=
  let index := if v = 0 ∧ c = 0 then 0 else r.vecN v l
  wrap 64 ((r.uniN base : Int) + index * 2 ^ c + h.offset.getD 0)

/-- The accesses of the written lanes. -/
def laneAccs (r : Regs) (h : Hints) (base v c n : Nat) : List Acc :=
  (written r h).map (fun l => { lane := l, ea := eaOf r h base v c l, n := n })

/-- Bytes of an op code of `ld`, `ldu`, `st` (R157). -/
def widthOf (o : Nat) : Nat := if o < 2 then 1 else if o < 4 then 2 else if o = 4 then 4 else if o = 5 then 8 else 16

/-- The value loaded, extended to w bits (R157). -/
def loaded (o w x : Nat) : Nat := if o = 1 then extend true 8 w x else if o = 3 then extend true 16 w x else x

/-- A trap of a unit that accesses memory once for the drill reports no lane (R190). -/
def Res.once : Res → Res
  | .trap t => .trap { t with lane := none }
  | r => r

/-- Values by lane. -/
def laneVal (l : List (Nat × Nat)) (k : Nat) : Nat := Map.get 0 l k

/-- A quad, pair or register written in lanes. -/
def Drill.setSized (d : Drill) (n dst : Nat) (ls : List Nat) (f : Nat → Nat) : Drill :=
  if n = 16 then (((d.setVec dst ls f).setVec (dst + 1) ls (fun l => f l / 2 ^ 32)).setVec (dst + 2) ls (fun l => f l / 2 ^ 64)).setVec
    (dst + 3) ls (fun l => f l / 2 ^ 96)
  else d.setWide (n == 8) dst ls f

/-- The data of a lane of a register, pair or quad. -/
def Regs.sized (r : Regs) (n src l : Nat) : Nat :=
  if n = 16 then r.pair src l + 2 ^ 64 * r.pair (src + 2) l else if n = 8 then r.pair src l else r.vecN src l % 2 ^ (8 * n)

/-- An instruction that reaches memory: it may be a chunk of its own (R163). -/
def memUnit (i : Instr) (s : State) (body : Nat → Hints → State → Drill → Res) : Host.Outcome State Fault Refusal :=
  asUnitWith State.commitOwn i s (body s.cur s.unit.hints)

/-! ### Loads and stores -/

/-- `ld` (R157, R158). -/
def execLd (o : Nat) (d : Nat) (base : Nat) (v : Nat) (c : Nat) (s : State) : Host.Outcome State Fault Refusal :=
  memUnit (.ld o d base v c) s (fun k h s x =>
    s.access k x .read true h (laneAccs x.regs h base v c (widthOf o)) (fun s x sites =>
      let vals := sites.map (fun y => (y.acc.lane, loaded o 32 (s.siteNat (coreOf k) x y)))
      (s, x.setSized (widthOf o) d (vals.map (fun y => y.1)) (laneVal vals))))

/-- `ldu`: once for the drill, ignoring `em` (R157, R158). -/
def execLdu (o : Nat) (d : Nat) (base : Nat) (s : State) : Host.Outcome State Fault Refusal :=
  memUnit (.ldu o d base) s (fun k h s x =>
    (s.access k x .read false h [{ lane := 0, ea := eaOf x.regs h base 0 0 0, n := widthOf o }] (fun s x sites =>
      let y := loaded o 64 (match sites with | y :: _ => s.siteNat (coreOf k) x y | [] => 0)
      (s, if o = 6 then (x.setUni d y).setUni (d + 1) (y / 2 ^ 64) else x.setUni d y))).once)

/-- Stores of sites in lane order. -/
def storeSites (h : Hints) (pc : DWord) (kind : Nat) (bytes : Site → List Byte) (c : Chunk) (sites : List Site) : Chunk :=
  sites.foldl (fun c y => c.store y (accPrio h y.desc) pc kind (bytes y)) c

/-- `st` (R157, R159). -/
def execSt (o : Nat) (d : Nat) (base : Nat) (v : Nat) (c : Nat) (s : State) : Host.Outcome State Fault Refusal :=
  memUnit (.st o d base v c) s (fun k h s x =>
    s.access k x .store true h (laneAccs x.regs h base v c (widthOf o)) (fun s' x sites =>
      let ch := storeSites h s.unit.first 1 (fun y => toBytes (widthOf o) (x.regs.sized (widthOf o) d y.acc.lane)) x.chunk sites
      (s'.trimLines k { x with chunk := ch }, { x with chunk := ch })))

/-! ### Atomics and far reductions -/

/-- The lanes of an `atom`, in ascending order: each reads the committed value or what lower lanes wrote, and writes (R158, R165). The uncached ones are carried to
their homes. -/
def atomSites (s : State) (k : Nat) (h : Hints) (pc : DWord) (op dst : Nat) (wide : Bool) (v vn : Nat → Nat) :
    List Site → Drill → List (Nat × Nat) → Drill × List (Nat × Nat)
  | [], d, out => (d, out)
  | y :: rest, d, out =>
    let l := y.acc.lane
    if y.kind = .uncached then
      let a : AtomOp := { drill := k, reg := dst, lane := l, addr := y.code (y.vas.headD 0), op := op, wide := wide, v := v l, vn := vn l }
      let c := (d.chunk.addGrains y (accPrio h y.desc)).addPcs y pc 3
      atomSites s k h pc op dst wide v vn rest { d with chunk := { c with atoms := c.atoms ++ [a] } } out
    else
      let old := s.siteNat (coreOf k) d (y.reader .atom)
      let n := if wide then 8 else 4
      let c := d.chunk.store y (accPrio h y.desc) pc 3 (toBytes n (atomValue op (8 * n) old (v l) (vn l)))
      atomSites s k h pc op dst wide v vn rest { d with chunk := c } (out ++ [(l, old)])

/-- An `atom` of a width: operand and result vd, the value to write vn for `cas` (R165). The log holds vd also where its homes deliver the old values (R33). -/
def atomBody (op dst x : Nat) (wide : Bool) (base v c k : Nat) (h : Hints) (s : State) (d : Drill) : Res :=
  let get := fun (n l : Nat) => if wide then d.regs.pair n l else d.regs.vecN n l
  s.access k d .atom false h (laneAccs d.regs h base v c (if wide then 8 else 4)) (fun s' d sites =>
    let r := atomSites s' k h s.unit.first op dst wide (get dst) (get x) sites d []
    let d := if sites.any (fun y => y.kind == .uncached) then r.1.noteWide wide dst else r.1
    (s'.trimLines k r.1, d.setWide wide dst (r.2.map (fun y => y.1)) (laneVal r.2)))

/-- `atom` on 32 bits (R165). -/
def execAtom (o : Nat) (d : Nat) (base : Nat) (v : Nat) (c : Nat) (s : State) : Host.Outcome State Fault Refusal :=
  memUnit (.atom o d base v c) s (fun k h => atomBody o d 0 false base v c k h)

/-- `atom.cas` on 32 bits: the value written is the OPC register's (R165). -/
def execAtomCas (d : Nat) (base : Nat) (v : Nat) (c : Nat) (s : State) : Host.Outcome State Fault Refusal :=
  memUnit (.atomCas d base v c) s (fun k h => atomBody 7 d (opcReg h) false base v c k h)

/-- `atom` on pairs (R165). -/
def execAtom64 (o : Nat) (d : Nat) (base : Nat) (v : Nat) (c : Nat) (s : State) : Host.Outcome State Fault Refusal :=
  memUnit (.atom64 o d base v c) s (fun k h => atomBody o d 0 true base v c k h)

/-- `atom.cas` on pairs (R165). -/
def execAtom64Cas (d : Nat) (base : Nat) (v : Nat) (c : Nat) (s : State) : Host.Outcome State Fault Refusal :=
  memUnit (.atom64Cas d base v c) s (fun k h => atomBody 7 d (opcReg h) true base v c k h)

/-- `red` (R166). -/
def execRed (o : Nat) (d : Nat) (base : Nat) (v : Nat) (c : Nat) (s : State) : Host.Outcome State Fault Refusal :=
  memUnit (.red o d base v c) s (fun k h s x =>
    s.access k x .red false h (laneAccs x.regs h base v c (redBytes o)) (fun s' x sites =>
      (s', { x with chunk := sites.foldl (fun ch y =>
        ch.reduce y (accPrio h y.desc) s.unit.first o (x.regs.sized (redBytes o) d y.acc.lane)) x.chunk })))

/-! ### Prefetch (R167, R249) -/

/-- The fill a lane's prefetch asks for, unless the lane is dropped: as one in a plot with M set is, since a `pf` waits for nothing, and one
whose plot-table look-up meets a fatal walk, which kills no context as a fatal walk of the lane's own page does (DESIGN CHOICE, log 68). -/
def prefetchLane (k : Nat) (d : Drill) (h : Hints) (memSide : Bool) (s : State) (a : Acc) : State × Drill :=
  if !isGlobal a.ea then (s, d)
  else match s.plotFor (coreOf k) d.asid a.ea with
    | .desc x =>
      let key := keyOf d.asid a.ea
      let b := a.ea / grainSize x * grainSize x
      if !descValid x || !descR x || (descS x && !s.supOf d.asid) || descTreat x == 2 || descM x then (s, d)
      else
        let f : Fill := { core := coreOf k, asid := d.asid, key := key, va := b, desc := x, prio := accPrio h x, memSide := memSide
                          served := false, stale := false, mig := false, attr := s.unitAttr k d
                          map := GMap.identity, data := [] }
        let site : Site := { acc := a, kind := if descTreat x = 0 then .tracked else .streaming, desc := x, key := key, vas := [a.ea] }
        let d := if lastUseHint h then { d with chunk := d.chunk.lastUsed [site] } else d
        ({ s.cachePlot (coreOf k) d.asid a.ea x with fills := Map.set s.fills s.nextId f, nextId := s.nextId + 1 }.later
          [.homeFillRequest s.nextId], d)
    | _ => (s, d)

/-- A prefetch's lanes. -/
def prefetchBody (memSide : Bool) (base v c k : Nat) (h : Hints) (s : State) (d : Drill) : Res :=
  let r := (laneAccs d.regs h base v c 1).foldl (fun r a => prefetchLane k r.2 h memSide r.1 a) (s, d)
  .done r.1 r.2

/-- `pf.L1` (R167). -/
def execPfL1 (base : Nat) (v : Nat) (c : Nat) (s : State) : Host.Outcome State Fault Refusal :=
  memUnit (.pfL1 base v c) s (fun k h => prefetchBody false base v c k h)

/-- `pf.mc` (R167). -/
def execPfMc (base : Nat) (v : Nat) (c : Nat) (s : State) : Host.Outcome State Fault Refusal :=
  memUnit (.pfMc base v c) s (fun k h => prefetchBody true base v c k h)

/-- A prefetch's fill dropped. -/
def State.dropFill (s : State) (n : Nat) : State := { s with fills := Map.erase s.fills n }

/-- A home serves a prefetch's fill, once it has applied what touches the grain, a write that waits on MIG included (R244, R313); a page that is not
resident, or a check code that fails, drops it (R167, R363). A gated home serves it once it is restored (R379). -/
def State.serveFill (s : State) (n : Nat) (f : Fill) : State :=
  let a := locate f.desc f.key f.va
  if s.pendingAt a (grainSize f.desc) then
    (if s.homeHeld (codeHome a) then { s with fills := Map.set s.fills n { f with mig := true } }
     else s.later [.homeApplyCommit (codeHome a), .homeFillRequest n])
  else if (s.home (codeHome a)).gated then { s with fills := Map.set s.fills n { f with mig := true } }
  else match s.fillWalk a (grainSize f.desc) with
    | .fatal level => (s.dropFill n).die { asid := f.asid, kind := 4, detail := level, page := a, attr := f.attr, csn := 0 }
    | .migrating => { s with fills := Map.set s.fills n { f with mig := true } }
    | .page res _ _ =>
      if !res || s.deferredAt a (grainSize f.desc) || s.dataError f.desc a (grainSize f.desc) then s.dropFill n
      else
        let data := s.view f.desc a
        let map := (s.headerAt a).map
        let s := s.touch a (grainSize f.desc) f.prio
        if f.memSide then s.dropFill n
        else { s with fills := Map.set s.fills n { f with served := true, data := data, map := map } }.later [.fillReturn n]

/-- HOME_FILL_REQUEST (R313). -/
def execHomeFillRequest (fill : Nat) (s : State) : Host.Outcome State Fault Refusal :=
  .next (match Map.find s.fills fill with
    | some f => if f.served || f.mig then s else s.serveFill fill f
    | none => s)

/-- WALK_RESTART: a walk that met MIG, or a gated home, starts again at level 1 once MIG is clear and the home restored (R313, R379). -/
def execWalkRestart (fill : Nat) (s : State) : Host.Outcome State Fault Refusal :=
  .next (match Map.find s.fills fill with
    | some f =>
      if f.mig && s.walk (locate f.desc f.key f.va) != .migrating then s.serveFill fill { f with mig := false } else s
    | none => s)

/-- FILL_RETURN: the fill arrives, and installs unless a broadcast has made it stale (R249). -/
def execFillReturn (fill : Nat) (s : State) : Host.Outcome State Fault Refusal :=
  .next (match Map.find s.fills fill with
    | some f =>
      if !f.served then s
      else
        let s := s.dropFill fill
        if f.stale then s else s.installBytes f.core f.desc f.key f.va f.prio f.map f.data
    | none => s)

/-! ### Explicit chunks and fences -/

/-- `chk.beg` (R168). -/
def execChkBeg (o : Nat) (s : State) : Host.Outcome State Fault Refusal :=
  asUnit (.chkBeg o) s (fun s d => .ends s d false)

/-- `chk.end` (R168). -/
def execChkEnd (s : State) : Host.Outcome State Fault Refusal :=
  asUnit .chkEnd s (fun s d => .ends s d false)

/-- `chk.abt`: cause 6 in an explicit chunk, an argument trap outside one (R170). -/
def execChkAbt (c : Nat) (s : State) : Host.Outcome State Fault Refusal :=
  asUnit (.chkAbt c) s (fun _ d => match d.chunk.expl with
    | some e => .abort e c
    | none => .trap (Trap.plain 10 3))

/-- `fence.s` (R172). -/
def execFenceS (s : State) : Host.Outcome State Fault Refusal :=
  asUnit .fenceS s (fun s d => .ends s d true)

/-- `fence.x`: it waits for its chunk's stamp, which discards the words the drill has fetched (R173). -/
def execFenceX (s : State) : Host.Outcome State Fault Refusal :=
  asUnit .fenceX s (fun s d => .ends s d true)

/-! ### Range instructions (R174, R175) -/

/-- The parts of a range, plot by plot: first address and bytes. -/
def rangeParts (va n : Nat) : List (Nat × Nat) :=
  if n = 0 then []
  else (upto ((va + n - 1) / 65536 + 1 - va / 65536)).map (fun k =>
    let a := if k = 0 then va else (va / 65536 + k) * 65536
    (a, min (va + n) ((va / 65536 + k + 1) * 65536) - a))

/-- What checking a global range comes to. -/
inductive Ranged where
  /-- the parts with their descriptors, and the address whose plot-table node fails its check code -/
  | ok (s : State) (parts : List (Nat × Nat × DWord)) (bad : Option Nat)
  | stop (r : Res)

/-- A trap with an address and no lane. -/
def addrTrapAt (kind detail a : Nat) : Trap := { Trap.plain kind detail with addr := a }

/-- The first check of R155 a descriptor fails for a range. -/
def descDetail (sup rd wr : Bool) (x : DWord) : Option Nat :=
  if !descValid x then some 1
  else if rd && !descR x then some 2
  else if wr && !descW x then some 3
  else if descS x && !sup then some 4
  else none

/-- The plots of a range checked in ascending order: the lowest failing address is reported. A plot-table node that fails its check code
comes after every plot failure and range lock (R156); `w` attributes the walks. -/
def checkParts (w : Attr) (core asid : Nat) (sup rd wr : Bool) : List (Nat × Nat) → State → List (Nat × Nat × DWord) → Option Nat → Ranged
  | [], s, out, bad => .ok s out.reverse bad
  | (a, n) :: rest, s, out, bad =>
    match s.plotFor core asid a with
    | .desc x =>
      match descDetail sup rd wr x with
      | some m => .stop (.trap (addrTrapAt 7 m a))
      | none => checkParts w core asid sup rd wr rest (s.cachePlot core asid a x) ((a, n, x) :: out) bad
    | .page p =>
      let r := s.nodeWait p
      .stop (.wait r.1 r.2)
    | .fatal p level => .stop (.dies { asid := asid, kind := 4, detail := level, page := p, attr := w, csn := 0 })
    | .bad => checkParts w core asid sup rd wr rest s out (some (bad.getD a))

/-- The window checks of a range that must be global. A range that passes 2^48 is reported by its first address: DESIGN CHOICE (log 69). -/
def windowTrap (a n : Nat) : Option Trap :=
  if !(isGlobal a || isScratch a || isPriv a) then some (addrTrapAt 6 1 a)
  else if strayBits a then some (addrTrapAt 6 2 a)
  else if !isGlobal a then some (addrTrapAt 6 5 a)
  else if a + n > 2 ^ 48 then some (addrTrapAt 6 7 a)
  else none

/-- The lowest address of a range that meets a range-lock entry. -/
def State.lockedAt (s : State) (core asid va n : Nat) (writes : Bool) : Option Nat :=
  let hits := ((s.core core).locks.filter (fun l =>
    (l.key == asid || l.key == 0) && overlap l.base l.len va n && (l.dest || writes)
      && keyOf asid (max va l.base) == l.key)).map (fun l => max va l.base)
  match hits with
  | [] => none
  | h :: t => some (t.foldl min h)

/-- The checks of a range instruction (R174). -/
def State.checkRange (s : State) (k : Nat) (d : Drill) (va n : Nat) (wr : Bool) : Ranged :=
  if n = 0 then .ok s [] none
  else match windowTrap va n with
    | some t => .stop (.trap t)
    | none => match checkParts (s.unitAttr k d) (coreOf k) d.asid (s.supOf d.asid) (!wr) wr (rangeParts va n) s [] none with
      | .stop r => .stop r
      | .ok s parts bad => match s.lockedAt (coreOf k) d.asid va n wr, bad with
        | some a, _ => .stop (.trap (addrTrapAt 8 1 a))
        | none, some a => .stop (.trap (addrTrapAt 9 1 a))
        | none, none => .ok s parts none

/-- `flr` (R175): the write-backs follow the stamp. -/
def execFlr (a : Nat) (b : Nat) (s : State) : Host.Outcome State Fault Refusal :=
  asUnit (.flr a b) s (fun s' d => match s'.checkRange s.cur d (d.regs.uniN a) (d.regs.uniN b) false with
    | .stop r => r
    | .ok s' _ _ => .ends s' d true)

/-- FLR_WRITE_BACK_DONE: every line of the range that is newer in a memory-side cache written back; the drill goes on (R175). -/
def execFlrWriteBackDone (d : Nat) (s : State) : Host.Outcome State Fault Refusal :=
  .next (match Map.find s.drills d with
    | some x => match x.wait with
      | .flr va len =>
        if s.commits.any (fun c => !c.homes.isEmpty) then
          s.later ((upto 8).map Instr.homeApplyCommit ++ (if (upto 8).all (fun h => (s.nextAt h).isNone || s.homeHeld h) then [] else [.flrWriteBackDone d]))
        else (s.writeBack (lineInRange x.asid va len)).setDrill d x.opDone
      | _ => s
    | none => s)

/-- `ivr`: the clean lines of the range invalidated, and the fills under way that would bring older ones (R175, R255). -/
def execIvr (a : Nat) (b : Nat) (s : State) : Host.Outcome State Fault Refusal :=
  asUnit (.ivr a b) s (fun s' d =>
    let va := d.regs.uniN a
    let n := d.regs.uniN b
    match s'.checkRange s.cur d va n false with
    | .stop r => r
    | .ok s' _ _ =>
      let core := coreOf s.cur
      .done ((s'.setCore core ((s'.core core).dropClean (fun x => x.key == keyOf d.asid x.va && overlap x.va 128 va n))).staleFills core
        (fun f => f.key == keyOf d.asid f.va && overlap f.va (grainSize f.desc) va n)) d)

/-- The grains of a part of a range. -/
def partKeys (asid : Nat) (p : Nat × Nat × DWord) : List DWord :=
  (upto ((p.1 + p.2.1 - 1) / grainSize p.2.2 + 1 - p.1 / grainSize p.2.2)).map (fun k =>
    grainKey (keyOf asid p.1) (p.1 + k * grainSize p.2.2) (grainBits p.2.2))

/-- `drop` (R175): a chunk by itself. A misaligned range is found after the memory traps. -/
def execDrop (a : Nat) (b : Nat) (s : State) : Host.Outcome State Fault Refusal :=
  memUnit (.drop a b) s (fun k _ s d =>
    let va := d.regs.uniN a
    let n := d.regs.uniN b
    match s.checkRange k d va n true with
    | .stop r => r
    | .ok s parts _ =>
      if va % 512 ≠ 0 ∨ n % 512 ≠ 0 then .trap (Trap.plain 10 4)
      else if d.chunk.units > 0 then .before 4
      else if s.horizon (coreOf k) < s.nextCsn - 1 then .wait (s.later [.broadcastApply (coreOf k)]) .order
      else
        let keys := parts.flatMap (partKeys d.asid)
        let w := keys.foldl Sig.enter d.chunk.wsig
        if s.heldBySolo k d.asid w then .wait s .order
        else .own s { d with chunk := { d.chunk with
          wsig := w, wglob := keys.foldl Sig.enter d.chunk.wglob
          drops := parts.map (fun p => (keyOf d.asid p.1, p.1, p.2.1)) } })

/-! ### Scratchpad size (R176 to R178) -/

/-- `scr.grow`: the request follows the stamp (R176). -/
def execScrGrow (d : Nat) (a : Nat) (s : State) : Host.Outcome State Fault Refusal :=
  asUnit (.scrGrow d a) s (fun s x => .ends s x true)

/-- `scr.shrk`: likewise (R177). -/
def execScrShrk (d : Nat) (a : Nat) (s : State) : Host.Outcome State Fault Refusal :=
  asUnit (.scrShrk d a) s (fun s x => .ends s x true)

/-- Whether each set has ways for new pinned lines that no drill's speculative lines hold (R176). -/
def State.waysFor (s : State) (core b lo hi : Nat) : Bool :=
  (upto Config.l1Sets).all (fun set =>
    linesToSet b lo hi set == 0 || decide (s.pinned core set + s.specIn core set + linesToSet b lo hi set ≤ Config.l1Ways))

/-- Clean lines give way to pinned ones. -/
def State.trimAll (s : State) (core : Nat) : State :=
  (upto Config.l1Sets).foldl (fun s set => s.makeRoom 32 core set Config.l1Ways) s

/-- Whether no set of a core holds more pinned and speculative lines than it has ways (R176). -/
def State.waysHeld (s : State) (core : Nat) : Bool :=
  (upto Config.l1Sets).all (fun set => decide (s.pinned core set + s.specIn core set ≤ Config.l1Ways))

/-- The pending `scr.grow` or `scr.shrk` of a drill, if it can be carried out now: lines granted at the stamp are pinned once no speculative
line stands in their ways; lines are removed once no command targets them. -/
def State.resizeFor (s : State) (k : Nat) (x : Drill) : State :=
  match Map.find s.wgs x.wg with
  | none => s
  | some w =>
    let finish := fun (s : State) (d size : Nat) => s.setDrill k ((x.opWrite d (128 * size)).opDone)
    match x.wait with
    | .grow d lines => if s.waysHeld w.core then finish (s.trimAll w.core) d lines else s
    | .shrink d bytes =>
      let lo := w.size - bytes / 128
      if s.cmds.any (fun c => c.2.wg == x.wg && c.2.targets.any (fun q => decide (q ≥ 4 * lo))) then s
      else (finish { s with wgs := Map.set s.wgs x.wg (w.resize lo) } d lo).wakeWays w.core
    | _ => s

/-- SCR_GROW_COMPLETE: the conversion, once its ways can be had, or the shrink once no command targets the lines; the drill goes
on with the new size in its register (R176, R177). -/
def execScrGrowComplete (d : Nat) (s : State) : Host.Outcome State Fault Refusal :=
  .next (match Map.find s.drills d with
    | some x => s.resizeFor d x
    | none => s)

/-- `scr.wait` (R178). Its range's first address is reported, or the first byte of the lowest absent sector. -/
def execScrWait (a : Nat) (b : Nat) (s : State) : Host.Outcome State Fault Refusal :=
  asUnit (.scrWait a b) s (fun s d =>
    let ea := d.regs.uniN a
    let n := d.regs.uniN b
    if n = 0 then .done s d
    else if !(isGlobal ea || isScratch ea || isPriv ea) then .trap (addrTrapAt 6 1 ea)
    else if isScratch ea && strayBits ea then .trap (addrTrapAt 6 2 ea)
    else if !isScratch ea then .trap (addrTrapAt 6 5 ea)
    else if scrOff ea + n > s.scratchSize d then .trap (addrTrapAt 6 3 ea)
    else
      let absent := (sectorsOf (scrOff ea) n).filter (fun q => !s.present d q)
      match absent.find? (fun q => !s.targeted d.wg q) with
      | some q => .trap (addrTrapAt 6 6 (ea - scrOff ea + max (scrOff ea) (32 * q)))
      | none => if absent.isEmpty then .done s d else .wait s .sector)

/-! ### Plot probe (R179) -/

/-- `plp` (R179). -/
def execPlp (d : Nat) (a : Nat) (s : State) : Host.Outcome State Fault Refusal :=
  asUnit (.plp d a) s (fun s' x =>
    let ea := x.regs.uniN a
    if !isGlobal ea then .done s' (x.setUni d 0)
    else match s'.plotFor (coreOf s.cur) x.asid ea with
      | .desc y => .done (s'.cachePlot (coreOf s.cur) x.asid ea y) (x.setUni d y.toNat)
      | .page p =>
        let r := s'.nodeWait p
        .wait r.1 r.2
      | .fatal p level => .dies { asid := x.asid, kind := 4, detail := level, page := p, attr := s'.unitAttr s.cur x, csn := 0 }
      | .bad => .done s' (x.setUni d 0))

end Sys2Proof.Machine
end

