-- ==== Sys2Proof/Machine/Engine.lean ====
section
/-!
DEFINITION. Engines (12_glaze_and_engine_commands.md R217 to R233): a command's ranges, its checks, what it reads and writes, its
hand-over, its landings, its engine chunk and its failure.
-/

namespace Sys2Proof.Machine

open Sys2Proof

/-! ### A command's ranges (R217, R219) -/

/-- A memory range a command names: its alignment and that of its length, whether a scratchpad address is accepted, the permissions
needed, and whether its range-lock entry is of kind destination. -/
structure CmdRange where
  va : Nat
  n : Nat
  align : Nat
  lenAlign : Nat
  scr : Bool
  rd : Bool
  wr : Bool
  dest : Bool
  deriving DecidableEq, Repr

/-- A source range of 32-bit words. -/
def srcRange (va n : Nat) : CmdRange := { va := va, n := n, align := 4, lenAlign := 1, scr := true, rd := true, wr := false, dest := false }

/-- A destination range in global memory. -/
def destRange (va n align : Nat) : CmdRange :=
  { va := va, n := n, align := align, lenAlign := 1, scr := false, rd := false, wr := true, dest := true }

/-- Alignment of a range that may lie in scratchpad: 32 there, else 4 (R228). DEDUCED (log 13) for `eng.gth`, whose landings too are
whole sectors (R272), and for the word-wise ranges of R230 whose alignment no rule states: the table, and rows in global memory. -/
def scrAlign (scr : Bool) : Nat := if scr then 32 else 4

/-- A range absent where its address is zero. -/
def unlessZero (r : CmdRange) : List CmdRange := if r.va = 0 then [] else [r]

/-- A command's ranges in the order of their words; `tile` is the tile size, `p` the rank count, w the run. DEDUCED (log 13): what an
engine chunk writes lies in global memory, so only `eng.cpy` and `eng.gth`, and `glz.rdh`, whose image has a generic address (R225), accept a scratchpad
destination (R220, R272). -/
def cmdRanges (tile p major op flags : Nat) (w : Nat → Nat) : List CmdRange :=
  let lo := fun k => w k % 2 ^ 32
  let hi := fun k => w k / 2 ^ 32
  let policy := flags / 2 % 4
  if major = 0x78 then
    if op = 7 then
      [{ srcRange (w 1) (w 2) with align := 1, scr := false }, { destRange (w 3) (32 * (w 2 / tile)) 32 with scr := true }]
    else [{ destRange (w 1) (w 2) 1 with rd := true }]
  else match op with
  | 0 =>
    let a := scrAlign (isScratch (w 1) || isScratch (w 2))
    [{ srcRange (w 1) (w 3) with align := a, lenAlign := a }, { destRange (w 2) (w 3) a with lenAlign := a, scr := true }]
  | 1 =>
    let a := scrAlign (isScratch (w 5))
    [srcRange (w 1) (4 * lo 2), srcRange (w 3) (lo 4 * hi 4),
     { destRange (w 5) (lo 2 * hi 4) a with lenAlign := if isScratch (w 5) then 32 else 1, scr := true }]
      ++ (if policy = 1 then [srcRange (w 6) (hi 4)] else []) ++ unlessZero (destRange (w 7) 4 4)
  | 2 =>
    [srcRange (w 1) (4 * lo 2), srcRange (w 3) (lo 4 * hi 4), srcRange (w 5) (4 * hi 2)] ++ unlessZero (srcRange (w 6) (4 * lo 2))
      ++ [destRange (w 7) (hi 2 * hi 4) 4] ++ (if policy = 1 then [srcRange (w 8) (hi 4)] else []) ++ unlessZero (destRange (w 9) 4 4)
  | 3 =>
    [srcRange (w 1) (4 * lo 2), destRange (w 3) (lo 4 * hi 4) 4, srcRange (w 5) (lo 2 * hi 4)] ++ unlessZero (destRange (w 6) 4 4)
  | _ =>
    let n := w 3
    let kind := flags / 2 % 4
    [{ srcRange (w 1) (4 * n) with scr := false },
     destRange (w 2) (4 * (if kind = 1 then n / p else if kind = 2 then n * p else n)) 4]

/-- The length of a command: with none, it takes no CSN unless it writes a count (R220). -/
def cmdLength (major op : Nat) (w : Nat → Nat) : Nat :=
  if major = 0x78 then w 2 else if op = 0 ∨ op = 4 then w 3 else if op = 2 then 1 else w 2 % 2 ^ 32

/-- Whether a scratchpad range touches an absent sector that no copy in flight targets: its lowest such byte. -/
def State.absentAt (s : State) (d : Drill) (va n : Nat) : Option Nat :=
  ((sectorsOf (scrOff va) n).find? (fun q => !s.present d q && !s.targeted d.wg q)).map (fun q => va - scrOff va + max (scrOff va) (32 * q))

/-- Order 1 of R156 for a command's range: the first row it meets, with the lowest failing address (R217). -/
def State.cmdAddrTrap (s : State) (d : Drill) (r : CmdRange) : Option Trap :=
  let size := s.scratchSize d
  if !(isGlobal r.va || isScratch r.va || isPriv r.va) then some (addrTrapAt 6 1 r.va)
  else if strayBits r.va then some (addrTrapAt 6 2 r.va)
  else if r.va % r.align ≠ 0 then some (addrTrapAt 6 4 r.va)
  else if r.n % r.lenAlign ≠ 0 then some (addrTrapAt 6 4 (r.va + r.n))
  else if isPriv r.va || (isScratch r.va && !r.scr) then some (addrTrapAt 6 5 r.va)
  else if isScratch r.va then
    (if scrOff r.va + r.n > size then some (addrTrapAt 6 3 (r.va + (size - scrOff r.va)))
     else if r.rd then (s.absentAt d r.va r.n).map (addrTrapAt 6 6) else none)
  else if r.va + r.n > 2 ^ 48 then some (addrTrapAt 6 7 (2 ^ 48))
  else none

/-- Every range of a command checked, in order (R217 step 2); a plot-table node that fails its check code is a data error (R156, R363). `w`
attributes the walks. -/
def State.cmdChecked (w : Attr) (core : Nat) (d : Drill) : List CmdRange → State → Ranged
  | [], s => .ok s [] none
  | r :: rs, s =>
    if r.n = 0 then State.cmdChecked w core d rs s
    else match s.cmdAddrTrap d r with
      | some t => .stop (.trap t)
      | none =>
        if isScratch r.va then State.cmdChecked w core d rs s
        else match checkParts w core d.asid (s.supOf d.asid) r.rd r.wr (rangeParts r.va r.n) s [] none with
          | .stop x => .stop x
          | .ok _ _ (some a) => .stop (.trap (addrTrapAt 9 1 a))
          | .ok s _ none => State.cmdChecked w core d rs s

/-- The range-lock entries of a command (R219). -/
def cmdLocks (asid id : Nat) (rs : List CmdRange) : List Lock :=
  (rs.filter (fun r => decide (r.n > 0) && isGlobal r.va)).map (fun r =>
    { cmd := id, key := keyOf asid r.va, base := r.va, len := r.n, dest := r.dest })

/-! ### Reading, for an engine (R221) -/

/-- What an engine's attempt comes to: what it got, a hold (its event again behind what it awaits, or only when it is woken, as where a home's
commit waits on MIG; with the demand of the page it awaits, if it is one), a death, or a failure of the command. -/
inductive Got (α : Type) where
  | ok (s : State) (x : α)
  | hold (s : State) (again : Bool) (page : Option Nat)
  | dies (x : Death)
  | fail (code : Nat)

/-- One attempt after another. -/
def Got.then {α β : Type} (g : Got α) (f : State → α → Got β) : Got β :=
  match g with
  | .ok s x => f s x
  | .hold s a n => .hold s a n
  | .dies x => .dies x
  | .fail c => .fail c

/-- An attempt goes on where a home's read of an address code is ready, and else waits or dies as a drill would there. -/
def Ready.attempt {α : Type} (r : Ready) (s : State) (a : Nat) (f : Got α) : Got α :=
  match r with
  | .ok => f
  | .stop (.dies x) => .dies x
  | .stop (.wait t .order) => .hold t (!s.homeHeld (codeHome a)) none
  | .stop (.wait t (.page n)) => .hold t false (some n)
  | .stop (.wait t _) => .hold t false none
  | .stop _ => .hold s false none

/-- An attempt that waits for a plot-table node (R306). -/
def State.nodeHold {α : Type} (s : State) (a : Nat) : Got α := Ready.attempt (.stop (.wait (s.nodeWait a).1 (s.nodeWait a).2)) s a (.hold s false none)

/-- The bytes of a range within one grain of a plot, as `Mem.Read` sees them: glazed data as its view (R63, R221). `w` attributes the
read, here and below (R357). -/
def State.readGrain (s : State) (w : Attr) (asid : Nat) (d : DWord) (lo n : Nat) : Got (List Byte) :=
  let key := keyOf asid lo
  let g := grainSize d
  let b := lo / g * g
  (s.homeReady w asid (locate d key b) g).attempt s (locate d key b)
    (if s.dataError d (locate d key lo) n then .fail 7
    else .ok (s.touch (locate d key b) g 1) (((s.view d (locate d key b)).drop (lo - b)).take n))

/-- The pieces of a range, grain by grain. -/
def grainPieces (g va n : Nat) : List (Nat × Nat) :=
  if n = 0 then []
  else (upto ((va + n - 1) / g + 1 - va / g)).map (fun k =>
    let a := max va ((va / g + k) * g)
    (a, min (va + n) ((va / g + k + 1) * g) - a))

/-- Pieces read one after another. -/
def State.readPieces (w : Attr) (asid : Nat) (d : DWord) : List (Nat × Nat) → State → List Byte → Got (List Byte)
  | [], s, out => .ok s out
  | (a, n) :: rest, s, out => (s.readGrain w asid d a n).then (fun s x => State.readPieces w asid d rest s (out ++ x))

/-- The plot an engine uses: one that is not valid, or has M set, holds it (R161, R317). DESIGN CHOICE (log 14) for the first: the
manual states nothing for a plot made invalid under a command in flight. -/
def State.enginePlot (s : State) (w : Attr) (asid va : Nat) : Got DWord :=
  match s.plotOf asid va with
  | .desc d => if descValid d && !descM d then .ok s d else .hold s false none
  | .page p => s.nodeHold p
  | .fatal p l => .dies { asid := asid, kind := 4, detail := l, page := p, attr := w, csn := 0 }
  | .bad => .fail 7

/-- A global range read, plot by plot. -/
def State.readParts (w : Attr) (asid : Nat) : List (Nat × Nat) → State → List Byte → Got (List Byte)
  | [], s, out => .ok s out
  | (a, n) :: rest, s, out =>
    (s.enginePlot w asid a).then (fun s d =>
      (State.readPieces w asid d (grainPieces (grainSize d) a n) s []).then (fun s x => State.readParts w asid rest s (out ++ x)))

/-- A scratchpad range read: a sector that another copy in flight targets holds the engine; one that the command itself targets and that was
present at its hand-over is read as it stood (R228); a free byte stands for one that is absent (log 12). -/
def State.readScratch (s : State) (c : Command) (off n : Nat) : Got (List Byte) :=
  match Map.find s.wgs c.wg with
  | none => .hold s false none
  | some w =>
    let here := fun q => w.sectors.any (fun x => x == q) || c.had.any (fun x => x == q)
    if (sectorsOf off n).any (fun q => !here q && s.cmds.any (fun x => x.2.wg == c.wg && x.2.seq != c.seq && x.2.targets.any (fun y => y == q)))
    then .hold s false none
    else if (sectorsOf off n).any (fun q => s.badScratch.any (fun x => x == (c.wg, q))) then .fail 7
    else .ok s ((upto n).map (fun k =>
      if here ((off + k) / 32) then Memory.get w.scratch (off + k) else Config.absentByte (s.tick * 2 ^ 20 + off + k)))

/-- Word k of a command's run. -/
def Command.word (c : Command) (k : Nat) : Nat := (c.run.getD k 0).toNat

/-- The token a command names, which its records carry whether it signals it or not (R222, R223, R357): DEDUCED (log 93), since R275 gives zero
under NT for a saved range-lock entry alone. -/
def Command.token (c : Command) : Nat := c.word 0 % 4096

/-- Who a command's reads and writes are attributed to (R357, R359). -/
def Command.attr (c : Command) : Attr :=
  { off := 0, pc := c.pc, who := whoOf c.drill, kind := 4, token := c.token, launch := c.launch }

/-- A range a command reads. -/
def State.readRange (s : State) (c : Command) (va n : Nat) : Got (List Byte) :=
  if n = 0 then .ok s []
  else if isScratch va then s.readScratch c (scrOff va) n
  else State.readParts c.attr c.asid (rangeParts va n) s []

/-- Ranges read one after another. -/
def State.readRanges (c : Command) : List (Nat × Nat) → State → List (List Byte) → Got (List (List Byte))
  | [], s, out => .ok s out.reverse
  | (a, n) :: rest, s, out => (s.readRange c a n).then (fun s x => State.readRanges c rest s (x :: out))

/-- The n32 words of bytes. -/
def wordsOf : List Byte → List Nat
  | a :: b :: c :: d :: rest => ofBytes [a, b, c, d] :: wordsOf rest
  | _ => []

/-! ### What a command does (R223, R225 to R231) -/

/-- What a command writes: stores in order, sectors that land, and grains a glaze command edits or fires. -/
structure Work where
  writes : List (Nat × List Byte)
  lands : List (Nat × List Byte)
  grains : List GrainWrite
  deriving DecidableEq, Repr

/-- Code 1: a reserved bit of the run set (R218, R225, R228 to R232). -/
def Command.reservedBits (c : Command) : Bool :=
  let prm := fun (x : Nat) => x % 2 ^ 16 / 16 != 0 || x / 2 ^ 25 != 0
  if c.major = 0x79 ∧ c.op = 4 then
    c.word 0 / 4096 % 16 != 0 || c.word 0 / 2 ^ 48 != 0 || (c.flags / 2 % 4 != 3 && c.word 0 / 2 ^ 32 != 0)
  else
    c.word 0 / 4096 != 0 ||
    (if c.major = 0x78 then match c.op with
      | 0 | 1 | 3 => c.word 3 / 2 ^ 32 != 0
      | 4 => prm (c.word 3)
      | 5 => prm (c.word 5)
      | _ => false
    else if c.op = 1 ∨ c.op = 3 then c.word 2 / 2 ^ 32 != 0 else false)

/-- The map of a glaze command as issued (R64). -/
def Command.glazeMap (c : Command) : GMap :=
  let lo := fun k => BitVec.ofNat 32 (c.word k)
  let hi := fun k => BitVec.ofNat 32 (c.word k / 2 ^ 32)
  match c.op with
  | 0 => { GMap.identity with a := lo 3 }
  | 1 => { GMap.identity with b := lo 3 }
  | 2 => { GMap.identity with lo := lo 3, hi := hi 3 }
  | 3 => { GMap.identity with a := 0, b := lo 3 }
  | 4 => { GMap.identity with sh := c.word 3 % 16, m := c.word 3 / 2 ^ 16 % 512 }
  | _ => { a := lo 3, b := hi 3, lo := lo 4, hi := hi 4, sh := c.word 5 % 16, m := c.word 5 / 2 ^ 16 % 512 }

/-- Whether a value is one of a format (R226). -/
def fillOk (f : Fmt) (b : Nat) : Bool :=
  match f32v b with
  | .nan _ => true
  | .inf _ => f.hasInf
  | v => let r := cvtTo f RoundCtx.rn v; r.2 == 0

/-- A parameter breaks what R66 asks of it whatever the tile. -/
def glazeMapBad (fill : Bool) (g : GMap) : Bool :=
  (!fill && (!isFiniteWord g.a.toNat || !isFiniteWord g.b.toNat))
    || (f32v g.lo.toNat).isNan || (f32v g.hi.toNat).isNan || cmpVal (f32v g.lo.toNat) (f32v g.hi.toNat) == .gt

/-- Code 4: a parameter breaks R66, or a fill is not a value of the format. -/
def glazeParamBad (fill : Bool) (f : Fmt) (k : Nat) (g : GMap) : Bool :=
  glazeMapBad fill g || (fill && !fillOk f g.b.toNat) || !(g.sh < k || (g.sh = 0 && k = 0)) || !(g.m < 2 ^ k)

/-- The plots of a range, plot by plot. -/
def State.rangePlots (w : Attr) (asid : Nat) : List (Nat × Nat) → State → List (Nat × Nat × DWord) → Got (List (Nat × Nat × DWord))
  | [], s, out => .ok s out.reverse
  | (a, n) :: rest, s, out => (s.enginePlot w asid a).then (fun s d => State.rangePlots w asid rest s ((a, n, d) :: out))

/-- A grain of a glaze command, with nothing done to it. -/
def Command.tileWrite (c : Command) (d : DWord) (va : Nat) : GrainWrite :=
  { addr := locate d (keyOf c.asid va) va, size := grainSize d, key := keyOf c.asid va, va := va, desc := d, bytes := [], reds := []
    atoms := [], fire := false, edit := none, prio := 1, asid := c.asid
    attrs := (upto (grainSize d / 32)).map (fun k => { c.attr with off := k }) }

/-- The tiles of a range. -/
def tilesOf (ps : List (Nat × Nat × DWord)) : List (DWord × Nat) :=
  ps.flatMap (fun p => (grainPieces (grainSize p.2.2) p.1 p.2.1).map (fun x => (p.2.2, x.1)))

/-- The first of some tiles of n bytes at which a commit is still to be applied. -/
def State.firstPending (s : State) (n : Nat) (as : List Nat) : Option Nat := as.find? (fun a => s.pendingAt a n)

/-- A glaze command's work (R223, R226, R227). One of length zero is checked as far as no plot is needed: DESIGN CHOICE (log 71). A tile whose
header's check code fails fails the command (R321). -/
def State.glazeWork (s : State) (c : Command) : Got Work :=
  let va := c.word 1
  let n := c.word 2
  (State.rangePlots c.attr c.asid (rangeParts va n) s []).then (fun s ps =>
    match ps with
    | [] => if c.op ≤ 5 && glazeMapBad (c.op == 3) c.glazeMap then .fail 4 else .ok s { writes := [], lands := [], grains := [] }
    | (_, _, d) :: _ =>
      let g := grainSize d
      let f := descFmt d
      let map := c.glazeMap
      if ps.any (fun p => !descG p.2.2 || grainSize p.2.2 != g || dfield p.2.2 10 3 != dfield d 10 3) then .fail 3
      else if va % g ≠ 0 ∨ n % g ≠ 0 then .fail 2
      else if c.op ≤ 5 && glazeParamBad (c.op == 3) f (tileK g f) map then .fail 4
      else
        let ts := tilesOf ps
        let code := fun (t : DWord × Nat) => locate t.1 (keyOf c.asid t.2) t.2
        match s.firstPending g (ts.map code) with
        | some a => .hold (s.later [.homeApplyCommit (codeHome a)]) (!s.homeHeld (codeHome a)) none
        | none =>
          if c.op ≤ 5 && ts.any (fun t => s.editBad t.1 (code t)) || c.op == 6 && ts.any (fun t => s.headerBad t.1 (code t)) then .fail 7
          else if c.op ≤ 5 then
            .ok s { writes := [], lands := [], grains := ts.map (fun t => { c.tileWrite t.1 t.2 with edit := some map.normal }) }
          else if c.op = 6 then
            let dirty := ts.filter (fun t => (s.headerAt (code t)).map != GMap.identity
              || (s.home (codeHome (code t))).dsb.any (fun e => e.write.addr == code t))
            .ok s { writes := [], lands := [], grains := dirty.map (fun t => { c.tileWrite t.1 t.2 with fire := true }) }
          else
            let image := c.word 3
            let found := ts.flatMap (fun t => (s.headerAt (code t)).bytes)
            if overlap va n image (32 * (n / g)) && keyOf c.asid va == keyOf c.asid image then .fail 6
            else match ts.find? (fun t => (s.home (codeHome (code t))).dsb.any (fun e => e.write.addr == code t)) with
              | some t => .hold (s.demandFor (code t)).1 false (some (s.demandFor (code t)).2)
              | none =>
                if ts.any (fun t => !(s.headerAt (code t)).good) then .fail 7
                else if isScratch image then .ok s { writes := [], lands := [(image, found)], grains := [] }
                else .ok s { writes := [(image, found)], lands := [], grains := [] })

/-- What an index asks for: nothing, or a row, the default row being `none` (R229). -/
abbrev Pick := Option (Option Nat)

/-- The picks of an index list and how many were counted; none where the policy fails the command (R229). -/
def picks (policy t : Nat) (idx : List Nat) : Option (List Pick × Nat) :=
  if policy == 2 && idx.any (fun i => i != 2 ^ 32 - 1 && decide (i ≥ t)) then none
  else
    some (idx.map (fun i => if i = 2 ^ 32 - 1 then none else if i < t then some (some i) else if policy = 1 then some none else none),
      (idx.filter (fun i => i != 2 ^ 32 - 1 && decide (i ≥ t))).length)

/-- Whether a source range and a destination range of a command overlap in global memory (code 6). DEDUCED (log 15): for every command,
by the columns of R219; an all-reduce may write its own source. -/
def sourcesMeet (rs : List CmdRange) (inPlace : Bool) : Bool :=
  rs.any (fun a => !a.dest && isGlobal a.va && decide (a.n > 0) &&
    rs.any (fun b => b.dest && isGlobal b.va && overlap a.va a.n b.va b.n && !(inPlace && a.va == b.va)))

/-- The count word of a row command, where asked for. It is written last: where it lies in the command's own rows it stands over them. DESIGN CHOICE
(log 90). -/
def countWrite (a n : Nat) : List (Nat × List Byte) := if a = 0 then [] else [(a, toBytes 4 n)]

/-- One bag of `eng.grd`: the rows with their weights, in order (R231). -/
def bagSum (cols : Nat) (rows : List (Nat × List Nat)) : List Nat :=
  if rows.isEmpty then List.replicate cols 0
  else rows.foldl (fun acc r => (upto cols).map (fun k =>
    (ffma .f32 RoundCtx.rn (f32v r.1) (f32v (r.2.getD k 0)) (f32v (acc.getD k 0))).1)) (List.replicate cols 0x80000000)

/-- The bag offsets are legal: from 0, ascending, none above n. -/
def bagsOk (n : Nat) : Nat → List Nat → Bool
  | _, [] => true
  | lo, x :: xs => decide (lo ≤ x) && decide (x ≤ n) && bagsOk n x xs

/-- A row command's work (R229 to R231). The index list is judged whole before any row is read, so that code 5 comes before a row's code 7; the source
rows of `eng.sct` and the weights of `eng.grd` are read whole, those of padding and of skipped indices too, the rows of `eng.gth` where an index
picks them alone: DESIGN CHOICE (log 94). -/
def State.rowWork (s : State) (c : Command) (rs : List CmdRange) : Got Work :=
  let w := c.word
  let n := w 2 % 2 ^ 32
  let t := w 4 % 2 ^ 32
  let z := w 4 / 2 ^ 32
  let policy := c.flags / 2 % 4
  let bags := w 2 / 2 ^ 32
  if z % 4 ≠ 0 ∨ z < 4 ∨ z > 65536 ∨ t = 0 then .fail 2
  else if c.op = 2 ∧ bags = 0 then .fail 2
  else
    (s.readRange c (w 5) (if c.op = 2 then 4 * bags else 0)).then (fun s ob =>
      let offs := wordsOf ob
      if c.op = 2 ∧ (offs.headD 0 ≠ 0 ∨ !bagsOk n 0 offs) then .fail 2
      else if sourcesMeet rs false then .fail 6
      else (s.readRange c (w 1) (4 * n)).then (fun s ib =>
        match picks policy t (wordsOf ib) with
        | none => .fail 5
        | some (ps, count) =>
          let dflt := if c.op = 2 then w 8 else w 6
          let place := fun (p : Pick) => match p with
            | some (some i) => (w 3 + i * z, z)
            | some none => (dflt, z)
            | none => (0, 0)
          if c.op = 3 then
            (s.readRange c (w 5) (n * z)).then (fun s src =>
              .ok s { writes := ((upto n).filter (fun j => (ps.getD j none).isSome)).map (fun j =>
                          ((place (ps.getD j none)).1, (src.drop (j * z)).take z))
                        ++ countWrite (w 6) count
                      lands := [], grains := [] })
          else
            (State.readRanges c (ps.map place) s []).then (fun s rows =>
              if c.op = 1 then
                let ws := ((upto n).filter (fun j => (ps.getD j none).isSome)).map (fun j => (w 5 + j * z, rows.getD j []))
                if isScratch (w 5) then .ok s { writes := countWrite (w 7) count, lands := ws, grains := [] }
                else .ok s { writes := ws ++ countWrite (w 7) count, lands := [], grains := [] }
              else
                (s.readRange c (w 6) (if w 6 = 0 then 0 else 4 * n)).then (fun s wb =>
                  let wts := wordsOf wb
                  let bag := fun b =>
                    let lo := offs.getD b 0
                    let hi := if b + 1 < bags then offs.getD (b + 1) 0 else n
                    let js := ((upto (hi - lo)).map (fun j => lo + j)).filter (fun j => (ps.getD j none).isSome)
                    bagSum (z / 4) (js.map (fun j => (if w 6 = 0 then 0x3F800000 else wts.getD j 0, wordsOf (rows.getD j []))))
                  .ok s { writes := (upto bags).map (fun b => (w 7 + b * z, (bag b).flatMap (toBytes 4))) ++ countWrite (w 9) count
                          lands := [], grains := [] }))))

/-- `eng.cpy`'s work (R228). -/
def State.copyWork (s : State) (c : Command) (rs : List CmdRange) : Got Work :=
  if sourcesMeet rs false then .fail 6
  else (s.readRange c (c.word 1) (c.word 3)).then (fun s x =>
    if isScratch (c.word 2) then .ok s { writes := [], lands := [(c.word 2, x)], grains := [] }
    else .ok s { writes := [(c.word 2, x)], lands := [], grains := [] })

/-! ### Collectives (R232, R233, R348, R349) -/

/-- The combination of a collective. -/
def colCombine (f x y : Nat) : Nat :=
  match f with
  | 0 => (fadd .f32 RoundCtx.rn (f32v x) (f32v y)).1
  | 1 => (fminmax .f32 false x y).1
  | 2 => (fminmax .f32 true x y).1
  | _ => (x + y) % 2 ^ 32

/-- One level of the canonical tree. -/
def colLevel (f : Nat) : List Nat → List Nat
  | a :: b :: rest => colCombine f a b :: colLevel f rest
  | l => l

/-- The canonical tree over the ranks' values, level by level (R233). -/
def colTree (f : Nat) : Nat → List Nat → Nat
  | 0, l => l.headD 0
  | n + 1, l => if l.length ≤ 1 then l.headD 0 else colTree f n (colLevel f l)

/-- What a reduction over the ranks delivers: a NaN is the canonical one, of one rank too (R43). -/
def colValue (f p : Nat) (l : List Nat) : Nat :=
  let x := colTree f p l
  if f ≤ 2 && (f32v x).isNan then Fmt.f32.nan else x

/-- A group of a command, if it is configured. -/
def State.groupOf (s : State) (c : Command) : Option Group :=
  match Map.find s.groups (c.word 0 / 2 ^ 16 % 2 ^ 16) with
  | some g => if g.ranks.length = g.p ∧ g.p > 0 then some g else none
  | none => none

/-- The values a collective writes on rank `own`, once every rank's are there. -/
def colResult (kind f n p own root : Nat) (vals : Map (List Word)) : List Nat :=
  let v := fun r e => ((Map.get [] vals r).getD e 0).toNat
  let tree := fun e => colValue f p ((upto p).map (fun r => v r e))
  match kind with
  | 0 => (upto n).map tree
  | 1 => (upto (n / p)).map (fun e => tree (n / p * own + e))
  | 2 => (upto p).flatMap (fun r => (upto n).map (fun e => v r e))
  | _ => (upto n).map (fun e => v root e)

/-- The first check a collective fails before its traffic (R223, R232). -/
def State.colCheck (s : State) (c : Command) (rs : List CmdRange) : Option Nat :=
  let kind := c.flags / 2 % 4
  let geometry := match s.groupOf c with
    | some g => (kind == 1 && c.word 3 % g.p != 0) || (kind == 3 && decide (c.word 0 / 2 ^ 32 % 2 ^ 16 ≥ g.p))
    | none => false
  if geometry then some 2
  else if sourcesMeet rs (kind == 0) then some 6
  else if (s.groupOf c).isNone then some 9
  else none

/-- Whether a collective has every rank's values that it needs. -/
def Command.colComplete (c : Command) (g : Group) : Bool :=
  let kind := c.flags / 2 % 4
  if kind = 3 then (Map.find c.values (c.word 0 / 2 ^ 32 % 2 ^ 16)).isSome else (upto g.p).all (fun r => (Map.find c.values r).isSome)

/-! ### Commands in flight -/

/-- Drills of a core that wait for range-lock entries. -/
def lockWaiters (s : State) (core : Nat) : List Instr :=
  (s.drills.filter (fun d => coreOf d.1 == core && d.2.wait == .locks)).map (fun d => Instr.commandHandoff d.1)

/-- Drills whose `scr.shrk` waits. -/
def shrinkWaiters (s : State) (wg : Nat) : List Instr :=
  (s.drills.filter (fun d => d.2.wg == wg && (match d.2.wait with | .shrink _ _ => true | _ => false))).map (fun d => Instr.scrGrowComplete d.1)

/-- A command gone: its range-lock entries released, its token signalled unless NT, and what waited for it looked at, a workgroup to be resumed among
it (R219, R222, R275). -/
def State.cmdDone (s : State) (id : Nat) (c : Command) (err : Bool) : State :=
  let waiters := s.cores.flatMap (fun x => if x.2.locks.any (fun l => l.cmd == id) then lockWaiters s x.1 else [])
  let s := { s with
    cmds := Map.erase s.cmds id
    cores := s.cores.map (fun (x : Nat × Core) => (x.1, { x.2 with locks := x.2.locks.filter (fun l => l.cmd != id) })) }
  let s := if c.flags % 2 = 1 then s else s.signal c.asid (c.word 0 % 4096) err
  let s := s.wake .sector (fun _ d => d.wg == c.wg)
  ((s.later (waiters ++ shrinkWaiters s c.wg ++ (if s.placing then [.placeWorkgroup] else []))).nudge c.wg).retryHeld

/-- The ranges of a command in flight. DESIGN CHOICE (log 72): before the checks of R223 have found them, the tile of `glz.rdh` is the grain of its
first plot, 32 bytes where there is none, and the rank count of a group that is not configured is 1. -/
def State.rangesOf (s : State) (c : Command) : List CmdRange :=
  let tile := match s.plotOf c.asid (c.word 1) with | .desc d => grainSize d | _ => 32
  let p := match Map.find s.groups (c.word 0 / 2 ^ 16 % 2 ^ 16) with | some g => max g.p 1 | none => 1
  cmdRanges tile p c.major c.op c.flags c.word

/-- What a command, not a collective, does: its checks in the order of R223, then its work. -/
def State.cmdWork (s : State) (c : Command) : Got Work :=
  if c.reservedBits then .fail 1
  else if c.major = 0x78 then s.glazeWork c
  else if c.op = 0 then s.copyWork c (s.rangesOf c)
  else s.rowWork c (s.rangesOf c)

/-- Grains with one entry for each address, later bytes over earlier. -/
def mergeGrains (gs : List GrainWrite) : List GrainWrite :=
  gs.foldl (fun out g =>
    if out.any (fun x => x.addr == g.addr) then
      out.map (fun x => if x.addr = g.addr then { x with bytes := g.bytes.foldl (fun m b => Map.set m b.1 b.2) x.bytes } else x)
    else out ++ [g]) []

/-- The grains of a command's stores. -/
def State.workGrains (s : State) (c : Command) (w : Work) : List GrainWrite :=
  mergeGrains (w.writes.flatMap (fun x => s.grainsOf c.asid x.1 1 c.attr x.2)) ++ w.grains

/-- Whether every plot an engine chunk writes can be written now: valid, M clear, its home not gated (R161, R379). -/
def State.writesHeld (s : State) (asid : Nat) (ws : List (Nat × Nat)) (gs : List GrainWrite) : Bool :=
  ws.any (fun x => (rangeParts x.1 x.2).any (fun p => match s.plotOf asid p.1 with
    | .desc d => !descValid d || descM d
    | _ => true)) || gs.any (fun g => (s.home (codeHome g.addr)).gated)

/-- Whether the homes can take an engine chunk: no walk of it meets MIG, and they have room for its deferred-store entries, and for header blocks
beside those that edits under way may create (R313, R323, R353). -/
def State.chunkRoom (s : State) (gs : List GrainWrite) : Bool :=
  (upto 8).all (fun h =>
    let new := (gs.filter (fun g => codeHome g.addr == h && s.needsBlock g)).map GrainWrite.block
    s.entryRoom h gs && !gs.any s.migHolds && (new.isEmpty || (s.home h).blockRoom (s.blocksOwed h ++ new)))

/-! ### What lands in scratchpad (R220, R272, R273) -/

/-- The sectors a command's landings are made of: for each destination sector with bytes to land, its 32 bytes, those not written
being what the sector holds, or free where it was absent at the hand-over and is still (log 12). -/
def sectorsToLand (c : Command) (w : Workgroup) (tick : Nat) (ls : List (Nat × List Byte)) : List (Nat × List Byte) :=
  let bytes : Map Byte := ls.foldl (fun (m : Map Byte) (x : Nat × List Byte) => (upto x.2.length).foldl (fun m k => Map.set m (scrOff x.1 + k) (x.2.getD k 0)) m) []
  let qs := (bytes.map (fun b => b.1 / 32)).dedup
  qs.map (fun q => (q, (upto 32).map (fun k => match Map.find bytes (32 * q + k) with
    | some b => b
    | none =>
      if c.had.any (fun x => x == q) || w.sectors.any (fun x => x == q) then Memory.get w.scratch (32 * q + k)
      else Config.absentByte (tick * 2 ^ 20 + 32 * q + k))))

/-- A sector landed: its 32 bytes written, its presence bit set, and the drills that wait for sectors tried again. -/
def State.landSector (s : State) (wg q : Nat) (bs : List Byte) : State :=
  let s := { s with
    wgs := Map.update s.wgs wg (fun w =>
      { w with
        scratch := (upto 32).foldl (fun m k => Memory.put m (32 * q + k) (bs.getD k 0)) w.scratch
        sectors := if w.sectors.any (fun x => x == q) then w.sectors else q :: w.sectors })
    badScratch := s.badScratch.filter (fun x => x != (wg, q)) }
  s.wake .sector (fun _ d => d.wg == wg)

/-- Every sector of some landings landed at once. -/
def State.landAll (s : State) (c : Command) (ls : List (Nat × List Byte)) : State :=
  match Map.find s.wgs c.wg with
  | some w => (sectorsToLand c w s.tick ls).foldl (fun s x => s.landSector c.wg x.1 x.2) s
  | none => s

/-! ### Engine chunks (R220, R222) -/

/-- The engine chunk of a command stamped, and its token signalled (R220, R222). A reservation whose registered grains its W contains holds it
back (R247). What lands with it, the image of `glz.rdh`, lands then (R227). -/
def State.commitWork (s : State) (id : Nat) (c : Command) (w : Work) : State :=
  let gs := s.workGrains c w
  if s.writesHeld c.asid (w.writes.map (fun x => (x.1, x.2.length))) gs || s.soloHolds (fun _ => true) c.asid (engineSig gs) then s
  else if !s.chunkRoom gs then s.demandRoom gs (.engine id)
  else
    let s := if gs.isEmpty && cmdLength c.major c.op c.word == 0 then s else (s.stamp (engineCommit c.asid gs)).launchAt c.launch s.nextCsn
    (s.landAll c w.lands).cmdDone id c false

/-- The record of a failed command (R223, R358). -/
def Command.failRec (c : Command) (code : Nat) : FaultRec :=
  { asid := c.asid, key := c.asid, kind := 5, detail := code, mask := 0, va := 0, who := whoOf c.drill, pc := c.pc.toNat, token := c.token, csn := 0
    launch := c.launch, plot := 0, loc := 0 }

/-- A command fails: no write, a record, ERR signalled (R223). -/
def State.failCmd (s : State) (id : Nat) (c : Command) (code : Nat) : State := (s.cmdDone id c true).record (c.failRec code)

/-- ENGINE_FAIL (R223). A collective that has received finish no longer fails (R349). -/
def execEngineFail (cmd : Nat) (code : Nat) (s : State) : Host.Outcome State Fault Refusal :=
  .next (match Map.find s.cmds cmd with
    | some c => if c.finished then s else s.failCmd cmd c code
    | none => s)

/-- What a hold, a death or a failure of a command's attempt comes to. -/
def Got.settle {α : Type} (g : Got α) (id : Nat) (c : Command) (s0 : State) (f : State → α → State) : State :=
  match g with
  | .ok s x => f s x
  | .hold s again page =>
    let s := s.asked page (.engine id)
    if again then s.later [cmdEvent id c] else s
  | .dies x => s0.die x
  | .fail code => s0.later [.engineFail id code]

/-! ### Landing in scratchpad (R220, R272, R273) -/

/-- A command whose sources are read, with what is to land. A targeted sector that nothing lands in, of rows skipped, is present
again if it was (R230): DEDUCED (log 16). -/
def State.stageLanding (s : State) (id : Nat) (c : Command) (work : Work) : State :=
  match Map.find s.wgs c.wg with
  | none => s
  | some w =>
    let lands := sectorsToLand c w s.tick work.lands
    let kept := c.targets.filter (fun q => !lands.any (fun x => x.1 == q))
    let back := kept.filter (fun q => c.had.any (fun x => x == q) && !w.sectors.any (fun x => x == q))
    let c := { c with staged := true, landing := lands, count := ofBytes (work.writes.headD (0, [])).2, targets := c.targets.filter (fun q => lands.any (fun x => x.1 == q)) }
    ({ s with cmds := Map.set s.cmds id c, wgs := Map.set s.wgs c.wg { w with sectors := back ++ w.sectors } }.wake .sector
      (fun _ d => d.wg == c.wg)).later [cmdEvent id c]

/-- SECTOR_LAND: the next sector of a copy lands; the first time, the sources are read whole (R221, R228, R272). -/
def execSectorLand (cmd : Nat) (s : State) : Host.Outcome State Fault Refusal :=
  .next (match Map.find s.cmds cmd with
    | none => s
    | some c =>
      if c.major = 0x78 then s
      else if !c.staged then (s.cmdWork c).settle cmd c s (fun s w => s.stageLanding cmd c w)
      else match c.landing with
        | [] => s
        | (q, bs) :: rest =>
          let c' := { c with landing := rest, targets := c.targets.filter (fun x => x != q), landed := c.landed + 1 }
          let s := ({ s with cmds := Map.set s.cmds cmd c' }.landSector c.wg q bs).later [cmdEvent cmd c']
          s.later ((s.cmds.filter (fun x => x.1 != cmd && x.2.wg == c.wg)).map (fun x => cmdEvent x.1 x.2)))

/-! ### Collectives under way -/

/-- The finish message, once every rank has reported to rank 0 (R349). -/
def colFinishEvent (g : Group) (id : Nat) (c : Command) : List Instr :=
  if g.own = 0 ∧ (upto g.p).all (fun r => r ∈ c.reports) then [.collectiveFinish id] else []

/-- The device's own share staged, once it has the values it needs; it reports to rank 0. -/
def State.stageShare (s : State) (id : Nat) (c : Command) (g : Group) : State :=
  if c.staged || !c.colComplete g then { s with cmds := Map.set s.cmds id c }
  else
    let c := { c with staged := true, reports := if g.own = 0 then addNats c.reports [0] else c.reports }
    { s with cmds := Map.set s.cmds id c }.later (colFinishEvent g id c)

/-- Whether a peer's call agrees with a command in kind, operation, count and root (R232, R348). -/
def Command.meetsCall (c : Command) (m : PeerCall) : Bool :=
  m.flags / 2 == c.flags / 2 && m.count == c.word 3 && m.root == c.word 0 / 2 ^ 32 % 2 ^ 16

/-- The group a collective names. -/
def Command.group (c : Command) : Nat := c.word 0 / 2 ^ 16 % 2 ^ 16

/-- The device's own call of a group with a number, while it is in flight (R348). -/
def State.callOf (s : State) (group call : Nat) : Option (Nat × Command) :=
  s.cmds.find? (fun c => c.2.major == 0x79 && c.2.op == 4 && c.2.group == group && c.2.call == call)

/-- A peer's call kept until the device's own of that number has begun (R348). -/
def State.keepEarly (s : State) (group : Nat) (g : Group) (m : PeerCall) : State :=
  { s with groups := Map.set s.groups group { g with early := g.early ++ [m] } }

/-- The device's call of a group begun with its own values: what peers have sent of that call before is taken in (R348, R349). -/
def State.meetEarly (s : State) (id : Nat) (c : Command) (g : Group) : State :=
  let mine := g.early.filter (fun m => m.call == c.call)
  let ranks := (g.reported.filter (fun r => r.1 == c.call)).map (fun r => r.2)
  let g' := { g with early := g.early.filter (fun m => m.call != c.call), reported := g.reported.filter (fun r => r.1 != c.call) }
  let s := { s with groups := Map.set s.groups c.group g' }
  if mine.any (fun m => !c.meetsCall m) then s.later [.engineFail id 9]
  else
    s.stageShare id { c with values := mine.foldl (fun v m => Map.set v m.rank m.values) c.values, reports := addNats c.reports ranks } g'

/-- A collective taken on: its checks, then its own values read and sent. -/
def State.startCollective (s : State) (id : Nat) (c : Command) : State :=
  if c.reservedBits then s.later [.engineFail id 1]
  else match s.colCheck c (s.rangesOf c), s.groupOf c with
    | some code, _ => s.later [.engineFail id code]
    | none, none => s.later [.engineFail id 9]
    | none, some g =>
      if (Map.find c.values g.own).isSome then s
      else
        (s.readRange c (c.word 1) (4 * c.word 3)).settle id c s (fun s bs =>
          s.meetEarly id { c with values := Map.set c.values g.own ((wordsOf bs).map (BitVec.ofNat 32)) } g)

/-- COLLECTIVE_RECEIPT: a peer's k-th call of a group with its values meets the device's own k-th call; one that comes before it waits for it (R15,
R348). -/
def execCollectiveReceipt (call : GroupCall) (rank : Nat) (flags : Nat) (count : Nat) (root : Nat) (values : List Word) (s : State) :
    Host.Outcome State Fault Refusal :=
  .next (match Map.find s.groups call.group with
    | none => s
    | some g =>
      let m : PeerCall := { call := call.number, rank := rank, flags := flags, count := count, root := root, values := values }
      if !s.linked ∨ rank ≥ g.p ∨ rank = g.own then s
      else match s.callOf call.group call.number with
        | some (id, c) =>
          if c.finished then s
          else if (Map.find c.values g.own).isNone then s.keepEarly call.group g m
          else if c.meetsCall m then s.stageShare id { c with values := Map.set c.values rank values } g
          else s.later [.engineFail id 9]
        | none => if call.number > g.calls then s.keepEarly call.group g m else s)

/-- COLLECTIVE_STAGED_REPORT: a rank tells rank 0 that its share of a group's k-th call is staged (R15, R349). -/
def execCollectiveStagedReport (call : GroupCall) (rank : Nat) (s : State) : Host.Outcome State Fault Refusal :=
  .next (match Map.find s.groups call.group with
    | none => s
    | some g =>
      if !s.linked ∨ g.own ≠ 0 ∨ rank ≥ g.p ∨ rank = 0 then s
      else match s.callOf call.group call.number with
        | some (id, c) =>
          if c.finished then s
          else
            let c := { c with reports := addNats c.reports [rank] }
            { s with cmds := Map.set s.cmds id c }.later (colFinishEvent g id c)
        | none =>
          if call.number > g.calls then
            { s with groups := Map.set s.groups call.group { g with reported := g.reported ++ [(call.number, rank)] } }
          else s)

/-- The destination of a collective committed as one engine chunk (R233, R349). -/
def State.commitCollective (s : State) (id : Nat) (c : Command) : State :=
  match s.groupOf c with
  | none => s
  | some g =>
    let vals := colResult (c.flags / 2 % 4) (c.flags / 8 % 4) (c.word 3) g.p g.own (c.word 0 / 2 ^ 32 % 2 ^ 16) c.values
    s.commitWork id c { writes := [(c.word 2, vals.flatMap (toBytes 4))], lands := [], grains := [] }

/-- COLLECTIVE_FINISH: a rank that has staged its share receives finish, from rank 0 over a port, and commits its destination (R15, R349). -/
def execCollectiveFinish (cmd : Nat) (s : State) : Host.Outcome State Fault Refusal :=
  .next (match Map.find s.cmds cmd with
    | none => s
    | some c =>
      if !c.staged || c.op ≠ 4 || c.major ≠ 0x79 || (!s.linked && (match s.groupOf c with | some g => decide (g.own ≠ 0) | none => true)) then s
      else
        let c := { c with finished := true }
        { s with cmds := Map.set s.cmds cmd c }.commitCollective cmd c)

/-- COLLECTIVE_TIMEOUT: a peer, or rank 0, could not be reached for 100 ms (R349). -/
def execCollectiveTimeout (cmd : Nat) (s : State) : Host.Outcome State Fault Refusal :=
  .next (match Map.find s.cmds cmd with
    | some c => if c.finished || c.op ≠ 4 || c.major ≠ 0x79 then s else s.failCmd cmd c 10
    | none => s)

/-- ENGINE_CHUNK_COMMIT: a command's sources read, its checks made, its writes and header edits committed at one CSN, its token
signalled (R220, R222). -/
def execEngineChunkCommit (cmd : Nat) (s : State) : Host.Outcome State Fault Refusal :=
  .next (match Map.find s.cmds cmd with
    | none => s
    | some c =>
      if !c.targets.isEmpty && c.major != 0x78 then s
      else if c.major = 0x79 ∧ c.op = 4 then
        (if c.finished then s.commitCollective cmd c else if c.staged then s else s.startCollective cmd c)
      else if c.staged then
        s.commitWork cmd c { writes := countWrite (if c.op = 1 then c.word 7 else 0) c.count, lands := [], grains := [] }
      else (s.cmdWork c).settle cmd c s (fun s w => s.commitWork cmd c w))

end Sys2Proof.Machine
end

