-- ==== Sys2Proof/Machine/Floating.lean ====
section
/-!
DEFINITION. Floating-point, conversion and packed instructions (08_floating_point.md R133 to R151): majors 0x40 to 0x4B.
-/

namespace Sys2Proof.Machine

open Sys2Proof

/-! ### Shared: table E, lane forms -/

/-- Table E (R137 to R142) in a format, on operand bits. -/
def tableE (f : Nat) (t : Fmt) (c : RoundCtx) (a b x : Nat) : Nat × Flags :=
  let va := unpack t a
  let vb := unpack t b
  match f with
  | 0 => fadd t c va vb
  | 1 => fadd t c va vb.negate
  | 2 => fmul t c va vb
  | 3 => ffma t c va vb (unpack t x)
  | 4 => fminmax t true a b
  | 5 => fminmax t false a b
  | 6 => fdiv t c va vb
  | 7 => fsqrt t c va
  | 8 => frcp t c va
  | 9 => frsq t c va
  | 10 => frnd t c.mode a
  | 11 => (a % t.signBit, 0)
  | 12 => ((a % 2 ^ t.width) ^^^ t.signBit, 0)
  | 13 => (a % t.signBit + b % 2 ^ t.width / t.signBit * t.signBit, 0)
  | _ => (fcls t a, 0)

/-- The rounding of instructions that take a direction (R134). -/
def dirCtx (h : Hints) (r : Regs) : RoundCtx := { mode := dirMode h r.round, sat := wantsSat h, r := 0 }

/-- A result and flags per written lane (R133). -/
def fpLanes (dst : Nat) (f : Regs → Nat → Nat × Flags) (h : Hints) (d : Drill) : Drill :=
  let ls := written d.regs h
  (d.setVec dst ls (fun l => (f d.regs l).1)).raise (flagsOf ls (fun l => (f d.regs l).2))

/-- A function of table E on vector operands of a format (R137). -/
def fpVec (f : Nat) (t : Fmt) (dst a b : Nat) (h : Hints) (d : Drill) : Drill :=
  fpLanes dst (fun r l => tableE f t (dirCtx h r) (r.vecN a l) (r.vecN b l) (r.vecN (opcReg h) l)) h d

/-- A special function (R144). -/
def fpSpecial (g : Special) (dst a : Nat) (h : Hints) (d : Drill) : Drill :=
  fpLanes dst (fun r l => special g (r.vecN a l)) h d

/-- Relations of table P on floating values (R145). -/
def fcmpHolds (c : Nat) (a b : FVal) : Bool :=
  let un := a.isNan || b.isNan
  match c with
  | 0 => !un && cmpVal a b == .eq
  | 1 => un || cmpVal a b != .eq
  | 2 => !un && cmpVal a b == .lt
  | 3 => !un && cmpVal a b != .gt
  | 4 => !un && cmpVal a b == .gt
  | 5 => !un && cmpVal a b != .lt
  | 6 => un
  | _ => !un

/-- The format of a type code of `fcmp` (R145). -/
def fcmpFmt (t : Nat) : Fmt := if t = 0 then .f32 else if t = 1 then .f16 else .bf16

/-! ### Conversions (R103, R146, R147) -/

/-- A floating format by its code. -/
def cvtFmt : Nat → Fmt
  | 0 => .f32 | 1 => .f16 | 2 => .bf16 | 3 => .e4m3 | 4 => .e5m2 | 5 => .e2m1
  | _ => .e3m5

/-- Signedness and width of an integer format by its code. -/
def cvtInt : Nat → Bool × Nat
  | 8 => (true, 32) | 9 => (false, 32) | 10 => (true, 64) | 11 => (false, 64)
  | 12 => (true, 16) | 13 => (false, 16) | 14 => (true, 8)
  | _ => (false, 8)

/-- Width of a format by its code. -/
def cvtWidth (c : Nat) : Nat := if c < 8 then (cvtFmt c).width else (cvtInt c).2

/-- The value of element e of a source. -/
def cvtSource (src e x : Nat) : FVal :=
  let y := x / 2 ^ (cvtWidth src * e) % 2 ^ cvtWidth src
  if src < 8 then unpack (cvtFmt src) y else ofInt (valueOf (cvtInt src).1 (cvtInt src).2 y)

/-- The result of a `cvt` and its flags. -/
def cvtResult (dst : Nat) (c : RoundCtx) (x : FVal) : Nat × Flags :=
  if dst < 8 then cvtTo (cvtFmt dst) c x
  else
    let (sgn, w) := cvtInt dst
    let y := roundInt sgn w c.mode x
    (if w < 32 then extend sgn w 32 y.1 else y.1, y.2)

/-! ### Packed pairs (R149 to R151) -/

/-- Element k of a packed pair. -/
def half (x k : Nat) : Nat := x / 2 ^ (16 * k) % 2 ^ 16

/-- Two elements packed, with their flags. -/
def pack (x y : Nat × Flags) : Nat × Flags := (x.1 % 2 ^ 16 + 2 ^ 16 * (y.1 % 2 ^ 16), x.2 ||| y.2)

/-- `pk2` (R149). -/
def packLanes (t : Fmt) (dst a b : Nat) (h : Hints) (d : Drill) : Drill :=
  let mode := anyMode true h d.regs.round
  let ctx := fun (l k : Nat) => roundCtx mode (wantsSat h) d.regs.seed l k
  (fpLanes dst (fun r l => pack (cvtTo t (ctx l 0) (f32v (r.vecN a l))) (cvtTo t (ctx l 1) (f32v (r.vecN b l)))) h d).countSr mode

/-- `upk2` (R149). -/
def unpackLanes (t : Fmt) (dst a : Nat) (h : Hints) (d : Drill) : Drill :=
  let ls := written d.regs h
  let x := fun (l k : Nat) => cvtTo .f32 RoundCtx.rn (unpack t (half (d.regs.vecN a l) k))
  ((d.setVec dst ls (fun l => (x l 0).1)).setVec (dst + 1) ls (fun l => (x l 1).1)).raise
    (flagsOf ls (fun l => (x l 0).2 ||| (x l 1).2))

/-- One float operation on both elements: codes of table E (R150). -/
def pairLanes (f : Nat) (t : Fmt) (dst a b : Nat) (h : Hints) (d : Drill) : Drill :=
  let x := fun (r : Regs) (l k : Nat) =>
    tableE f t (dirCtx h r) (half (r.vecN a l) k) (half (r.vecN b l) k) (half (r.vecN (opcReg h) l) k)
  fpLanes dst (fun r l => pack (x r l 0) (x r l 1)) h d

/-- One integer operation on both elements: codes of table A (R151). -/
def intPairLanes (f : Nat) (dst a b : Nat) (h : Hints) (d : Drill) : Drill :=
  let x := fun (r : Regs) (l k : Nat) =>
    let y := tableA16 f (wantsSat h) (half (r.vecN a l) k) (half (r.vecN b l) k)
    (y.1, if y.2 then flagSA else 0)
  fpLanes dst (fun r l => pack (x r l 0) (x r l 1)) h d
where
  /-- Sum, minimum, maximum of 16-bit elements: f is 0, 8 or 10 for the signed type, one more for the unsigned. -/
  tableA16 (f : Nat) (sat : Bool) (a b : Nat) : Nat × Bool :=
    let sgn := f % 2 == 0
    let x := valueOf sgn 16 a
    let y := valueOf sgn 16 b
    match f / 2 with
    | 0 => if sat then saturate sgn 16 (x + y) else (wrap 16 (x + y), false)
    | 4 => (wrap 16 (if x ≤ y then x else y), false)
    | _ => (wrap 16 (if x ≥ y then x else y), false)

/-! ### Scalar arithmetic, f32 (0x40) -/

/-- `fadd.f32` (R137). -/
def execFadd (d : Nat) (a : Nat) (b : Nat) (s : State) : Host.Outcome State Fault Refusal :=
  regUnit (.fadd d a b) s (fpVec 0 .f32 d a b)

/-- `fsub.f32` (R137). -/
def execFsub (d : Nat) (a : Nat) (b : Nat) (s : State) : Host.Outcome State Fault Refusal :=
  regUnit (.fsub d a b) s (fpVec 1 .f32 d a b)

/-- `fmul.f32` (R137). -/
def execFmul (d : Nat) (a : Nat) (b : Nat) (s : State) : Host.Outcome State Fault Refusal :=
  regUnit (.fmul d a b) s (fpVec 2 .f32 d a b)

/-- `fma.f32` (R137). -/
def execFma (d : Nat) (a : Nat) (b : Nat) (s : State) : Host.Outcome State Fault Refusal :=
  regUnit (.fma d a b) s (fpVec 3 .f32 d a b)

/-- `fmin.f32` (R138). -/
def execFmin (d : Nat) (a : Nat) (b : Nat) (s : State) : Host.Outcome State Fault Refusal :=
  regUnit (.fmin d a b) s (fpVec 4 .f32 d a b)

/-- `fmax.f32` (R138). -/
def execFmax (d : Nat) (a : Nat) (b : Nat) (s : State) : Host.Outcome State Fault Refusal :=
  regUnit (.fmax d a b) s (fpVec 5 .f32 d a b)

/-- `fdiv.f32` (R139). -/
def execFdiv (d : Nat) (a : Nat) (b : Nat) (s : State) : Host.Outcome State Fault Refusal :=
  regUnit (.fdiv d a b) s (fpVec 6 .f32 d a b)

/-- `fsqrt.f32` (R139). -/
def execFsqrt (d : Nat) (a : Nat) (s : State) : Host.Outcome State Fault Refusal :=
  regUnit (.fsqrt d a) s (fpVec 7 .f32 d a 0)

/-- `frcp.f32` (R139). -/
def execFrcp (d : Nat) (a : Nat) (s : State) : Host.Outcome State Fault Refusal :=
  regUnit (.frcp d a) s (fpVec 8 .f32 d a 0)

/-- `frsq.f32` (R139). -/
def execFrsq (d : Nat) (a : Nat) (s : State) : Host.Outcome State Fault Refusal :=
  regUnit (.frsq d a) s (fpVec 9 .f32 d a 0)

/-- `frnd.f32` (R140). -/
def execFrnd (d : Nat) (a : Nat) (s : State) : Host.Outcome State Fault Refusal :=
  regUnit (.frnd d a) s (fpVec 10 .f32 d a 0)

/-- `fabs.f32` (R141). -/
def execFabs (d : Nat) (a : Nat) (s : State) : Host.Outcome State Fault Refusal :=
  regUnit (.fabs d a) s (fpVec 11 .f32 d a 0)

/-- `fneg.f32` (R141). -/
def execFneg (d : Nat) (a : Nat) (s : State) : Host.Outcome State Fault Refusal :=
  regUnit (.fneg d a) s (fpVec 12 .f32 d a 0)

/-- `fcpsgn.f32` (R141). -/
def execFcpsgn (d : Nat) (a : Nat) (b : Nat) (s : State) : Host.Outcome State Fault Refusal :=
  regUnit (.fcpsgn d a b) s (fpVec 13 .f32 d a b)

/-- `fcls.f32` (R142). -/
def execFcls (d : Nat) (a : Nat) (s : State) : Host.Outcome State Fault Refusal :=
  regUnit (.fcls d a) s (fpVec 14 .f32 d a 0)

/-! ### Other forms of table E -/

/-- Table E in f16 (0x41). -/
def execFpF16 (f : Nat) (d : Nat) (a : Nat) (b : Nat) (s : State) : Host.Outcome State Fault Refusal :=
  regUnit (.fpF16 f d a b) s (fpVec f .f16 d a b)

/-- Table E in bf16 (0x42). -/
def execFpBf16 (f : Nat) (d : Nat) (a : Nat) (b : Nat) (s : State) : Host.Outcome State Fault Refusal :=
  regUnit (.fpBf16 f d a b) s (fpVec f .bf16 d a b)

/-- Table E in f32 with a uniform second operand (0x43; R136). -/
def execFpVs (f : Nat) (d : Nat) (a : Nat) (sb : Nat) (s : State) : Host.Outcome State Fault Refusal :=
  regUnit (.fpVs f d a sb) s (fun h => fpLanes d (fun r l => tableE f .f32 (dirCtx h r) (r.vecN a l) (r.uniN sb % 2 ^ 32) (r.vecN (opcReg h) l)) h)

/-- `fadd.f32` immediate (R143). -/
def execFaddImm (d : Nat) (a : Nat) (imm : Nat) (s : State) : Host.Outcome State Fault Refusal :=
  regUnit (.faddImm d a imm) s (fun h => fpLanes d (fun r l => tableE 0 .f32 (dirCtx h r) (r.vecN a l) (immPattern .f 11 imm h) 0) h)

/-- `fmul.f32` immediate (R143). -/
def execFmulImm (d : Nat) (a : Nat) (imm : Nat) (s : State) : Host.Outcome State Fault Refusal :=
  regUnit (.fmulImm d a imm) s (fun h => fpLanes d (fun r l => tableE 2 .f32 (dirCtx h r) (r.vecN a l) (immPattern .f 11 imm h) 0) h)

/-! ### Special functions (0x44; R144) -/

/-- `fex2` (R144). -/
def execFex2 (d : Nat) (a : Nat) (s : State) : Host.Outcome State Fault Refusal :=
  regUnit (.fex2 d a) s (fpSpecial .ex2 d a)

/-- `flg2` (R144). -/
def execFlg2 (d : Nat) (a : Nat) (s : State) : Host.Outcome State Fault Refusal :=
  regUnit (.flg2 d a) s (fpSpecial .lg2 d a)

/-- `fsin` (R144). -/
def execFsin (d : Nat) (a : Nat) (s : State) : Host.Outcome State Fault Refusal :=
  regUnit (.fsin d a) s (fpSpecial .sin d a)

/-- `fcos` (R144). -/
def execFcos (d : Nat) (a : Nat) (s : State) : Host.Outcome State Fault Refusal :=
  regUnit (.fcos d a) s (fpSpecial .cos d a)

/-- `ftanh` (R144). -/
def execFtanh (d : Nat) (a : Nat) (s : State) : Host.Outcome State Fault Refusal :=
  regUnit (.ftanh d a) s (fpSpecial .tanh d a)

/-! ### Compares and conversions -/

/-- `fcmp.C.T` (R145). -/
def execFcmp (t : Nat) (c : Nat) (p : Nat) (a : Nat) (b : Nat) (s : State) : Host.Outcome State Fault Refusal :=
  regUnit (.fcmp t c p a b) s (fun h d =>
    let ls := written d.regs h
    let x := fun l => unpack (fcmpFmt t) (d.regs.vecN a l)
    let y := fun l => unpack (fcmpFmt t) (d.regs.vecN b l)
    (d.setPredLanes p ls (fun l => fcmpHolds c (x l) (y l))).raise (flagsOf ls (fun l => snanFlag [x l, y l])))

/-- `cvt.D.S` (R146 to R148). -/
def execCvt (f : Nat) (d : Nat) (a : Nat) (e : Nat) (src : Nat) (s : State) : Host.Outcome State Fault Refusal :=
  regUnit (.cvt f d a e src) s (fun h x =>
    let mode := anyMode (narrowing f src) h x.regs.round
    let ls := written x.regs h
    let y := fun l => cvtResult f (roundCtx mode (wantsSat h) x.regs.seed l 0)
      (cvtSource src e (if src = 10 ∨ src = 11 then x.regs.pair a l else x.regs.vecN a l))
    ((x.setWide (f == 10 || f == 11) d ls (fun l => (y l).1)).raise (flagsOf ls (fun l => (y l).2))).countSr mode)

/-! ### Packed (0x49 to 0x4B) -/

/-- `pk2.f16` (R149). -/
def execPk2F16 (d : Nat) (a : Nat) (b : Nat) (s : State) : Host.Outcome State Fault Refusal :=
  regUnit (.pk2F16 d a b) s (packLanes .f16 d a b)

/-- `upk2.f16` (R149). -/
def execUpk2F16 (d : Nat) (a : Nat) (s : State) : Host.Outcome State Fault Refusal :=
  regUnit (.upk2F16 d a) s (unpackLanes .f16 d a)

/-- `hadd2.f16` (R150). -/
def execHadd2F16 (d : Nat) (a : Nat) (b : Nat) (s : State) : Host.Outcome State Fault Refusal :=
  regUnit (.hadd2F16 d a b) s (pairLanes 0 .f16 d a b)

/-- `hmul2.f16` (R150). -/
def execHmul2F16 (d : Nat) (a : Nat) (b : Nat) (s : State) : Host.Outcome State Fault Refusal :=
  regUnit (.hmul2F16 d a b) s (pairLanes 2 .f16 d a b)

/-- `hfma2.f16` (R150). -/
def execHfma2F16 (d : Nat) (a : Nat) (b : Nat) (s : State) : Host.Outcome State Fault Refusal :=
  regUnit (.hfma2F16 d a b) s (pairLanes 3 .f16 d a b)

/-- `hmin2.f16` (R150). -/
def execHmin2F16 (d : Nat) (a : Nat) (b : Nat) (s : State) : Host.Outcome State Fault Refusal :=
  regUnit (.hmin2F16 d a b) s (pairLanes 4 .f16 d a b)

/-- `hmax2.f16` (R150). -/
def execHmax2F16 (d : Nat) (a : Nat) (b : Nat) (s : State) : Host.Outcome State Fault Refusal :=
  regUnit (.hmax2F16 d a b) s (pairLanes 5 .f16 d a b)

/-- `pk2.bf16` (R149). -/
def execPk2Bf16 (d : Nat) (a : Nat) (b : Nat) (s : State) : Host.Outcome State Fault Refusal :=
  regUnit (.pk2Bf16 d a b) s (packLanes .bf16 d a b)

/-- `upk2.bf16` (R149). -/
def execUpk2Bf16 (d : Nat) (a : Nat) (s : State) : Host.Outcome State Fault Refusal :=
  regUnit (.upk2Bf16 d a) s (unpackLanes .bf16 d a)

/-- `hadd2.bf16` (R150). -/
def execHadd2Bf16 (d : Nat) (a : Nat) (b : Nat) (s : State) : Host.Outcome State Fault Refusal :=
  regUnit (.hadd2Bf16 d a b) s (pairLanes 0 .bf16 d a b)

/-- `hmul2.bf16` (R150). -/
def execHmul2Bf16 (d : Nat) (a : Nat) (b : Nat) (s : State) : Host.Outcome State Fault Refusal :=
  regUnit (.hmul2Bf16 d a b) s (pairLanes 2 .bf16 d a b)

/-- `hfma2.bf16` (R150). -/
def execHfma2Bf16 (d : Nat) (a : Nat) (b : Nat) (s : State) : Host.Outcome State Fault Refusal :=
  regUnit (.hfma2Bf16 d a b) s (pairLanes 3 .bf16 d a b)

/-- `hmin2.bf16` (R150). -/
def execHmin2Bf16 (d : Nat) (a : Nat) (b : Nat) (s : State) : Host.Outcome State Fault Refusal :=
  regUnit (.hmin2Bf16 d a b) s (pairLanes 4 .bf16 d a b)

/-- `hmax2.bf16` (R150). -/
def execHmax2Bf16 (d : Nat) (a : Nat) (b : Nat) (s : State) : Host.Outcome State Fault Refusal :=
  regUnit (.hmax2Bf16 d a b) s (pairLanes 5 .bf16 d a b)

/-- `iadd2` (R151). -/
def execIadd2 (t : Nat) (d : Nat) (a : Nat) (b : Nat) (s : State) : Host.Outcome State Fault Refusal :=
  regUnit (.iadd2 t d a b) s (intPairLanes t d a b)

/-- `imax2` (R151). -/
def execImax2 (t : Nat) (d : Nat) (a : Nat) (b : Nat) (s : State) : Host.Outcome State Fault Refusal :=
  regUnit (.imax2 t d a b) s (intPairLanes (10 + t) d a b)

/-- `imin2` (R151). -/
def execImin2 (t : Nat) (d : Nat) (a : Nat) (b : Nat) (s : State) : Host.Outcome State Fault Refusal :=
  regUnit (.imin2 t d a b) s (intPairLanes (8 + t) d a b)

end Sys2Proof.Machine
end

