-- ==== Sys2Proof/Machine/Launches.lean ====
section
/-!
DEFINITION. Launch records, queues, launches' ends, and the tape (19_launches_and_contexts.md R286 to R291, R299; R234, R235, R195,
R369).
-/

namespace Sys2Proof.Machine

open Sys2Proof

/-! ### Launch records (R288, R289) -/

/-- The record of 64 bytes. -/
def recordOf (bs : List Byte) : LaunchRec :=
  let x := ofBytes bs
  let f := fun lo n => field x lo n
  { entry := f 0 48, drills := f 48 5, nosig := f 53 1 == 1, vregs := f 56 8, args := f 64 48, tiles := f 112 5, accs := f 120 4
    cooperative := f 124 1 == 1, placemap := f 125 1 == 1, turn := f 126 1 == 1, conc := f 127 1 == 1, nx := f 128 32, ny := f 160 32
    nz := f 192 32, scratch := f 224 12, barriers := f 236 5, nwait := f 241 3, signal := f 244 12
    waits := (upto 4).map (fun k => (f (256 + 64 * k + 48) 12, f (256 + 64 * k) 48))
    reservedSet := f 54 2 != 0 || f 117 3 != 0 || (upto 4).any (fun k => f (256 + 64 * k + 60) 4 != 0) }

/-- Workgroups of the grid. -/
def LaunchRec.total (r : LaunchRec) : Nat := r.nx * r.ny * r.nz

/-- Rounded vector registers, tile registers and accumulators (R19). -/
def LaunchRec.nv (r : LaunchRec) : Nat := roundUp r.vregs 8
def LaunchRec.nt (r : LaunchRec) : Nat := roundUp r.tiles 4
def LaunchRec.na (r : LaunchRec) : Nat := roundUp r.accs 2

/-- The waits in force (R290). -/
def LaunchRec.inForce (r : LaunchRec) : List (Nat × Nat) := r.waits.take r.nwait

/-- The code of the first check made at acceptance that fails (R289). An empty core holds a workgroup when the partition with most of
its drills does (R12, R13, R236). -/
def LaunchRec.code (r : LaunchRec) : Option Nat :=
  let most := (r.drills + 3) / 4
  if r.reservedSet || r.entry % 4 != 0 || r.args % 8 != 0 || decide (r.nwait > 4) || (r.waits.drop r.nwait).any (fun w => w != (0, 0))
      || (r.nosig && r.signal != 0) then some 1
  else if r.total = 0 ∨ r.total > 2 ^ 40 then some 2
  else if r.drills = 0 ∨ r.drills > 16 ∨ r.vregs > 128 ∨ r.tiles > 16 ∨ r.accs > 8 ∨ r.scratch > Config.scratchLinesPerCore
      ∨ r.barriers > 16 ∨ most * (r.nv / 8) > Config.vecGranules ∨ most * r.nt > Config.tileRegs ∨ most * r.na > Config.accRegs then some 3
  else none

/-! ### Queues (R290) -/

/-- Whether a queue exists in a context. -/
def Context.hasQueue (c : Context) (q : Nat) : Bool := decide (q < 16) && c.qexist.getLsbD q

/-- Priority of a queue. -/
def Context.prioOf (c : Context) (q : Nat) : Nat := dfield c.qpri (4 * q) 3

/-- A queue served: among those of its priority the next one comes first from now on (R296). -/
def Context.served (c : Context) (q : Nat) : Context := { c with lastQueue := Map.set c.lastQueue (c.prioOf q) q }

/-- A queue's launches, in order. -/
def Context.queue (c : Context) (q : Nat) : List Nat := Map.get [] c.queues q

/-- A queue written. -/
def Context.setQueue (c : Context) (q : Nat) (l : List Nat) : Context := { c with queues := Map.put [] c.queues q l }

/-- A journal record of a device origin (R368, R369). -/
def deviceRec (op asid cmdid da db : Nat) : JRec :=
  { csn := 0, cmdid := BitVec.ofNat 64 cmdid, asid := asid, session := 0xFFFF, op := op, status := 0, state := .accepted, da := da
    db := db, time := 0, ref := 0 }

/-- The token of a launch signalled, unless NOSIG (R289, R291). -/
def State.signalLaunch (s : State) (asid : Nat) (r : LaunchRec) (err : Bool) : State :=
  if r.nosig then s else s.signal asid r.signal err

/-- A launch put into a queue under a journal number already given, or failed at acceptance (R289). In a dead context it fails with code 9 and signals
no token (R304): DESIGN CHOICE (log 97). -/
def State.acceptLaunch (s : State) (jsn asid queue : Nat) (r : LaunchRec) (map : Option (List Nat)) (mapAt : Nat) (turn : Option Nat) :
    State :=
  match Map.find s.ctxs asid with
  | none => s.setRecord jsn (fun x => { x with state := .failed, status := 9, launch := true })
  | some c =>
    if c.dead then s.setRecord jsn (fun x => { x with state := .failed, status := 9, launch := true })
    else match r.code with
      | some n =>
        let s := (s.setRecord jsn (fun x => { x with state := .failed, status := n, launch := true })).signalLaunch asid r true
        if turn.isSome then s.replayFailed asid jsn n else s
      | none =>
        { s.setRecord jsn (fun x => { x with launch := true }) with
          launches := Map.set s.launches jsn
            { asid := asid, queue := queue, record := r, map := map, mapAt := mapAt, turnOf := turn, next := 0, ended := 0
              eligible := false, started := false, failed := none }
          ctxs := Map.set s.ctxs asid (c.setQueue queue (c.queue queue ++ [jsn])) }.later [.placeWorkgroup]

/-- A launch of a device origin appended: journaled, then accepted (R195, R235, R367). Its number is the record's. -/
def State.appendLaunch (s : State) (op asid queue va : Nat) (bs : List Byte) (turn : Option Nat) : State × Nat :=
  let r := recordOf bs
  let jsn := s.nextJsn
  ((s.addRecord (deviceRec op asid va r.entry queue)).acceptLaunch jsn asid queue r none (va + 64) turn, jsn)

/-! ### The tape (R234, R235, R299) -/

/-- Depth of a context's tape. -/
def Context.depth (c : Context) : Nat := c.tape.length

/-- A record address pushed; the depth, or 0 where the tape is full and the refusal is journaled (R234). -/
def State.pushTape (s : State) (asid va : Nat) : State × Nat :=
  match Map.find s.ctxs asid with
  | none => (s, 0)
  | some c =>
    if c.depth ≥ Config.tapeDepth then
      (s.addRecord { deviceRec 0x44 asid va va Config.tapeDepth with state := .completed }, 0)
    else ({ s with ctxs := Map.set s.ctxs asid { c with tape := va :: c.tape } }, c.depth + 1)

/-- A turn accepted under a journal record that stands: it joins the active replay, is complete at once, or starts a replay (R235,
R369). -/
def State.startTurn (s : State) (jsn asid queue : Nat) (c : Context) : State :=
  match c.replay with
  | some (turn, _) => s.setRecord jsn (fun r => { r with state := .completed, ref := turn })
  | none =>
    if c.tape.isEmpty then s.setRecord jsn (fun r => { r with state := .completed })
    else { s with ctxs := Map.set s.ctxs asid { c with replay := some (jsn, queue), replayWait := none } }.later [.tapePop asid]

/-- A turn of a device origin, with the depth that `tape.turn` gives: all ones where it is refused (R235, R304, R369). -/
def State.deviceTurn (s : State) (op asid queue : Nat) : State × Nat :=
  match Map.find s.ctxs asid with
  | none => (s, 2 ^ 64 - 1)
  | some c =>
    let jsn := s.nextJsn
    let s := s.addRecord (deviceRec op asid 0 c.depth (queue % 2 ^ 16))
    if !c.hasQueue queue then (s.setRecord jsn (fun r => { r with state := .failed, status := 1 }), 2 ^ 64 - 1)
    else if c.dead then (s.setRecord jsn (fun r => { r with state := .failed, status := 9 }), 2 ^ 64 - 1)
    else (s.startTurn jsn asid queue c, c.depth)

/-- A range the command processor reads with a context's permissions: code 12 where its plot is invalid or lacks R, or a check code
fails (R234, R289). `w` attributes the read. -/
def State.cpRead (s : State) (w : Attr) (asid va n : Nat) : Got (List Byte) :=
  if (rangeParts va n).any (fun p => match s.plotOf asid p.1 with
      | .desc d => !descValid d || !descR d || (descS d && !s.supOf asid)
      | .bad => true
      | _ => false) then .fail 12
  else match State.readParts w asid (rangeParts va n) s [] with
    | .fail _ => .fail 12
    | g => g

/-- A record that could not be read: a launch journaled as failed with code 12 (R195, R234). Its SIGNAL field is not known, and no token is
signalled: DESIGN CHOICE (log 89). -/
def State.unreadable (s : State) (op asid queue va : Nat) : State :=
  (s.addRecord (deviceRec op asid va 0 queue)).setRecord s.nextJsn (fun r => { r with state := .failed, status := 12, launch := true })

/-- TAPE_POP: the next record of a replay popped, read and appended; the replay ends with the tape (R235). -/
def execTapePop (asid : Nat) (s : State) : Host.Outcome State Fault Refusal :=
  .next (match Map.find s.ctxs asid with
    | none => s
    | some c => match c.replay, c.tape with
      | none, _ => s
      | some (turn, _), [] =>
        if c.replayWait.isSome then s
        else { s.setRecord turn (fun r => { r with state := .completed }) with ctxs := Map.set s.ctxs asid { c with replay := none } }
      | some (turn, queue), va :: rest =>
        if c.replayWait.isSome then s
        else
          let popped := fun (s : State) =>
            ({ s with ctxs := Map.update s.ctxs asid (fun c => { c with tape := rest }) }).setRecord turn (fun r => { r with state := .started })
          match s.cpRead { Attr.device with launch := turn } asid va 64 with
          | .hold s again page =>
            let s := s.asked page (.context asid)
            if again then s.later [.tapePop asid] else s
          | .dies x => s.die x
          | .fail _ => ((popped s).unreadable 0x41 asid queue va).replayFailed asid s.nextJsn 12
          | .ok s bs =>
            let r := (popped s).appendLaunch 0x41 asid queue va bs (some turn)
            if (recordOf bs).conc then r.1.later [.tapePop asid]
            else { r.1 with ctxs := Map.update r.1.ctxs asid (fun c => if c.replay.isSome then { c with replayWait := some r.2 } else c) })

/-! ### A launch's end (R289, R291) -/

/-- A context's queues without a launch. -/
def Context.unqueue (c : Context) (l : Launch) (jsn : Nat) : Context := c.setQueue l.queue ((c.queue l.queue).filter (fun x => x != jsn))

/-- LAUNCH_COMPLETE: every workgroup placed has ended; the token is signalled, the record closed, a TURN performed, a replay that
waits goes on or stops (R235, R289, R291, R299). -/
def execLaunchComplete (jsn : Nat) (s : State) : Host.Outcome State Fault Refusal :=
  .next (match Map.find s.launches jsn with
    | none => s
    | some l =>
      if l.ended < l.next ∨ (l.failed.isNone ∧ l.next < l.record.total) then s
      else
        let s := { s with launches := Map.erase s.launches jsn, ctxs := Map.update s.ctxs l.asid (fun c => c.unqueue l jsn) }.retryHeld
        match l.failed with
        | some code =>
          (s.setRecord jsn (fun r => { r with state := .failed, status := code })).signalLaunch l.asid l.record true
        | none =>
          let s := (s.setRecord jsn (fun r => { r with state := .completed, csn := l.csn })).signalLaunch l.asid l.record false
          let s := if l.record.turn then (s.deviceTurn 0x43 l.asid l.queue).1 else s
          match Map.find s.ctxs l.asid with
          | some c =>
            if c.replayWait = some jsn then
              { s with ctxs := Map.set s.ctxs l.asid { c with replayWait := none } }.later [.tapePop l.asid]
            else s
          | none => s)

/-! ### Commands that follow their chunk (R195, R217, R224, R234, R235) -/

/-- The range of a 64-byte record that a drill names (R195, R234). -/
def recordRange (va : Nat) : CmdRange := { srcRange va 64 with align := 64, scr := false }

/-- The attribution of the operation after a drill's stamp (R357). -/
def Drill.opAttr (k : Nat) (d : Drill) : Attr :=
  { off := 0, pc := d.chunk.afterUnit.first, who := whoOf k, kind := 4, token := 0, launch := d.launch }

/-- A record's address checked, the range lock included (R155, R156). -/
def State.checkRecord (s : State) (k : Nat) (d : Drill) (va : Nat) : Ranged :=
  match s.cmdAddrTrap d (recordRange va) with
  | some t => .stop (.trap t)
  | none => match checkParts (d.opAttr k) (coreOf k) d.asid (s.supOf d.asid) true false (rangeParts va 64) s [] none with
    | .stop r => .stop r
    | .ok s ps bad => match s.lockedAt (coreOf k) d.asid va 64 false, bad with
      | some a, _ => .stop (.trap (addrTrapAt 8 1 a))
      | none, some a => .stop (.trap (addrTrapAt 9 1 a))
      | none, none => .ok s ps none

/-- The drill back at the instruction whose operation follows the stamp, in a fresh chunk that begins with it. -/
def Drill.atUnit (d : Drill) : Drill :=
  let r := { d.regs with pc := d.chunk.afterUnit.first }
  let d := d.opDone
  { d with regs := r, chunk := { d.chunk with start := r } }

/-- What a stop at an operation after the stamp comes to: a trap at the instruction, in a chunk that begins with it, so that a squash
executes it again (R189, R197); a wait; a death. -/
def State.stopOp (s : State) (k : Nat) (d : Drill) : Res → State
  | .trap t => s.takeTrap k d.atUnit d.chunk.afterUnit.first t
  | .wait s' w => s'.setDrill k { d with wait := w }
  | .dies x => s.die x
  | _ => s

/-- `eng.wt` complete: streaming lines of the ASID invalidated, the token word written (R224). -/
def State.waitOver (s : State) (k : Nat) (d : Drill) (i dst : Nat) : State :=
  let w := s.tokenWord d.asid i
  (s.setDrill k ((d.opWrite dst w.toNat).opDone)).invalidateStreams (coreOf k) d.asid

/-- ENG_WT_RETURN (R224). -/
def execEngWtReturn (d : Nat) (s : State) : Host.Outcome State Fault Refusal :=
  .next (match Map.find s.drills d with
    | some x => match x.wait with
      | .token i v dst => if tokenReached (s.tokenWord x.asid i) v then s.waitOver d x i dst else s
      | _ => s
    | none => s)

/-- Major, op, flags and the first register of the run of a command that an engine carries out. -/
def engineForm : Instr → Option (Nat × Nat × Nat × Nat)
  | .glzScl r n => some (0x78, 0, n, r)
  | .glzOff r n => some (0x78, 1, n, r)
  | .glzClp r n => some (0x78, 2, n, r)
  | .glzFil r n => some (0x78, 3, n, r)
  | .glzPrm r n => some (0x78, 4, n, r)
  | .glzMap r n => some (0x78, 5, n, r)
  | .glzFire r n => some (0x78, 6, n, r)
  | .glzRdh r n => some (0x78, 7, n, r)
  | .engCpy r n => some (0x79, 0, n, r)
  | .engGth r p n => some (0x79, 1, n + 2 * p, r)
  | .engGrd r p n => some (0x79, 2, n + 2 * p, r)
  | .engSct r p n => some (0x79, 3, n + 2 * p, r)
  | .engCol r f k n => some (0x79, 4, n + 2 * k + 8 * f, r)
  | _ => none

/-- Whether a command's entries can be taken now (R219). -/
def State.locksFree (s : State) (core : Nat) (ls : List Lock) : Bool :=
  decide ((s.core core).locks.length + ls.length ≤ Config.lockEntries)
    && !ls.any (fun l => s.locked core l.key l.base l.len l.dest)

/-- The command of a drill handed to its engine (R217 step 4, R272, R275). -/
def State.handOver (s : State) (k : Nat) (d : Drill) (c : Command) (rs : List CmdRange) (ls : List Lock) : State :=
  let id := s.nextId
  let dst := rs.filter (fun r => r.dest && r.scr && isScratch r.va && decide (r.n > 0))
  let targets := dst.flatMap (fun r => sectorsOf (scrOff r.va) r.n)
  match Map.find s.wgs d.wg with
  | none => s
  | some w =>
    let c := { c with targets := targets, had := targets.filter (fun q => w.sectors.any (fun x => x == q)), seq := w.nextSeq }
    let x := s.core (coreOf k)
    let s := { s with
      nextId := id + 1
      cmds := Map.set s.cmds id c
      wgs := Map.set s.wgs d.wg { w with
        nextSeq := (w.nextSeq + 1) % 2 ^ 30, sectors := w.sectors.filter (fun q => !targets.any (fun y => y == q)) } }
    ((s.setCore (coreOf k) { x with locks := x.locks ++ ls }).setDrill k d.opDone).later [cmdEvent id c]

/-- A command of a drill at its place after the stamp (R217 steps 1 to 4). -/
def State.issueCommand (s : State) (k : Nat) (d : Drill) (major op flags st : Nat) : State :=
  let c : Command :=
    { wg := d.wg, drill := k, index := d.index, core := coreOf k, asid := d.asid, launch := d.launch, pc := d.chunk.afterUnit.first
      major := major, op := op, flags := flags, run := (upto 10).map (fun n => if st + n < 64 then d.regs.uni (st + n) else 0), seq := 0
      landing := [], targets := [], had := [], landed := 0, count := 0, values := [], reports := [], staged := false, finished := false
      call := 0 }
  let rs := s.rangesOf c
  match State.cmdChecked (d.opAttr k) (coreOf k) d rs s with
  | .stop r => s.stopOp k d r
  | .ok s _ _ =>
    let ls := cmdLocks d.asid s.nextId rs
    if !s.locksFree (coreOf k) ls then s.setDrill k { d with wait := .locks }
    else if major = 0x79 ∧ op = 4 then
      match s.groupOf c with
      | some g =>
        let n := c.word 0 / 2 ^ 16 % 2 ^ 16
        { s with groups := Map.set s.groups n { g with calls := g.calls + 1 } }.handOver k d { c with call := g.calls + 1 } rs ls
      | none => s.handOver k d c rs ls
    else s.handOver k d c rs ls

/-- Whether a drill stands in a `tape.push` after its chunk's stamp. -/
def Drill.pushes (d : Drill) : Bool := match d.chunk.after with | some (.tapePush _ _) => true | _ => false

/-- Whether another drill of the context has a push to make whose chunk has a lower CSN: pushes are applied in the CSN order of their chunks
(R234). -/
def State.pushBefore (s : State) (k : Nat) (d : Drill) : Bool :=
  s.drills.any (fun c => c.1 != k && c.2.asid == d.asid && c.2.pushes && decide (c.2.csn < d.csn) && s.running c.2.wg)

/-- The pushes of a context looked at again, as one is made, traps, or is no longer to be made. -/
def State.pushEvents (s : State) (asid : Nat) : List Instr :=
  (s.drills.filter (fun c => c.2.asid == asid && c.2.pushes && (c.2.wait == .order || c.2.wait == .none))).map (fun c => Instr.commandHandoff c.1)

/-- A `tape.push` at its place: its address checked, then pushed behind those of lower CSNs (R234). -/
def State.pushRecord (s : State) (k : Nat) (d : Drill) (va dst : Nat) : State :=
  match s.checkRecord k d va with
  | .stop y =>
    let s := s.stopOp k d y
    s.later (s.pushEvents d.asid)
  | .ok s _ _ =>
    if s.pushBefore k d then s.setDrill k { d with wait := .order }
    else
      let y := s.pushTape d.asid va
      let s := y.1.setDrill k ((d.opWrite dst y.2).opDone)
      s.later (s.pushEvents d.asid)

/-- COMMAND_HANDOFF: the command a drill's last chunk ended with (R217). A stopped workgroup issues none: it resumes at the command. -/
def execCommandHandoff (d : Nat) (s : State) : Host.Outcome State Fault Refusal :=
  .next (match Map.find s.drills d with
    | none => s
    | some x =>
      if !s.running x.wg then s
      else match x.chunk.after with
        | none => s
        | some i =>
          match engineForm i with
          | some (major, op, flags, st) => s.issueCommand d x major op flags st
          | none => match i with
            | .engWt r dst =>
              let n := x.regs.uniN r % 4096
              let v := x.regs.uniN (r + 1) % 2 ^ 63
              if tokenReached (s.tokenWord x.asid n) v then s.waitOver d x n dst else s.setDrill d { x with wait := .token n v dst }
            | .engTst r dst => s.setDrill d ((x.opWrite dst (s.tokenWord x.asid (x.regs.uniN r % 4096)).toNat).opDone)
            | .tapePush r dst => s.pushRecord d x (x.regs.uniN r) dst
            | .tapeTurn r dst =>
              let q := x.regs.uniN r
              let y := s.deviceTurn 0x42 x.asid q
              y.1.setDrill d ((x.opWrite dst y.2).opDone)
            | _ => s)

/-- LNCH_APPEND: the record's address and the queue checked, the fence, then the append as a chunk of its own: the record read at its
CSN, journaled and appended (R195). -/
def execLnchAppend (d : Nat) (s : State) : Host.Outcome State Fault Refusal :=
  .next (match Map.find s.drills d with
    | none => s
    | some x => match x.chunk.after with
      | some (.lnch r q) =>
        if !s.running x.wg then s
        else
          let va := x.regs.uniN r
          let queue := x.regs.uniN q
          match s.checkRecord d x va with
          | .stop y => s.stopOp d x y
          | .ok s _ _ =>
            if !(match Map.find s.ctxs x.asid with | some c => c.hasQueue queue | none => false) then s.stopOp d x (.trap (Trap.plain 10 8))
            else if !x.pendingStreams.isEmpty then s.setDrill d { x with wait := .lnch }
            else
              let finish := fun (s : State) => (s.stamp (Commit.blank x.asid)).fenceDone d x
              match s.cpRead (x.opAttr d) x.asid va 64 with
              | .hold s again page =>
                ((s.asked page (.drill d x.wg)).setDrill d { x with wait := .lnch }).later (if again then [.lnchAppend d] else [])
              | .dies y => s.die y
              | .fail _ => (finish s).unreadable 0x40 x.asid queue va
              | .ok s bs => ((finish s).appendLaunch 0x40 x.asid queue va bs none).1
      | _ => s)

/-! ### The instructions (R217: each ends its chunk, and its command follows the stamp) -/

/-- `glz.scl`. -/
def execGlzScl (run : Nat) (n : Nat) (s : State) : Host.Outcome State Fault Refusal := asUnit (.glzScl run n) s (fun s d => .ends s d true)
/-- `glz.off`. -/
def execGlzOff (run : Nat) (n : Nat) (s : State) : Host.Outcome State Fault Refusal := asUnit (.glzOff run n) s (fun s d => .ends s d true)
/-- `glz.clp`. -/
def execGlzClp (run : Nat) (n : Nat) (s : State) : Host.Outcome State Fault Refusal := asUnit (.glzClp run n) s (fun s d => .ends s d true)
/-- `glz.fil`. -/
def execGlzFil (run : Nat) (n : Nat) (s : State) : Host.Outcome State Fault Refusal := asUnit (.glzFil run n) s (fun s d => .ends s d true)
/-- `glz.prm`. -/
def execGlzPrm (run : Nat) (n : Nat) (s : State) : Host.Outcome State Fault Refusal := asUnit (.glzPrm run n) s (fun s d => .ends s d true)
/-- `glz.map`. -/
def execGlzMap (run : Nat) (n : Nat) (s : State) : Host.Outcome State Fault Refusal := asUnit (.glzMap run n) s (fun s d => .ends s d true)
/-- `glz.fire`. -/
def execGlzFire (run : Nat) (n : Nat) (s : State) : Host.Outcome State Fault Refusal := asUnit (.glzFire run n) s (fun s d => .ends s d true)
/-- `glz.rdh`. -/
def execGlzRdh (run : Nat) (n : Nat) (s : State) : Host.Outcome State Fault Refusal := asUnit (.glzRdh run n) s (fun s d => .ends s d true)
/-- `eng.cpy`. -/
def execEngCpy (run : Nat) (n : Nat) (s : State) : Host.Outcome State Fault Refusal := asUnit (.engCpy run n) s (fun s d => .ends s d true)
/-- `eng.gth`. -/
def execEngGth (run : Nat) (p : Nat) (n : Nat) (s : State) : Host.Outcome State Fault Refusal :=
  asUnit (.engGth run p n) s (fun s d => .ends s d true)
/-- `eng.grd`. -/
def execEngGrd (run : Nat) (p : Nat) (n : Nat) (s : State) : Host.Outcome State Fault Refusal :=
  asUnit (.engGrd run p n) s (fun s d => .ends s d true)
/-- `eng.sct`. -/
def execEngSct (run : Nat) (p : Nat) (n : Nat) (s : State) : Host.Outcome State Fault Refusal :=
  asUnit (.engSct run p n) s (fun s d => .ends s d true)
/-- `eng.col`. -/
def execEngCol (run : Nat) (f : Nat) (k : Nat) (n : Nat) (s : State) : Host.Outcome State Fault Refusal :=
  asUnit (.engCol run f k n) s (fun s d => .ends s d true)
/-- `eng.wt`. -/
def execEngWt (run : Nat) (d : Nat) (s : State) : Host.Outcome State Fault Refusal := asUnit (.engWt run d) s (fun s x => .ends s x true)
/-- `eng.tst`. -/
def execEngTst (run : Nat) (d : Nat) (s : State) : Host.Outcome State Fault Refusal := asUnit (.engTst run d) s (fun s x => .ends s x true)
/-- `tape.push`. -/
def execTapePush (run : Nat) (d : Nat) (s : State) : Host.Outcome State Fault Refusal :=
  asUnit (.tapePush run d) s (fun s x => .ends s x true)
/-- `tape.turn`. -/
def execTapeTurn (run : Nat) (d : Nat) (s : State) : Host.Outcome State Fault Refusal :=
  asUnit (.tapeTurn run d) s (fun s x => .ends s x true)
/-- `lnch`. -/
def execLnch (run : Nat) (q : Nat) (s : State) : Host.Outcome State Fault Refusal := asUnit (.lnch run q) s (fun s d => .ends s d true)

end Sys2Proof.Machine
end

