-- ==== Sys2Proof/Machine/Place.lean ====
section
/-!
DEFINITION. Placement, a workgroup's end and its kill (19_launches_and_contexts.md R292 to R294; R24, R196, R236, R270, R278, R279).
-/

namespace Sys2Proof.Machine

open Sys2Proof

/-! ### What a workgroup needs of a core (R13, R236, R293) -/

/-- The sum of a figure over the drills of a partition of a core. -/
def State.usedIn (s : State) (core part : Nat) (f : Drill → Nat) : Nat :=
  s.drills.foldl (fun n c => if coreOf c.1 = core ∧ partOf c.1 = part then n + f c.2 else n) 0

/-- The lowest free slot of a partition of a core, beyond those already given. -/
def State.freeSlot (s : State) (core part : Nat) (given : List Nat) : Option Nat :=
  ((upto Config.slotsPerPartition).map (fun n => core * 64 + 4 * n + part)).find? (fun k => (Map.find s.drills k).isNone && k ∉ given)

/-- Slots for drills of given indexes: index i in partition (p + i) mod 4 (R236). -/
def State.slotsFor (s : State) (core p : Nat) : List Nat → List Nat → Option (List Nat)
  | [], given => some given.reverse
  | i :: rest, given =>
    match s.freeSlot core ((p + i) % 4) given with
    | some k => State.slotsFor s core p rest (k :: given)
    | none => none

/-- Whether a partition has room for the registers of the drills bound to it: one vector granule for every 8 registers of a drill, by R13 and R293's own
example: DEDUCED (log 107), where the pseudocode of R293 says 8. -/
def State.partFits (s : State) (core p : Nat) (r : LaunchRec) (idxs : List Nat) (part : Nat) : Bool :=
  let m := (idxs.filter (fun i => (p + i) % 4 == part)).length
  decide (s.usedIn core part (fun d => d.nv / 8) + m * (r.nv / 8) ≤ Config.vecGranules)
    && decide (s.usedIn core part (fun d => d.nt) + m * r.nt ≤ Config.tileRegs)
    && decide (s.usedIn core part (fun d => d.na) + m * r.na ≤ Config.accRegs)

/-- Barrier objects of a core in use. -/
def State.barriersIn (s : State) (core : Nat) : Nat :=
  s.wgs.foldl (fun n w => if w.2.core = core ∧ w.2.state ≠ .saved then n + w.2.nbar else n) 0

/-- Whether a core takes placements: it denotes a core and its cluster is not gated (R11, R379). -/
def State.open (s : State) (core : Nat) : Bool :=
  !(s.core core).absent && !(s.core core).gatedOff && !(s.core core).draining && (s.core core).repair == 0

/-- The range-lock entries of a workgroup's commands in flight (R219, R275). -/
def State.lockUse (s : State) (wg : Nat) : List Lock :=
  (s.cmds.filter (fun c => c.2.wg == wg)).flatMap (fun c => cmdLocks c.2.asid c.1 (s.rangesOf c.2))

/-- `Fits(c, workgroup)`, the save area and the private areas apart: the slots it gives (R293). `entries` are the range-lock entries a resumed
workgroup brings: the core's table has to have room for them, and none may meet an entry that stands there (R219, R275, R298). DEDUCED (log
77): a core on which speculative lines still hold ways the lines need is passed over until their chunks are stamped or squashed, as one that
cannot take the lines (R270), and one whose entries are met until they are released. -/
def State.fits (s : State) (core : Nat) (r : LaunchRec) (lines : Nat) (idxs : List Nat) (entries : List Lock) : Option (List Nat) :=
  let c := s.core core
  if s.open core && (upto 4).all (s.partFits core c.pointer r idxs) && decide (s.barriersIn core + r.barriers ≤ Config.barriersPerCore)
      && s.locksFree core entries
      && (lines == 0 || (s.canPin core c.rotor 0 lines && s.waysFor core c.rotor 0 lines))
  then s.slotsFor core c.pointer idxs [] else none

/-- Private areas of 2 GiB for n drills, the lowest free (R310). -/
def State.freePrivs (s : State) (asid : Nat) (c : Context) (n : Nat) : Option (List Nat) :=
  let used := (s.wgs.filter (fun w => w.2.asid == asid)).flatMap (fun w => w.2.privs)
  let l := (((upto (min (c.privLen / 2 ^ 31) (used.length + n))).map (fun k => c.privBase + k * 2 ^ 31)).filter (fun a => a ∉ used)).take n
  if l.length = n then some l else none

/-! ### Placing (R24, R196, R236, R270, R292) -/

/-- The registers of a drill at placement (R24). -/
def Regs.placed (entry args : Nat) : Regs :=
  { pc := BitVec.ofNat 64 entry, em := allOnes, stack := [], spilled := 0, v := [], u := Map.put 0 [] 0 (BitVec.ofNat 64 args), p := [], tile := []
    side := [], acc := [], status := 0, seed := 0, round := 0, trapvec := 0, h := false }

/-- A drill at placement. -/
def Drill.placed (r : LaunchRec) (wg index asid launch priv order : Nat) : Drill :=
  { wg := wg, index := index, asid := asid, launch := launch, nv := r.nv, nt := r.nt, na := r.na, priv := priv
    regs := Regs.placed r.entry r.args, chunk := Chunk.fresh (Regs.placed r.entry r.args) 0 limitMax none, older := none, csn := 0
    reg := 0, wait := .none, order := order, waited := 0, yielded := false, inflight := 0, pendingStreams := [], fetched := [] }

/-- The clean tracked lines of an ASID that has come to a core invalidated, and its fills there made stale: the core had no drill of the
ASID but workgroup `id`'s, and so took none of its broadcasts (R244, R261, R291; DEDUCED, log 76). -/
def State.freshTags (s : State) (id core asid : Nat) : State :=
  if s.drills.any (fun d => coreOf d.1 == core && d.2.asid == asid && d.2.wg != id) then s
  else
    { s.setCore core ((s.core core).dropClean (fun x => x.key == asid)) with
      fills := s.fills.map (fun (f : Nat × Fill) => if f.2.core = core ∧ f.2.key = asid then (f.1, { f.2 with stale := true }) else f) }

/-- A core that takes workgroup `id`, of n drills and L lines, in some slots: pointer and rotor advanced, streaming lines of the ASID
invalidated, the words its drills on the core have fetched discarded, with those that stood there before a store stamped so far; the slots are
not those of a drill that has issued (R196, R236, R237, R270, R345). -/
def State.enterCore (s : State) (id core asid n lines : Nat) (slots : List Nat) : State :=
  let c := s.core core
  let c := { c with
    pointer := (c.pointer + n) % 4, rotor := (c.rotor + lines) % Config.l1Sets, last := c.last.filter (fun x => x.2 ∉ slots) }
  let s := (s.setCore core c).invalidateStreams core asid
  { s.freshTags id core asid with
    drills := s.drills.map (fun (d : Nat × Drill) =>
      if coreOf d.1 = core ∧ d.2.asid = asid then (d.1, { d.2 with fetched := [], fenced := s.nextCsn - 1 }) else d) }

/-- The next workgroup of a launch placed on a core, with its slots, save area and private areas. -/
def State.place (s : State) (jsn : Nat) (l : Launch) (core : Nat) (slots : List Nat) (area : Nat) (privs : List Nat) : State :=
  let r := l.record
  let id := s.nextId
  let n := r.drills
  let w : Workgroup :=
    { launch := jsn, asid := l.asid, index := l.next, core := core, state := .resident, slots := (upto n).map (fun i => (i, slots.getD i 0))
      ndrills := n, privs := privs, nbar := r.barriers, barriers := [], size := r.scratch, base := (s.core core).rotor, scratch := []
      sectors := [], nextSeq := 0, preempts := 0, area := area, areaLen := r.areaBytes r.scratch n, kept := [], since := s.clock
      waitsFor := none, spoiled := false }
  let drills := (upto n).foldl (fun m i =>
    Map.set m (slots.getD i 0) (Drill.placed r id i l.asid jsn (privs.getD i 0) s.nextOrder)) s.drills
  let l' := { l with next := l.next + 1, started := true, waiting := s.clock }
  let s := { s with
    nextId := id + 1
    nextOrder := s.nextOrder + 1
    wgs := Map.set s.wgs id w
    drills := drills
    launches := Map.set s.launches jsn l'
    ctxs := Map.update s.ctxs l.asid (fun c =>
      let c := { c.served l.queue with pointer := if r.placemap then c.pointer else core, waiting := s.clock }
      if l'.next = r.total then c.unqueue l jsn else c) }
  let s := if l.started then s else s.setRecord jsn (fun x => { x with state := .started })
  (s.enterCore id core l.asid n r.scratch slots).trimAll core

/-- The cores of a mask in search order, from the one after the pointer (R293). -/
def Context.search (c : Context) : List Nat :=
  ((upto 256).map (fun k => (c.pointer + 1 + k) % 256)).filter (fun k => c.mask.getLsbD k)

/-- The cores on which a launch's next workgroup may go: those of the mask, or that of its placement map, none while the map has still to be read
(R293, R294). -/
def Launch.cores (l : Launch) (c : Context) : List Nat :=
  match l.map with
  | some m => [m.getD l.next 256]
  | none => if l.record.placemap then [] else c.search

/-- The next workgroup of a launch placed, if it fits somewhere now. -/
def State.tryPlace (s : State) (jsn : Nat) : Option State :=
  match Map.find s.launches jsn with
  | none => none
  | some l => match Map.find s.ctxs l.asid with
    | none => none
    | some c =>
      let r := l.record
      let found := (l.cores c).findSome? (fun k => (s.fits k r r.scratch (upto r.drills) []).map (fun x => (k, x)))
      match found, s.freeArea s.nextId l.asid (r.areaBytes r.scratch r.drills), s.freePrivs l.asid c r.drills with
      | some (k, slots), some area, some privs => some (s.place jsn l k slots area privs)
      | _, _, _ => none

/-- n workgroups of a launch placed at one moment, if they all fit (R295). -/
def State.tryPlaceAll (jsn : Nat) : Nat → State → Option State
  | 0, s => some s
  | n + 1, s => match s.tryPlace jsn with
    | some s => State.tryPlaceAll jsn n s
    | none => none

/-! ### A workgroup's end (R278) and kill (R279) -/

/-- Spares of a core's cluster mapped so far. -/
def State.sparesUsed (s : State) (core : Nat) : Nat :=
  s.cores.foldl (fun n c => if c.1 / 32 = core / 32 then n + c.2.spared else n) 0

/-- Whether a core's cluster has a good spare left, of those its core test found at bring-up (R10, R382; log 70). -/
def State.spareLeft (s : State) (core : Nat) : Bool := decide (s.sparesUsed core < Map.get 0 s.mgmt.spares (core / 32))

/-- Whether a core holds no workgroup. -/
def State.coreIdle (s : State) (core : Nat) : Bool := !s.wgs.any (fun w => w.2.core == core && w.2.state != .saved)

/-- A workgroup has left a core. Where that ends a drain, a spare takes the core's number (R366, R370); where the cluster has none left, the
number of a quarantined core denotes no core (R11), and a core drained for repair alone comes back as it was: DEDUCED (log 77). `sr.clock` of the
number counts from the mapping on: the manual does not say when the spare left reset, DESIGN CHOICE (log 78). A gating is looked at again
(R379). -/
def State.drained (s : State) (core : Nat) : State :=
  let c := s.core core
  let s :=
    if c.repair = 0 || !s.coreIdle core then s
    else if s.spareLeft core then
      ((s.setCore core { Core.reset with spared := c.spared + 1, epoch := s.clock, gatedOff := c.gatedOff, draining := c.draining }).event
        0x82 0 core 0).later [.placeWorkgroup]
    else if c.repair = 1 then (s.setCore core { c with repair := 0 }).later [.placeWorkgroup]
    else (s.setCore core { Core.reset with absent := true, spared := c.spared }).later [.placeWorkgroup]
  s.later s.gateEvents

/-- The workgroup gone: its lines, barriers and areas free, its launch told, placements tried. -/
def State.wgGone (s : State) (id : Nat) (w : Workgroup) : State :=
  let s := ({ s with
    wgs := Map.erase s.wgs id
    drills := s.drills.filter (fun d => d.2.wg != id)
    badScratch := s.badScratch.filter (fun q => q.1 != id) }.drained w.core).retryHeld.wakeWays w.core
  let stopped := (s.wgs.filter (fun x => x.2.state == .stopping)).map (fun x => Instr.preempt x.1)
  match Map.find s.launches w.launch with
  | none => s.later [.placeWorkgroup]
  | some l =>
    let l := { l with ended := l.ended + 1 }
    let done := l.ended = l.next ∧ (l.failed.isSome ∨ l.next = l.record.total)
    { s with launches := Map.set s.launches w.launch l }.later
      ((if done then [Instr.launchComplete w.launch] else []) ++ growWaiters s w.core ++ [Instr.placeWorkgroup] ++ stopped)

/-- WORKGROUP_EXIT: after the last drill's exit, and once its commands have completed or failed (R278). -/
def execWorkgroupExit (wg : Nat) (s : State) : Host.Outcome State Fault Refusal :=
  .next (match Map.find s.wgs wg with
    | some w => if w.state = .draining ∧ !s.cmds.any (fun c => c.2.wg == wg) then s.wgGone wg w else s
    | none => s)

/-- A drill's unsent chunks squashed, nothing counted (R279, R298). -/
def State.squashUnsent (s : State) (k : Nat) (d : Drill) : State :=
  match d.older with
  | some o => if o.phase = .requested then s.squashNewer k false else s.squash k false
  | none => s.squashNewer k false

/-- Whether a drill's sent request is undecided. -/
def Drill.sent (d : Drill) : Bool := match d.older with | some o => o.phase == .requested | none => false

/-- The drills of a workgroup. -/
def State.drillsOf (s : State) (wg : Nat) : List (Nat × Drill) := s.drills.filter (fun d => d.2.wg == wg)

/-- A kind of state given to a workgroup. -/
def State.setWgState (s : State) (wg : Nat) (x : WgState) : State :=
  { s with wgs := Map.update s.wgs wg (fun w => { w with state := x }) }

/-- Old values of the uncached atomics of a drill that is gone go nowhere. -/
def State.orphanAtoms (s : State) (k : Nat) : State :=
  let f := fun (g : GrainWrite) => { g with atoms := g.atoms.map (fun (a : AtomOp) => if a.drill = k then { a with drill := 2 ^ 20 } else a) }
  { s with
    homes := s.homes.map (fun (h : Nat × Home) => (h.1, { h.2 with dsb := h.2.dsb.map (fun (e : Deferred) => { e with write := f e.write }) }))
    commits := s.commits.map (fun (c : Commit) => { c with grains := c.grains.map f }) }

/-- The 32-byte grains a command has landed in the scratchpad, or, of a collective whose share is staged, those of the share (R279, R349). -/
def State.grainsDone (s : State) (c : Command) : Nat :=
  match (if c.major = 0x79 ∧ c.op = 4 ∧ c.staged then s.groupOf c else none) with
  | some g =>
    (sectorsOf (c.word 2) (4 * (colResult (c.flags / 2 % 4) (c.flags / 8 % 4) (c.word 3) g.p g.own (c.word 0 / 2 ^ 32 % 2 ^ 16) c.values).length)).length
  | none => c.landed

/-- A command cancelled at a kill: journaled with the grains it had landed or staged, beside the number of its launch, its token signalled with
ERR, code 8 recorded (R279, R368, R369). -/
def State.cancelCmd (s : State) (id : Nat) (c : Command) : State :=
  (s.eventFor c.launch 0x87 c.asid c.pc.toNat (c.token + s.grainsDone c * 2 ^ 16)).failCmd id c 8

/-- WORKGROUP_KILL: unsent chunks squashed, sent ones decided first, commands cancelled, then everything released (R279). -/
def execWorkgroupKill (wg : Nat) (s : State) : Host.Outcome State Fault Refusal :=
  .next (match Map.find s.wgs wg with
    | none => s
    | some w =>
      let s := (s.drillsOf wg).foldl (fun s d => (s.squashUnsent d.1 d.2).dropOp d.1) s
      if w.state ≠ .saved ∧ (s.drillsOf wg).any (fun d => d.2.sent) then (s.setWgState wg .ending).later (s.pushEvents w.asid)
      else
        let s := (s.drillsOf wg).foldl (fun s d => (s.endSolo d.1).orphanAtoms d.1) s
        let s := s.setWgState wg .ending
        let s := s.later (s.pushEvents w.asid)
        let s := (s.cmds.filter (fun c => c.2.wg == wg)).foldl (fun s c => s.cancelCmd c.1 c.2) s
        s.wgGone wg w)

end Sys2Proof.Machine
end

