-- ==== Sys2Proof/Machine/Save.lean ====
section
/-!
DEFINITION. Pre-emption, the save area and resumption (19_launches_and_contexts.md R298 to R303, R274, R275).
-/

namespace Sys2Proof.Machine

open Sys2Proof

/-! ### The image (R300 to R302) -/

/-- Bytes padded with zeros to a multiple of 256. -/
def pad256 (l : List Byte) : List Byte := l ++ List.replicate (roundUp l.length 256 - l.length) 0

/-- The control word of a drill header (R302). -/
def controlWord (d : Drill) : Nat :=
  d.reg.toNat * 2 ^ 48 + d.index * 2 ^ 36 + d.chunk.sq * 2 ^ 33 + (if d.regs.h then 2 ^ 32 else 0) + d.chunk.limit * 2 ^ 19
    + d.regs.depth

/-- The PC a drill saves: that of an instruction whose operation has not been performed, or that waits in it; that of the `chk.beg` of an
explicit chunk; else the chunk's first unit (R298, R302). -/
def Drill.savedPc (d : Drill) : DWord :=
  match d.chunk.after, d.chunk.expl with
  | some _, _ => d.chunk.afterUnit.first
  | none, some e => e.beg
  | none, none => d.regs.pc

/-- A drill's part of the image (R300, R302). -/
def Drill.image (d : Drill) : List Byte :=
  let r := d.regs
  pad256 (toBytes 8 d.savedPc.toNat ++ toBytes 8 r.em.toNat ++ toBytes 8 r.status.toNat ++ toBytes 8 r.seed.toNat ++ toBytes 8 r.round.toNat
      ++ toBytes 8 r.trapvec.toNat ++ toBytes 8 d.csn ++ toBytes 8 (controlWord d))
    ++ (upto (64 * d.nv)).flatMap (fun e => toBytes 4 (Map.get (0 : Word) r.v e).toNat)
    ++ (upto 64).flatMap (fun n => toBytes 8 (r.uniN n))
    ++ pad256 ((upto 15).flatMap (fun n => toBytes 8 (r.pred n).toNat) ++ toBytes 8 0)
    ++ (upto d.nt).flatMap (fun n => (upto 1024).map (r.tileByte n) ++ (upto 256).map (r.sideByte n))
    ++ (upto (1024 * d.na)).flatMap (fun e => toBytes 4 (Map.get (0 : Word) r.acc e).toNat)
    ++ (let l := r.stack.reverse.flatMap StackEntry.bytes
        l ++ List.replicate (1024 - l.length) 0)

/-- A barrier object's 16 bytes (R301). -/
def Barrier.bytes (b : Barrier) : List Byte := toBytes 8 (b.e + b.a.toNat * 2 ^ 16 + b.g.toNat * 2 ^ 32) ++ toBytes 8 0

/-- A range-lock entry's 32 bytes, its token zero under NT (R275). -/
def Lock.bytes (l : Lock) (c : Command) : List Byte :=
  toBytes 8 (1 + (if l.dest then 2 else 0) + c.seq * 4 + c.index * 2 ^ 32 + (if c.flags % 2 = 1 then 0 else c.token) * 2 ^ 36 + l.key * 2 ^ 48)
    ++ toBytes 8 l.base ++ toBytes 8 l.len ++ toBytes 8 0

/-- The range-lock entries of a workgroup's commands on its core, in SEQ order. -/
def State.locksOf (s : State) (wg core : Nat) : List (Lock × Command) :=
  let l := (s.core core).locks.filterMap (fun l => match Map.find s.cmds l.cmd with
    | some c => if c.wg = wg then some (l, c) else none
    | none => none)
  l.foldr (fun x ys => (ys.takeWhile (fun y => decide (y.2.seq < x.2.seq))) ++ x :: (ys.dropWhile (fun y => decide (y.2.seq < x.2.seq)))) []

/-- The scratchpad image: the lines, then four presence bits a line (R274). -/
def Workgroup.scratchImage (w : Workgroup) : List Byte :=
  let bit := fun (q : Nat) => if w.sectors.any (fun x => x == q) then 1 else 0
  (upto (128 * w.size)).map (Memory.get w.scratch)
    ++ (upto ((w.size + 1) / 2)).map (fun j => BitVec.ofNat 8 ((upto 8).foldl (fun x b => x + bit (8 * j + b) * 2 ^ b) 0))

/-- The image of a workgroup with its drills in order of index; a spoiled one is saved with NDRILL = 0 (R300, R301, R366). -/
def Workgroup.image (w : Workgroup) (r : LaunchRec) (locks : List (Lock × Command)) (ds : List Drill) : List Byte :=
  pad256 (toBytes 4 (w.index % r.nx) ++ toBytes 4 (w.index / r.nx % r.ny) ++ toBytes 4 (w.index / r.nx / r.ny)
      ++ toBytes 1 (if w.spoiled then 0 else ds.length) ++ toBytes 1 w.nbar ++ toBytes 2 w.size ++ toBytes 8 w.launch
      ++ toBytes 1 locks.length ++ toBytes 3 0 ++ toBytes 4 w.nextSeq ++ toBytes 8 (w.preempts + 1))
    ++ pad256 w.scratchImage
    ++ pad256 ((upto w.nbar).flatMap (fun n => (w.barrier n).bytes))
    ++ (let l := locks.flatMap (fun x => x.1.bytes x.2)
        l ++ List.replicate (1024 - l.length) 0)
    ++ ds.flatMap Drill.image

/-! ### Access to the save pool -/

/-- Bytes written at their homes by the core, outside any chunk, as a commit's are: a tile of the pool whose header is not identity is fired, a sector
written whole has a good check code again, and one whose code the kiln finds wrong has its event and record (R328, R363, R364; DEDUCED, log
79). DESIGN CHOICE (log 19): a save takes no CSN. -/
def State.saveBytes (s : State) (w : Attr) (asid va : Nat) (bs : List Byte) : State :=
  let x := s.kilnApplyAll s.nextCsn (s.grainsOf asid va 1 w bs)
  if x.2.isEmpty then x.1 else Applied.settle ⟨x.1, x.2, []⟩

/-- Bytes read back, as any reader of the tile sees them (R63, R327; DEDUCED, log 79); none lie in a plot that is not valid. -/
def State.savedBytes (s : State) (asid va n : Nat) : List Byte :=
  (upto n).map (fun k => match s.plotOf asid (va + k) with
    | .desc d => if descValid d then s.seen d (locate d (keyOf asid (va + k)) (va + k)) else 0
    | _ => 0)

/-- One part of a range of the save pool, within one plot: its grains are accessible now. An access to a plot with M set, to a home gated or with
a commit of the grain still to apply, or to a page that is not resident waits; a fatal walk kills the context (R161, R313, R317, R379). A plot that
is not valid is passed over. -/
def State.poolPart (s : State) (w : Attr) (asid : Nat) (p : Nat × Nat) : Got Unit :=
  match s.plotOf asid p.1 with
  | .desc d =>
    if !descValid d then .ok s ()
    else if descM d then .hold s false none
    else (grainPieces (grainSize d) p.1 p.2).foldl (fun r x => r.then (fun s _ =>
      let a := locate d (keyOf asid x.1) (x.1 / grainSize d * grainSize d)
      (s.homeReady w asid a (grainSize d)).attempt s a (.ok s ()))) (.ok s ())
  | .page a => s.nodeHold a
  | .fatal a l => .dies { asid := asid, kind := 4, detail := l, page := a, attr := w, csn := 0 }
  | .bad => .ok s ()

/-- Whether n bytes of the save pool of a workgroup are accessible now. -/
def State.poolReady (s : State) (w : Workgroup) (n : Nat) : Got Unit :=
  let attr := { Attr.device with launch := w.launch }
  (rangeParts w.area n).foldl (fun r p => r.then (fun s _ => s.poolPart attr w.asid p)) (.ok s ())

/-- Bytes of a workgroup's image (R300). -/
def LaunchRec.imageBytes (r : LaunchRec) (w : Workgroup) : Nat := r.areaBytes w.size w.slots.length

/-! ### Pre-emption (R298) -/

/-- Issue stopped for a drill: its unsent chunks squashed; one that waits in the operation of its last instruction has none. A granted
`scr.grow` completes: the image holds the new lines (R176, R203, R298). -/
def State.stopDrill (s : State) (k : Nat) (d : Drill) : State :=
  match d.wait with
  | .grow dst lines => s.setDrill k ((d.opWrite dst (128 * lines)).opDone)
  | _ => if d.chunk.after.isSome then s else s.squashUnsent k d

/-- Whether a command has a scratchpad range (R274). -/
def State.usesScratch (s : State) (c : Command) : Bool := (s.rangesOf c).any (fun r => isScratch r.va && decide (r.n > 0))

/-- Drills in order of index. -/
def byIndex (l : List (Nat × Drill)) : List Drill :=
  l.foldr (fun x ys => (ys.takeWhile (fun y => decide (y.index < x.2.index))) ++ x.2 :: (ys.dropWhile (fun y => decide (y.index < x.2.index)))) []

/-- Whether the image of a workgroup fails a check as its core writes it: what it lost before, or, on a core that is quarantined, a sector of its
scratchpad whose check code fails (R366). -/
def State.imageFails (s : State) (id : Nat) (w : Workgroup) : Bool :=
  w.spoiled || ((s.core w.core).repair == 2 && s.badScratch.any (fun q => q.1 == id))

/-- The workgroup saved in its area, its slots, registers, barriers, lines and entries free (R298 steps 3 and 4). -/
def State.saveWg (s : State) (id : Nat) (w : Workgroup) (r : LaunchRec) (ds : List Drill) : State :=
  let locks := s.locksOf id w.core
  let w := { w with spoiled := s.imageFails id w }
  let s := s.saveBytes { Attr.device with launch := w.launch } w.asid w.area (w.image r locks ds)
  let gone := fun (l : Lock) => locks.any (fun x => x.1 == l)
  let w := { w with
    state := .saved, slots := ds.map (fun d => (d.index, 0)), barriers := [], scratch := [], sectors := [], preempts := w.preempts + 1
    kept := ds.map (fun d => (d.index, { streams := d.pendingStreams })) }
  let s := { s with wgs := Map.set s.wgs id w, drills := s.drills.filter (fun d => d.2.wg != id) }.drained w.core
  let c := s.core w.core
  ((s.setCore w.core { c with locks := c.locks.filter (fun l => !gone l) }).wakeWays w.core).later
    (growWaiters s w.core ++ lockWaiters s w.core ++ [Instr.placeWorkgroup])

/-- A workgroup whose stop is complete saved, once its area is accessible: its event again behind what it awaits, or when that wakes it. -/
def State.savePreempted (s : State) (id : Nat) (w : Workgroup) : State :=
  match Map.find s.launches w.launch with
  | none => s
  | some l =>
    let ds := byIndex (s.drillsOf id)
    match s.poolReady w (l.record.areaBytes w.size ds.length) with
    | .ok s _ => s.saveWg id w l.record ds
    | .hold s again page =>
      let s := s.asked page (.workgroup id)
      if again then s.later [.preempt id] else s
    | .dies x => s.die x
    | .fail _ => s

/-- PREEMPT: issue stops, unsent chunks are squashed, sent ones and commands with scratchpad ranges are awaited, then the workgroup is
saved (R298). -/
def execPreempt (wg : Nat) (s : State) : Host.Outcome State Fault Refusal :=
  .next (s.unlessUpdating (.preempt wg) (match Map.find s.wgs wg with
    | none => s
    | some w =>
      if w.state ≠ .resident ∧ w.state ≠ .stopping then s
      else
        let s := ((s.drillsOf wg).foldl (fun s d => s.stopDrill d.1 d.2) s).setWgState wg .stopping
        let s := s.later (if w.state = .resident then s.pushEvents w.asid else [])
        if (s.drillsOf wg).any (fun d => d.2.sent || d.2.wait == .atom) || s.cmds.any (fun c => c.2.wg == wg && s.usesScratch c.2) then s
        else match Map.find s.wgs wg with
          | some w => s.savePreempted wg w
          | none => s))

/-! ### Resumption (R298, R300, R303) -/

/-- n bytes from an offset of an image, as a number. -/
def imageField (bs : List Byte) (o n : Nat) : Nat := ofBytes ((bs.drop o).take n)

/-- Whether bytes [lo, hi) of an image are zero. -/
def imageZero (bs : List Byte) (lo hi : Nat) : Bool := ((bs.drop lo).take (hi - lo)).all (fun b => b == 0)

/-- A stack entry read back, if it is legal. -/
def entryOf (bs : List Byte) : Option StackEntry :=
  let k := imageField bs 8 8
  let pc := imageField bs 16 8
  if k % 2 ^ 16 ≠ 0 ∨ k / 2 ^ 18 ≠ 0 ∨ k / 2 ^ 16 = 3 ∨ pc % 4 ≠ 0 ∨ pc ≥ 2 ^ 48 ∨ imageField bs 24 8 ≠ 0 then none
  else some { kind := if k / 2 ^ 16 = 0 then .reconverge else if k / 2 ^ 16 = 1 then .pending else .callReturn
              mask := BitVec.ofNat 64 (imageField bs 0 8), pc := BitVec.ofNat 64 pc }

/-- Entries read back, oldest first, turned newest first. -/
def entriesOfImage (bs : List Byte) : Nat → Nat → List StackEntry → Option (List StackEntry)
  | _, 0, out => some out
  | o, n + 1, out =>
    match entryOf ((bs.drop o).take 32) with
    | some e => entriesOfImage bs (o + 32) n (e :: out)
    | none => none

/-- A map listing what differs from the default. -/
def listMap {α : Type} [DecidableEq α] (dflt : α) (l : List α) : Map α :=
  ((upto l.length).zip l).filter (fun x => decide (x.2 ≠ dflt))

/-- 32-bit words of n · 4 bytes of an image. -/
def imageWords (bs : List Byte) (o n : Nat) : Map Word := listMap 0 ((wordsOf ((bs.drop o).take (4 * n))).map (BitVec.ofNat 32))

/-- A drill read back from its part, if every field is legal (R300, R302). No part of the image holds whether its chunk was to be executed again
after a residue mismatch: DESIGN CHOICE (log 86). -/
def drillOf (r : LaunchRec) (w : Workgroup) (id order index : Nat) (bs : List Byte) : Option Drill :=
  let f := fun k => imageField bs (8 * k) 8
  let ctl := f 7
  let depth := ctl % 2 ^ 13
  let limit := ctl / 2 ^ 19 % 2 ^ 13
  let kept := Map.get { streams := [] } w.kept index
  let held := min depth coreHeld
  let oU := 256 + 256 * r.nv
  let oP := oU + 512
  let oT := oP + 256
  let oA := oT + 1280 * r.nt
  let oS := oA + 4096 * r.na
  let legal := f 0 % 4 == 0 && decide (f 0 < 2 ^ 48) && f 1 != 0 && (BitVec.ofNat 64 (f 2) &&& ~~~statusMask) == 0 && decide (f 4 < 6)
    && f 5 % 4 == 0 && decide (f 5 < 2 ^ 48) && ctl / 2 ^ 40 % 2 ^ 8 == 0 && ctl / 2 ^ 36 % 16 == index && decide (ctl / 2 ^ 33 % 8 ≤ 4)
    && ctl / 2 ^ 13 % 2 ^ 6 == 0 && [4096, 2048, 1024, 512, 256].any (fun n => n == limit) && decide (depth ≤ Config.stackEntries)
    && imageZero bs 64 256 && imageZero bs (oP + 120) oT
  match legal, entriesOfImage bs oS held [] with
  | true, some top =>
    let side := (upto r.nt).flatMap (fun n => (bs.drop (oT + 1280 * n + 1024)).take 256)
    let tile := (upto r.nt).flatMap (fun n => (bs.drop (oT + 1280 * n)).take 1024)
    let regs : Regs :=
      { pc := BitVec.ofNat 64 (f 0), em := BitVec.ofNat 64 (f 1), stack := top, spilled := depth - held, v := imageWords bs 256 (64 * r.nv)
        u := listMap 0 ((upto 64).map (fun n => BitVec.ofNat 64 (imageField bs (oU + 8 * n) 8)))
        p := listMap 0 ((upto 15).map (fun n => BitVec.ofNat 64 (imageField bs (oP + 8 * n) 8)))
        tile := listMap 0 tile, side := listMap 0x60 side, acc := imageWords bs oA (1024 * r.na)
        status := BitVec.ofNat 64 (f 2), seed := BitVec.ofNat 64 (f 3), round := BitVec.ofNat 64 (f 4), trapvec := BitVec.ofNat 64 (f 5)
        h := ctl / 2 ^ 32 % 2 == 1 }
    some { Drill.placed r id index w.asid w.launch (w.privs.getD index 0) order with
      regs := regs, chunk := Chunk.fresh regs (ctl / 2 ^ 33 % 8) limit none, csn := f 6, reg := BitVec.ofNat 16 (ctl / 2 ^ 48)
      pendingStreams := kept.streams }
  | _, _ => none

/-- The drills read back, in order of index. -/
def drillsOfImage (r : LaunchRec) (w : Workgroup) (id order : Nat) (bs : List Byte) : Nat → List Nat → Option (List Drill)
  | _, [] => some []
  | o, i :: rest =>
    match drillOf r w id order i (bs.drop o), drillsOfImage r w id order bs (o + r.areaBytes 0 1 - r.areaBytes 0 0) rest with
    | some d, some ds => some (d :: ds)
    | _, _ => none

/-- A barrier object read back, if legal. -/
def barrierOf (bs : List Byte) : Option Barrier :=
  let x := imageField bs 0 8
  if x / 32 % 2 ^ 11 ≠ 0 ∨ x % 32 > 16 ∨ imageField bs 8 8 ≠ 0 then none
  else some { e := x % 32, a := BitVec.ofNat 16 (x / 2 ^ 16), g := BitVec.ofNat 32 (x / 2 ^ 32) }

/-- A range-lock entry read back, if legal: its SEQ and entry (R275). -/
def lockOf (bs : List Byte) : Option (Nat × Lock) :=
  let x := imageField bs 0 8
  if x % 2 = 0 ∨ imageField bs 16 8 = 0 ∨ imageField bs 8 8 ≥ 2 ^ 48 ∨ imageField bs 24 8 ≠ 0 then none
  else some (x / 4 % 2 ^ 30, { cmd := 0, key := x / 2 ^ 48, base := imageField bs 8 8, len := imageField bs 16 8, dest := x / 2 % 2 == 1 })

/-- Consecutive items of a size read back. -/
def itemsOf {α : Type} (f : List Byte → Option α) (size : Nat) (bs : List Byte) : Nat → Nat → Option (List α)
  | _, 0 => some []
  | o, n + 1 =>
    match f ((bs.drop o).take size), itemsOf f size bs (o + size) n with
    | some x, some xs => some (x :: xs)
    | _, _ => none

/-- What an image gives back. -/
structure Restored where
  wg : Workgroup
  drills : List Drill
  locks : List (Nat × Lock)

/-- A workgroup read back from its image, if every field is legal (R300, R301). -/
def restore (r : LaunchRec) (w : Workgroup) (id order : Nat) (bs : List Byte) : Option Restored :=
  let f := imageField bs
  let idxs := w.slots.map (fun x => x.1)
  let lines := f 14 2
  let scr := 128 * lines + (lines + 1) / 2
  let oB := 256 + roundUp scr 256
  let oL := oB + roundUp (16 * w.nbar) 256
  let legal := f 0 4 == w.index % r.nx && f 4 4 == w.index / r.nx % r.ny && f 8 4 == w.index / r.nx / r.ny && f 12 1 == idxs.length
    && !idxs.isEmpty && f 13 1 == w.nbar && lines == w.size && f 16 8 == w.launch && decide (f 24 1 ≤ Config.lockEntries) && f 25 3 == 0
    && decide (f 28 4 < 2 ^ 30) && imageZero bs 40 256
  match legal, itemsOf barrierOf 16 bs oB w.nbar, itemsOf lockOf 32 bs oL (f 24 1), drillsOfImage r w id order bs (oL + 1024) idxs with
  | true, some bars, some locks, some ds =>
    let bytes := (bs.drop 256).take (128 * lines)
    let presence := (bs.drop (256 + 128 * lines)).take ((lines + 1) / 2)
    some
      { wg := { w with
          barriers := (upto bars.length).zip bars, scratch := listMap 0 bytes
          sectors := (upto (4 * lines)).filter (fun q => (presence.getD (q / 8) 0).getLsbD (q % 8)), nextSeq := f 28 4
          preempts := f 32 8, kept := [] }
        drills := ds, locks := locks }
  | _, _, _, _ => none

/-- A saved workgroup on a core again (R298). Entries of commands that have completed since are dropped; the core's table has room for the
others, which meet none that stands there (R219, R275). The pointer moves to the core, as at a placement without a map (R293). -/
def State.resumeWg (s : State) (id : Nat) (w : Workgroup) (r : LaunchRec) (core : Nat) (slots : List Nat) : State :=
  let idxs : List Nat := w.slots.map (fun x => x.1)
  let n := idxs.length
  match restore r w id s.nextOrder (s.savedBytes w.asid w.area (r.imageBytes w)) with
  | none => s.failLaunch w.launch 11
  | some x =>
    let base := (s.core core).rotor
    let locks := x.locks.filterMap (fun l =>
      (s.cmds.find? (fun c => c.2.wg == id && c.2.seq == l.1)).map (fun c => { l.2 with cmd := c.1 }))
    let w' := { x.wg with
      state := .resident, core := core, base := base, since := s.clock, waitsFor := none
      slots := (upto n).map (fun i => (idxs.getD i 0, slots.getD i 0)) }
    let placed : List (Drill × Nat) := x.drills.zip slots
    let s := { s with
      nextOrder := s.nextOrder + 1
      wgs := Map.set s.wgs id w'
      drills := placed.foldl (fun m (d : Drill × Nat) => Map.set m d.2 d.1) s.drills
      launches := Map.update s.launches w.launch (fun l => { l with waiting := s.clock })
      ctxs := Map.update s.ctxs w.asid (fun c =>
        { (match Map.find s.launches w.launch with | some l => c.served l.queue | none => c) with pointer := core, waiting := s.clock }) }
    let s := (s.enterCore id core w.asid w.ndrills w.size slots).trimAll core
    let c := s.core core
    (s.setCore core { c with locks := c.locks ++ locks }).later
      (placed.flatMap (fun (d : Drill × Nat) => if d.1.chunk.sq = 4 then [.soloGrant d.2] else []))

/-- The demand a saved workgroup waits for still stands (R362). -/
def State.stillWaits (s : State) (w : Workgroup) : Bool :=
  match w.waitsFor with
  | some n => (Map.find s.demands n).isSome
  | none => false

/-- Where a saved workgroup would go: the first core of the mask, from the one after the pointer, on which it fits, and the slots there. A
placement map counts no more (R293, R298). -/
def State.resumeAtCore (s : State) (id : Nat) (w : Workgroup) : Option (Nat × List Nat) :=
  match Map.find s.launches w.launch with
  | none => none
  | some l => match Map.find s.ctxs w.asid with
    | none => none
    | some c =>
      if s.stillWaits w then none
      else c.search.findSome? (fun k =>
        (s.fits k l.record w.size (w.slots.map (fun x => x.1)) (s.lockUse id)).map (fun x => (k, x)))

/-- One saved workgroup resumed, if it fits somewhere. -/
def State.tryResume (s : State) (id : Nat) : Option State :=
  match Map.find s.wgs id with
  | none => none
  | some w =>
    if w.state ≠ .saved then none
    else match Map.find s.launches w.launch, s.resumeAtCore id w with
      | some l, some (k, slots) => some (s.resumeWg id w l.record k slots)
      | _, _ => none

/-- Several resumed at one moment, or none. -/
def State.tryResumeAll : List Nat → State → Option State
  | [], s => some s
  | id :: rest, s => match s.tryResume id with
    | some s => State.tryResumeAll rest s
    | none => none

/-- Whether a workgroup's launch is cooperative. -/
def State.coopWg (s : State) (w : Workgroup) : Bool :=
  match Map.find s.launches w.launch with
  | some l => l.record.cooperative
  | none => false

/-- The workgroups pre-empted with one: a cooperative launch's all together (R295, R297). -/
def State.together (s : State) (id : Nat) (w : Workgroup) : List Nat :=
  if s.coopWg w then (s.wgs.filter (fun x => x.2.launch == w.launch && (x.2.state == .resident || x.2.state == .stopping))).map (fun x => x.1)
  else [id]

/-- The workgroups resumed with a saved one, in order of index: it alone, or the saved ones of a cooperative launch, none while one of them has
still to be saved (R295, R296). -/
def State.resumedWith (s : State) (id : Nat) (w : Workgroup) : List Nat :=
  if !s.coopWg w then [id]
  else if s.wgs.any (fun x => x.2.launch == w.launch && x.2.state == .stopping) then []
  else
    let l := s.wgs.filter (fun x => x.2.launch == w.launch && x.2.state == .saved)
    (l.foldr (fun x ys => (ys.takeWhile (fun y => decide (y.2.index < x.2.index))) ++ x :: (ys.dropWhile (fun y => decide (y.2.index < x.2.index)))) []).map
      (fun x => x.1)

/-- A saved workgroup, with those of its cooperative launch, placed again and restored, if they fit (R295, R298). -/
def State.resumeNow (s : State) (id : Nat) : Option State :=
  match Map.find s.wgs id with
  | none => none
  | some w => match s.resumedWith id w with
    | [] => none
    | ids => State.tryResumeAll ids s

/-- The save areas of the workgroups to be resumed with one accessible. -/
def State.poolsReady (s : State) (id : Nat) (w : Workgroup) : Got Unit :=
  match Map.find s.launches w.launch with
  | none => .ok s ()
  | some l => (s.resumedWith id w).foldl (fun r i => r.then (fun s _ => match Map.find s.wgs i with
      | some v => s.poolReady v (l.record.imageBytes v)
      | none => .ok s ())) (.ok s ())

/-- What a resume comes to: done, where the workgroups fit and their images can be read; or they wait (R298, R317, R379). -/
def State.resume (s : State) (id : Nat) : Got Unit :=
  match s.resumeNow id, Map.find s.wgs id with
  | some _, some w => (s.poolsReady id w).then (fun s _ => match s.resumeNow id with
      | some t => .ok t ()
      | none => .hold s false none)
  | _, _ => .hold s false none

/-- RESUME_WORKGROUP: a saved workgroup placed again and restored before it issues; those of a cooperative launch together (R295, R298).
-/
def execResumeWorkgroup (wg : Nat) (s : State) : Host.Outcome State Fault Refusal :=
  .next (s.unlessUpdating (.resumeWorkgroup wg) (match s.resume wg with
    | .ok s _ => s
    | .hold s again page =>
      let s := s.asked page (.workgroup wg)
      if again then s.later [.resumeWorkgroup wg] else s
    | .dies x => s.die x
    | .fail _ => s))

/-- Policy of a workgroup's context. -/
def State.policyOf (s : State) (w : Workgroup) : Nat :=
  match Map.find s.ctxs w.asid with
  | some c => c.policy
  | none => 0

/-- The demand that stands for the page of an address. -/
def State.demandOf (s : State) (a : Nat) : Option Nat :=
  (s.demands.find? (fun c => addrCode c.2.home c.2.table c.2.key c.2.la == s.pageOf a)).map (fun c => c.1)

/-- The demand for the page a drill waits for, in its unit, in the read of a launch record or in an uncached atomic whose old values a home
holds back (R161, R195, R354). -/
def State.waitsOn (s : State) (k : Nat) (d : Drill) : Option Nat :=
  match d.wait, d.chunk.after with
  | .page n, _ => some n
  | .lnch, some (.lnch r _) =>
    let va := d.regs.uniN r
    (match s.plotOf d.asid va with
      | .desc x => s.demandOf (locate x (keyOf d.asid va) va)
      | .page a => s.demandOf a
      | _ => none)
  | .atom, _ => (((s.homes.flatMap (fun h => h.2.dsb)).find? (fun e => e.write.atoms.any (fun a => a.drill == k))).bind
      (fun e => s.demandOf e.write.addr))
  | _, _ => none

/-- PAGE_WAIT_TIMEOUT: a drill has waited 100 µs on a page; its workgroup is pre-empted, unless the policy is 10, and resumed only once the
page is resident (R362). -/
def execPageWaitTimeout (d : Nat) (s : State) : Host.Outcome State Fault Refusal :=
  .next (match Map.find s.drills d with
    | none => s
    | some x => match s.waitsOn d x, Map.find s.wgs x.wg with
      | some n, some w =>
        if s.policyOf w = 2 ∨ w.state ≠ .resident then s
        else { s with wgs := Map.set s.wgs x.wg { w with waitsFor := some n } }.later ((s.together x.wg w).map Instr.preempt)
      | _, _ => s)

end Sys2Proof.Machine
end

