-- ==== Sys2Proof/Machine/Serve.lean ====
section
/-!
DEFINITION. Heads, whom the command processor serves, cooperative launches, priority and time slicing (19_launches_and_contexts.md R289,
R290, R294 to R297; R11).
-/

namespace Sys2Proof.Machine

open Sys2Proof

/-! ### What an idle device holds (R294, R295) -/

/-- The device with no work on it and none of its present cores held back (R295). -/
def State.emptied (s : State) : State :=
  { s with
    drills := [], wgs := [], cmds := []
    cores := s.cores.map (fun (c : Nat × Core) =>
      (c.1, { c.2 with gatedOff := false, draining := false, repair := 0, locks := [] })) }

/-- The same, with room in the pools of a context for any image: what the cores alone can hold (R294). -/
def State.emptiedCores (s : State) (asid : Nat) : State :=
  { s.emptied with ctxs := Map.update s.ctxs asid (fun c => { c with poolBase := 0, poolLen := 2 ^ 64, privBase := 0, privLen := 2 ^ 64 }) }

/-! ### Heads and their checks (R289, R290, R294, R295) -/

/-- A queue's head: its first launch that has not failed. -/
def State.headOf (s : State) (c : Context) (q : Nat) : Option Nat :=
  (c.queue q).find? (fun j => match Map.find s.launches j with | some l => l.failed.isNone | none => false)

/-- Whether the waits of a launch are met, or ERR stands in one of their tokens (R290). -/
def Context.waitsMet (c : Context) (r : LaunchRec) : Bool :=
  r.inForce.all (fun w => decide ((Map.get 0 c.tokens w.1).toNat % 2 ^ 63 ≥ w.2))
def Context.waitErr (c : Context) (r : LaunchRec) : Bool := r.inForce.any (fun w => bitAt (Map.get 0 c.tokens w.1) 63)

/-- A head looked at: failed by an ERR, or made eligible (R290, R296). -/
def State.lookHead (s : State) (jsn : Nat) : State :=
  match Map.find s.launches jsn with
  | none => s
  | some l => match Map.find s.ctxs l.asid with
    | none => s
    | some c =>
      if l.started then s
      else if c.waitErr l.record then s.failLaunch jsn 4
      else if l.eligible || !c.waitsMet l.record then s
      else
        { s with
          launches := Map.set s.launches jsn { l with eligible := true, waiting := s.clock }
          ctxs := Map.set s.ctxs l.asid { c with waiting := s.clock } }

/-- Every head looked at. -/
def State.lookHeads (s : State) : State :=
  s.ctxs.foldl (fun s x => (upto 16).foldl (fun s q =>
    match Map.find s.ctxs x.1 with
    | some c => (match s.headOf c q with | some j => s.lookHead j | none => s)
    | none => s) s) s

/-- The entries of a placement map's bytes. -/
def mapEntries : List Byte → List Nat
  | a :: b :: rest => ofBytes [a, b] :: mapEntries rest
  | _ => []

/-- Whether an entry of a placement map names a core the launch may use. -/
def State.mapEntryOk (s : State) (c : Context) (k : Nat) : Bool := decide (k < 256) && !(s.core k).absent && c.mask.getLsbD k

/-- What the checks before a placement come to: the state they leave, a code, a wait, or a death. -/
inductive HeadCheck where
  | pass (s : State)
  | fail (code : Nat)
  | hold (s : State)
  | dies (x : Death)

/-- The placement map of a launch, read and checked before its first placement (R294). -/
def State.readMap (s : State) (jsn : Nat) (l : Launch) (c : Context) : HeadCheck :=
  if !c.sup || decide (l.record.total > 65536) then .fail 5
  else
    let judge := fun (s : State) (m : List Nat) =>
      if m.all (s.mapEntryOk c) then HeadCheck.pass { s with launches := Map.set s.launches jsn { l with map := some m } } else .fail 5
    match l.map with
    | some m => judge s m
    | none => match s.cpRead { Attr.device with launch := jsn } l.asid l.mapAt (2 * l.record.total) with
      | .ok s bs => judge s (mapEntries bs)
      | .hold s again page =>
        let s := s.asked page (.launch jsn)
        .hold (if again then s.later [.placeWorkgroup] else s)
      | .dies x => .dies x
      | .fail code => .fail code

/-- The placement map looked at before a placement: read before the first; later a core still needed that denotes none any more fails the
launch too (R11, R294). -/
def State.checkMap (s : State) (jsn : Nat) (l : Launch) (c : Context) : HeadCheck :=
  if !l.record.placemap then .pass s
  else if !l.started then s.readMap jsn l c
  else if (match l.map with | some m => (m.drop l.next).any (fun k => (s.core k).absent) | none => false) then .fail 5
  else .pass s

/-- Whether a core of a context's mask is present (R11, R289). -/
def State.maskPresent (s : State) (c : Context) : Bool := (upto 256).any (fun k => c.mask.getLsbD k && !(s.core k).absent)

/-- Whether a whole launch fits a device. -/
def State.holdsWhole (s : State) (jsn : Nat) (r : LaunchRec) : Bool :=
  decide (r.total ≤ Config.cores * Config.slotsPerCore) && (State.tryPlaceAll jsn r.total s).isSome

/-- Whether a cooperative launch could ever be placed: a map that gives a core more than it holds is illegal, and a launch that does not fit the
idle device is too large (R294, R295). -/
def State.checkWhole (s : State) (jsn : Nat) (l : Launch) : HeadCheck :=
  if !l.record.cooperative || l.started then .pass s
  else if l.record.placemap && !(s.emptiedCores l.asid).holdsWhole jsn l.record then .fail 5
  else if !s.emptied.holdsWhole jsn l.record then .fail 7
  else .pass s

/-- The checks before a placement (codes 5, 6, 7). -/
def State.headCheck (s : State) (jsn : Nat) : HeadCheck :=
  match Map.find s.launches jsn with
  | none => .hold s
  | some l => match Map.find s.ctxs l.asid with
    | none => .hold s
    | some c =>
      match s.checkMap jsn l c with
      | .pass s =>
        if !s.maskPresent c then .fail 6
        else match Map.find s.launches jsn with
          | some l => s.checkWhole jsn l
          | none => .hold s
      | h => h

/-! ### Whom to serve (R296, R297) -/

/-- A launch that may be served: its context, queue and priority, and, where it has saved workgroups, the first of them. -/
structure Cand where
  jsn : Nat
  asid : Nat
  queue : Nat
  prio : Nat
  waiting : Nat
  turn : Nat
  saved : Option Nat
  deriving DecidableEq, Repr

/-- The saved workgroup of a launch with the lowest index. -/
def State.firstSaved (s : State) (jsn : Nat) : Option (Nat × Workgroup) :=
  s.wgs.foldl (fun m w =>
    if w.2.launch = jsn ∧ w.2.state = .saved then
      (match m with | some x => if x.2.index ≤ w.2.index then m else some w | none => some w)
    else m) none

/-- Whether a launch is its queue's head, with a workgroup to place. -/
def State.isHead (s : State) (jsn : Nat) : Bool :=
  match Map.find s.launches jsn with
  | none => false
  | some l => match Map.find s.ctxs l.asid with
    | none => false
    | some c => l.eligible && decide (l.next < l.record.total) && s.headOf c l.queue == some jsn

/-- The place of a queue among those of its priority: the lower number first, after a service of one of that priority the next one first
(R296). -/
def Context.turnOf (c : Context) (q : Nat) : Nat :=
  match Map.find c.lastQueue (c.prioOf q) with
  | some x => (q + 15 - x) % 16
  | none => q

/-- The launches to serve: those with saved workgroups, and eligible heads. -/
def State.cands (s : State) : List Cand :=
  s.launches.filterMap (fun x =>
    let l := x.2
    match Map.find s.ctxs l.asid with
    | none => none
    | some c =>
      let saved := (s.firstSaved x.1).map (fun w => w.1)
      if l.failed.isSome || (saved.isNone && !s.isHead x.1) then none
      else some
        { jsn := x.1, asid := l.asid, queue := l.queue, prio := c.prioOf l.queue, waiting := c.waiting
          turn := c.turnOf l.queue, saved := saved })

/-- Whether one is served before another: the higher priority, then the longer wait, then the lower ASID (log 18), then the queue
whose turn it is. -/
def Cand.before (a b : Cand) : Bool :=
  if a.prio ≠ b.prio then decide (a.prio > b.prio)
  else if a.asid ≠ b.asid then decide (a.waiting < b.waiting ∨ (a.waiting = b.waiting ∧ a.asid < b.asid))
  else decide (a.turn ≤ b.turn)

/-- Insertion in the order of service. -/
def Cand.insert (x : Cand) : List Cand → List Cand
  | [] => [x]
  | y :: ys => if x.before y then x :: y :: ys else y :: Cand.insert x ys

/-- The launches in the order of service. -/
def serviceOrder (l : List Cand) : List Cand := l.foldr Cand.insert []

/-- What serving a launch comes to: a workgroup placed or resumed, or the launch failed; or the launch waits, with what its checks left. -/
inductive Served where
  | done (s : State)
  | waits (s : State)

/-- A launch served, if it can be: its saved workgroups resumed first, in order of index; then its next workgroup placed, or the whole of a
cooperative launch. A resume is a placement, and is checked as one (R289, R295, R296, R298). -/
def State.serve (s : State) (x : Cand) : Served :=
  let tried := fun (s : State) (o : Option State) => match o with | some s => Served.done s | none => .waits s
  match x.saved, Map.find s.ctxs x.asid with
  | _, none => .waits s
  | some id, some c =>
    if !s.maskPresent c then .done (s.failLaunch x.jsn 6)
    else match s.resume id with
      | .ok s _ => .done s
      | .hold s again page =>
        let s := s.asked page (.workgroup id)
        .waits (if again then s.later [.placeWorkgroup] else s)
      | .dies y => .done (s.die y)
      | .fail _ => .waits s
  | none, some _ => match s.headCheck x.jsn with
    | .pass s =>
      match Map.find s.launches x.jsn with
      | some l => tried s (if l.record.cooperative then State.tryPlaceAll x.jsn (l.record.total - l.next) s else s.tryPlace x.jsn)
      | none => .waits s
    | .fail code => .done (s.failLaunch x.jsn code)
    | .hold s => .waits s
    | .dies y => .done (s.die y)

/-- The first launch that can be served, served. -/
def State.serveFirst : List Cand → State → Served
  | [], s => .waits s
  | x :: xs, s => match s.serve x with
    | .done s => .done s
    | .waits s => State.serveFirst xs s

/-- Priority of a workgroup's queue. -/
def State.prioOfWg (s : State) (w : Workgroup) : Nat :=
  match Map.find s.launches w.launch, Map.find s.ctxs w.asid with
  | some l, some c => c.prioOf l.queue
  | _, _ => 0

/-! ### Pre-emption for a head (R295, R297) -/

/-- The state as it will be with some workgroups saved. -/
def State.without (s : State) (ids : List Nat) : State :=
  { s with
    drills := s.drills.filter (fun d => d.2.wg ∉ ids)
    wgs := s.wgs.map (fun (w : Nat × Workgroup) => if w.1 ∈ ids then (w.1, { w.2 with state := .saved }) else w) }

/-- The workgroups a head of a priority may pre-empt on some cores, in order: the lowest priority, then the most recent first (R297); of several
that came at one moment, the lowest workgroup number first: DESIGN CHOICE (log 108). -/
def State.victimsOn (s : State) (cores : List Nat) (prio : Nat) : List (Nat × Workgroup) :=
  let l := s.wgs.filter (fun w => w.2.core ∈ cores && w.2.state == .resident && decide (s.prioOfWg w.2 < prio) && decide (s.policyOf w.2 ≤ 1))
  let before := fun (a b : Nat × Workgroup) =>
    decide (s.prioOfWg a.2 < s.prioOfWg b.2) || (s.prioOfWg a.2 == s.prioOfWg b.2 && decide (a.2.since ≥ b.2.since))
  l.foldr (fun x ys => (ys.takeWhile (fun y => !before x y)) ++ x :: (ys.dropWhile (fun y => !before x y))) []

/-- The shortest run of victims on some cores after which `ok` holds, those already stopped there gone first. -/
def State.cutOn (s : State) (cores : List Nat) (prio : Nat) (ok : State → Bool) : Option (List Nat) :=
  let stopped := (s.wgs.filter (fun w => w.2.core ∈ cores && w.2.state == .stopping)).map (fun w => w.1)
  let vs := s.victimsOn cores prio
  (upto (vs.length + 1)).findSome? (fun n =>
    let ids := (vs.take n).flatMap (fun v => s.together v.1 v.2)
    if ok (s.without (stopped ++ ids)) then some ids.dedup else none)

/-- What a head waits to place or to resume on a core: whether it fits there. -/
def State.headFits (s : State) (x : Cand) (l : Launch) (core : Nat) : Bool :=
  let r := l.record
  match x.saved with
  | none => (s.fits core r r.scratch (upto r.drills) []).isSome
  | some id => match Map.find s.wgs id with
    | some w => !s.stillWaits w && (s.fits core r w.size (w.slots.map (fun y => y.1)) (s.lockUse id)).isSome
    | none => false

/-- The cores a head would take next, in order: its mask's for a resume, or those of its next placement. -/
def Cand.cores (x : Cand) (l : Launch) (c : Context) : List Nat := if x.saved.isSome then c.search else l.cores c

/-- The pre-emptions after which the n workgroups of a cooperative launch still to place would all fit at one moment: each is tried as the one
before left the device, and where it fits nowhere, on the core it would take next (R295, R297). `ids` are those found so far. -/
def State.coopCut (jsn prio : Nat) : Nat → State → List Nat → Option (List Nat)
  | 0, _, ids => some ids
  | n + 1, t, ids => match t.tryPlace jsn with
    | some t => State.coopCut jsn prio n t ids
    | none => match Map.find t.launches jsn with
      | none => none
      | some l => match Map.find t.ctxs l.asid with
        | none => none
        | some c => match (l.cores c).findSome? (fun k => t.cutOn [k] prio (fun u => (u.tryPlace jsn).isSome)) with
          | none => none
          | some cut => match (t.without cut).tryPlace jsn with
            | some u => State.coopCut jsn prio n u (ids ++ cut)
            | none => none

/-- The state once the workgroups already stopped are saved. -/
def State.stopsDone (s : State) : State := s.without ((s.wgs.filter (fun w => w.2.state == .stopping)).map (fun w => w.1))

/-- Whether a head's next placement could be made with every workgroup off the cores: what it waits for is room on them, not in its context's pools,
which no pre-emption frees (R293, R297). -/
def State.waitsForCores (s : State) (x : Cand) (l : Launch) : Bool :=
  x.saved.isSome
    || (State.tryPlaceAll x.jsn (if l.record.cooperative then l.record.total - l.next else 1) (s.without (s.wgs.map (fun w => w.1)))).isSome

/-- The pre-emptions for a head that waits: on the core it would take next, or, for a cooperative launch, on those its workgroups would take, until
it fits (R295, R297). -/
def State.preemptFor (s : State) (x : Cand) : List Instr :=
  match Map.find s.launches x.jsn, Map.find s.ctxs x.asid with
  | some l, some c =>
    if !s.isHead x.jsn || !s.waitsForCores x l then []
    else
      let ids := if l.record.cooperative then State.coopCut x.jsn x.prio (l.record.total - l.next) s.stopsDone []
        else (x.cores l c).findSome? (fun k => s.cutOn [k] x.prio (fun t => t.headFits x l k))
      (ids.getD []).map Instr.preempt
  | _, _ => []

/-- PLACE_WORKGROUP: the first launch in the order of service whose next workgroup fits is served; where none fits, heads pre-empt
(R293, R296, R297). -/
def execPlaceWorkgroup (s : State) : Host.Outcome State Fault Refusal :=
  let looked := s.lookHeads
  let order := serviceOrder looked.cands
  .next (s.unlessUpdating .placeWorkgroup (match State.serveFirst order looked with
    | .done s => s.later [.placeWorkgroup]
    | .waits s => s.later ((order.map s.preemptFor).find? (fun l => !l.isEmpty)).toList.flatten))

/-- 2 ms in arithmetic clocks (R16, R297). -/
def sliceClocks : Nat := 6000000

/-- Whether a head's next placement or resume could be made now. -/
def State.placeable (s : State) (x : Cand) : Bool :=
  match x.saved with
  | some id => (s.resumeNow id).isSome
  | none => match Map.find s.launches x.jsn with
    | some l => if l.record.cooperative then (State.tryPlaceAll x.jsn (l.record.total - l.next) s).isSome else (s.tryPlace x.jsn).isSome
    | none => false

/-- The workgroups of other contexts of a priority that a head may displace on a core: one that has run 2 ms, with those pre-empted together
(R297); of several, the one with the lowest workgroup number: DESIGN CHOICE (log 99). -/
def State.displaced (s : State) (x : Cand) (core : Nat) : Option (List Nat) :=
  ((s.wgs.filter (fun w => w.2.core == core && w.2.state == .resident && w.2.asid != x.asid && s.policyOf w.2 == 0
    && s.prioOfWg w.2 == x.prio && decide (s.clock ≥ w.2.since + sliceClocks))).head?).map (fun w => s.together w.1 w.2)

/-- The cores a cooperative head needs beyond what fits, and the workgroups it displaces there, one a core (R295, R297): its n workgroups are tried
one after another, each as the one before left the device; `used` are the cores on which one has been displaced, `fuel` bounds the tries. -/
def State.coopSlice (x : Cand) : Nat → Nat → State → List Nat → List Nat
  | 0, _, _, _ => []
  | _, 0, _, _ => []
  | fuel + 1, n + 1, t, used => match t.tryPlace x.jsn with
    | some t => State.coopSlice x fuel n t used
    | none => match Map.find t.launches x.jsn, Map.find t.ctxs x.asid with
      | some l, some c =>
        (match (l.cores c).findSome? (fun k => if k ∈ used then none else (t.displaced x k).map (fun ids => (k, ids))) with
        | some (k, ids) => ids ++ State.coopSlice x fuel (n + 1) (t.without ids) (k :: used)
        | none => [])
      | _, _ => []

/-- Whether a launch has waited 2 ms since its head became eligible or since its last placement or resume (R297). -/
def State.waitedLong (s : State) (x : Cand) : Bool :=
  match Map.find s.launches x.jsn with
  | some l => decide (s.clock ≥ l.waiting + sliceClocks)
  | none => false

/-- TIME_SLICE: for each head that has waited 2 ms, one workgroup of another context of equal priority that has run 2 ms is pre-empted
on each core needed (R297). -/
def execTimeSlice (s : State) : Host.Outcome State Fault Refusal :=
  let long := (serviceOrder s.cands).filter (fun x => s.isHead x.jsn && s.waitedLong x)
  .next (s.unlessUpdating .timeSlice (s.later (long.flatMap (fun x =>
    match Map.find s.launches x.jsn, Map.find s.ctxs x.asid with
    | some l, some c =>
      if s.placeable x || !s.waitsForCores x l then []
      else if l.record.cooperative then
        let n := l.record.total - l.next
        (State.coopSlice x (n + 256) n s.stopsDone []).dedup.map Instr.preempt
      else match (x.cores l c).findSome? (s.displaced x) with
        | some ids => ids.map Instr.preempt
        | none => []
    | _, _ => []))))

end Sys2Proof.Machine
end

