-- ==== Sys2Proof/Machine/Paging.lean ====
section
/-!
DEFINITION. Page tables, frames and the paging agent (20_plots_and_translation.md R311 to R318; R323, R352, R360, R361, R371).
-/

namespace Sys2Proof.Machine

open Sys2Proof

/-! ### Frames and nodes (R311, R312, R315) -/

/-- A page: its address code, and whether it is a large page of 2 MiB. -/
structure Page where
  a : Nat
  large : Bool
  deriving DecidableEq, Repr

def Page.home (p : Page) : Nat := codeHome p.a
def Page.bytes (p : Page) : Nat := if p.large then 2097152 else 65536
def Page.frames (p : Page) : Nat := if p.large then 32 else 1

/-- Whether an address code lies in a page. -/
def Page.has (p : Page) (a : Nat) : Bool := decide (p.a ≤ a) && decide (a < p.a + p.bytes)

/-- The key of the entry of a level over a page. -/
def Page.key (p : Page) (level : Nat) : Nat := ptKey (codeHome p.a) (codeTable p.a) (codeKey p.a) level (codeLa p.a)

/-- The level of a page's own entry. -/
def Page.level (p : Page) : Nat := if p.large then 3 else 4

/-- The home and level that the key of an entry names. -/
def ptHome (k : Nat) : Nat := k / 2 ^ 56
def ptLevel (k : Nat) : Nat := k / 2 ^ 36 % 8

/-- The frame-owner entry of a frame of a home (R315): those of the pinned table area carry NODE, and are no part of State's map. -/
def State.ownerOf (s : State) (h f : Nat) : DWord :=
  if f ≥ Config.tableFrames then 5 else Map.get 0 s.owners (h * 2 ^ 20 + f)

/-- The frame-owner entry of a page's n-th frame: KEY, PAGE, I and V (R315). A large page's frames each name their own 64 KiB of it: DESIGN
CHOICE (log 21). -/
def Page.owner (p : Page) (n : Nat) : DWord :=
  BitVec.ofNat 64 (1 + 2 * codeTable p.a + (codeLa p.a / 65536 + n) * 2 ^ 16 + codeKey p.a * 2 ^ 48)

/-- The owner entries of a page's frames recorded, from a first frame (R315, R316). -/
def State.recordOwner (s : State) (p : Page) (frame : Nat) : State :=
  { s with owners := (upto p.frames).foldl (fun m n => Map.put 0 m (p.home * 2 ^ 20 + frame + n) (p.owner n)) s.owners }

/-- The owner entries of frames from a first one on freed. -/
def State.freeOwner (s : State) (p : Page) (frame : Nat) : State :=
  { s with owners := s.owners.filter (fun e => !(decide (p.home * 2 ^ 20 + frame ≤ e.1) && decide (e.1 < p.home * 2 ^ 20 + frame + p.frames))) }

/-- The frames owned at a home. -/
def State.owned (s : State) (h : Nat) : List Nat :=
  (s.owners.filter (fun e => e.1 / 2 ^ 20 == h && bitAt e.2 0)).map (fun e => e.1 % 2 ^ 20)

/-- The lowest free frame, or run of n frames at a multiple of n (R315). DESIGN CHOICE (log 22): the lowest. -/
def State.freeFrame (s : State) (h n : Nat) : Option Nat :=
  let used := s.owned h
  let ok := fun (f : Nat) => decide (f + n ≤ Config.tableFrames) && !used.any (fun u => overlap f n u 1)
  ((0 :: used.map (fun u => roundUp (u + 1) n)).filter ok).foldl (fun m f => match m with | none => some f | some g => some (min f g)) none

/-- An interior entry for a node at a number of 256-byte units of the table area: frames from 160 on (log 5). -/
def interiorEntry (unit : Nat) : DWord :=
  BitVec.ofNat 64 (3 + unit % 256 * 2 ^ 8 + (Config.tableFrames + 160 + unit / 256) * 2 ^ 16)

/-- A page entry (R312). -/
def pageEntry (res large : Bool) (frame loc : Nat) : DWord :=
  BitVec.ofNat 64 (1 + (if res then 2 else 0) + (if large then 4 else 0) + (if res then frame * 2 ^ 16 else loc * 2 ^ 40))

/-- The levels above a page's entry. -/
def Page.interior (p : Page) : List Nat := if p.large then [1, 2] else [1, 2, 3]

/-- Units of 256 bytes that a node named by an entry of a level takes: 4 KiB, or 256 B for one of level 4. -/
def nodeUnits (level : Nat) : Nat := if level = 3 then 1 else 16

/-- The units in use after a node of a level is given the next ones. -/
def nodeAfter (used level : Nat) : Nat := roundUp used (nodeUnits level) + nodeUnits level

/-- Units of 256 bytes that a page's missing nodes take at most. -/
def State.nodesFor (s : State) (p : Page) : Nat :=
  (p.interior.filter (fun l => !entV (Map.get 0 s.pt (p.key l)))).foldl nodeAfter (s.home p.home).nodes - (s.home p.home).nodes

/-- Whether a home has room for the nodes a page lacks, beside the header blocks it has and owes (R311, R315, R381). -/
def State.nodesFit (s : State) (p : Page) : Bool :=
  ((s.home p.home).withBlocks (s.blocksOwed p.home)).nodeRoom s.mgmt.hdrres (s.nodesFor p)

/-- A page's missing interior entries written, each naming a new node. -/
def State.makeNodes (s : State) (p : Page) : State :=
  p.interior.foldl (fun s l =>
    if entV (Map.get 0 s.pt (p.key l)) then s
    else
      let hm := s.home p.home
      let unit := roundUp hm.nodes (nodeUnits l)
      ({ s with pt := Map.put 0 s.pt (p.key l) (interiorEntry unit) }).setHome p.home { hm with nodes := nodeAfter hm.nodes l }) s

/-- A page's own entry. -/
def State.entryOf (s : State) (p : Page) : DWord := Map.get 0 s.pt (p.key p.level)

/-- A page's own entry written. -/
def State.setEntry (s : State) (p : Page) (e : DWord) : State := { s with pt := Map.put 0 s.pt (p.key p.level) e }

/-- Whether a page has a valid entry at its home: of its own size. -/
def State.mapped (s : State) (p : Page) : Bool :=
  let e := s.entryOf p
  entV e && (if p.large then entLarge e else entV (Map.get 0 s.pt (p.key 3)) && !entLarge (Map.get 0 s.pt (p.key 3)))

/-- Whether something maps a part of a page already: an entry of its own, a large page over it, or a node of small pages under it. -/
def State.taken (s : State) (p : Page) : Bool := entV (s.entryOf p) || entLarge (Map.get 0 s.pt (p.key 3))

/-- The page an address code lies in. -/
def State.pageAt (s : State) (a : Nat) : Page :=
  if (s.leaf a).2 then { a := a / 2097152 * 2097152, large := true } else { a := a / 65536 * 65536, large := false }

/-! ### The bytes of a page -/

/-- Lines of a page that are newer at the memory side written back, and its tags dropped (R314). -/
def State.flushPage (s : State) (p : Page) : State :=
  (s.writeBack p.has).dropLines p.home (fun l => p.has (l * 512))

/-- Where a locator's page lies in `State.backing`. -/
def backingAt (loc : Nat) : Nat := loc / 2 ^ 20 * 2 ^ 36 + loc % 2 ^ 20 * 2 ^ 16

/-- A page's bytes fetched from a locator (R360). A large page takes 32 consecutive pages of its source: DESIGN CHOICE (log 23). -/
def State.fetchPage (s : State) (p : Page) (loc : Nat) : State :=
  if loc = 0xFFFFFF then
    { s with newer := s.newer.filter (fun c => !p.has c.1), bad := s.bad.filter (fun q => !p.has (32 * q))
             bulk := s.bulk.filter (fun c => !p.has c.1) }
  else
    let src := s.backing.filter (fun c => decide (backingAt loc ≤ c.1) && decide (c.1 < backingAt loc + p.bytes))
    { s with newer := s.newer.filter (fun c => !p.has c.1), bad := s.bad.filter (fun q => !p.has (32 * q))
             bulk := src.foldl (fun m c => Memory.put m (p.a + (c.1 - backingAt loc)) c.2) (s.bulk.filter (fun c => !p.has c.1)) }

/-- A page's bytes copied to the backing page of a locator (R316). -/
def State.copyOut (s : State) (p : Page) (loc : Nat) : State :=
  if loc = 0xFFFFFF then s
  else
    let rest := s.backing.filter (fun c => !(decide (backingAt loc ≤ c.1) && decide (c.1 < backingAt loc + p.bytes)))
    { s with backing := (s.bulk.filter (fun c => p.has c.1)).foldl (fun m c => Map.put 0 m (backingAt loc + (c.1 - p.a)) c.2) rest }

/-! ### Residency (R316, R352) -/

/-- The deferred entries of a page replayed in CSN order at priority 1, each with a record for each sector (R352). -/
def State.replayPage (s : State) (p : Page) : Applied :=
  let hm := s.home p.home
  let es := hm.dsb.filter (fun e => p.has e.write.addr)
  let s := s.setHome p.home { hm with dsb := hm.dsb.filter (fun e => !p.has e.write.addr) }
  es.foldl (fun (x : Applied) e =>
    let g := { e.write with prio := 1 }
    let recs := x.s.sectorRecs 2 e.csn 0 g
    let y := x.s.kilnApply e.csn g
    ⟨y.1.later (y.1.ackEvents p.home e.csn), x.recs ++ recs ++ y.2, x.fatal⟩) ⟨s, [], []⟩

/-- The demands for a page that stand, by number. -/
def State.demandsOf (s : State) (p : Page) : List Nat :=
  (s.demands.filter (fun d => p.has (addrCode d.2.home d.2.table d.2.key d.2.la))).map (fun d => d.1)

/-- Demands answered: gone, everything that waits for them or for room at a home tried again, and the agent on to the demands that are then
first at their homes (R353, R360). -/
def State.answered (s : State) (ns : List Nat) : State :=
  let homes := ((s.demands.filter (fun d => d.1 ∈ ns)).map (fun d => d.2.home)).dedup
  let s := { s with demands := s.demands.filter (fun d => d.1 ∉ ns) }
  (s.later (homes.flatMap (demandEvents s))).stir (fun w => match w with
    | .page n => n ∈ ns
    | .lnch | .room => true
    | _ => false)

/-- What waits for the walks of a home where MIG has cleared: the commits it has still to apply, the prefetches whose walk met MIG, the write-backs
of `flr` behind those commits (R175, R313). -/
def State.migEvents (s : State) (h : Nat) : List Instr :=
  s.applyEvents h
    ++ (s.fills.filter (fun f => f.2.mig && codeHome (locate f.2.desc f.2.key f.2.va) == h)).map (fun f => Instr.walkRestart f.1)
    ++ (s.drills.filter (fun d => match d.2.wait with | .flr _ _ => true | _ => false)).map (fun d => Instr.flrWriteBackDone d.1)

/-- A page made resident in a frame from its locator, its deferred stores replayed, what waits for it released. -/
def State.makeResident (s : State) (p : Page) (frame : Nat) : State :=
  let loc := entLoc (s.entryOf p)
  let s := ((s.fetchPage p loc).recordOwner p frame).setEntry p (pageEntry true p.large frame 0)
  let s := { s with origins := if loc = 0xFFFFFF then Map.erase s.origins p.a else Map.set s.origins p.a loc }
  let ns := s.demandsOf p
  let s := (s.replayPage p).settle.wakeAtoms
  ((s.later (s.migEvents p.home)).answered ns).stir (fun w => w == .migrating)

/-- Whether a page holds deferred stores. -/
def State.hasEntries (s : State) (p : Page) : Bool := (s.home p.home).dsb.any (fun e => p.has e.write.addr)

/-- The first sector of a page whose check code fails where it leaves (R363). -/
def State.badIn (s : State) (p : Page) : Option Nat := s.bad.find? (fun q => p.has (32 * q))

/-- A resident page evicted to a locator: written back, copied, its frame free. What core L1s hold clean of it stays theirs, and stays
as it was. -/
def State.evictTo (s : State) (p : Page) (loc : Nat) : State :=
  let s := (((s.flushPage p).copyOut p loc).freeOwner p (entFrame (s.entryOf p))).setEntry p (pageEntry false p.large 0 loc)
  { s with origins := Map.erase s.origins p.a }

/-- The event of an abandoned eviction (R363). -/
def State.egressEvent (s : State) (p : Page) (q : Nat) : State := s.event 0x8A 0 p.home (codeLa (32 * q))

/-- The page whose frame a frame of a home is, if it is one that the agent may evict: one it made resident from a backing source, without
entries (R360). -/
def State.evictable (s : State) (h f : Nat) : Option (Page × Nat) :=
  s.origins.findSome? (fun o =>
    let p := s.pageAt o.1
    let f0 := entFrame (s.entryOf p)
    if p.home = h ∧ f0 ≤ f ∧ f < f0 + p.frames ∧ !s.hasEntries p then some (p, o.2) else none)

/-- The pages to evict, each with its locator, so that a run of n frames from f is free; none where some page there may not be evicted. -/
def State.clearRun (s : State) (h n f : Nat) : Option (List (Page × Nat)) :=
  let used := (s.owned h).filter (fun u => decide (f ≤ u) && decide (u < f + n))
  let pages := used.map (s.evictable h)
  if pages.all Option.isSome then some (pages.filterMap id).dedup else none

/-- The runs of frames that a page could take in which the agent's own pages stand, in order of those pages' addresses. -/
def State.agentRuns (s : State) (p : Page) : List Nat :=
  ((s.origins.filter (fun o => (s.pageAt o.1).home = p.home)).map (fun o => entFrame (s.entryOf (s.pageAt o.1)) / p.frames * p.frames)).dedup

/-- The first of some runs of frames that the agent's evictions free for a page, and the evictions made (R360). An eviction that meets a check code
that fails is abandoned, its page stays resident, and event 0x8A is journaled (R363); the agent goes on to the next run. DESIGN CHOICE (log 24):
which run is taken, and that none of a run's pages leaves where one of them cannot. -/
def State.evictRuns (p : Page) : List Nat → State → State × Option Nat
  | [], s => (s, none)
  | f :: fs, s => match s.clearRun p.home p.frames f with
    | none => State.evictRuns p fs s
    | some vs => match vs.findSome? (fun v => (s.badIn v.1).map (fun q => (v.1, q))) with
      | some (v, q) => State.evictRuns p fs (s.egressEvent v q)
      | none =>
        let s := vs.foldl (fun s v => s.evictTo v.1 v.2) s
        (s, s.freeFrame p.home p.frames)

/-- A frame for a page, evictions by the agent made for it, over a linked port, where none is free (R15, R360). -/
def State.agentFrame (s : State) (p : Page) : State × Option Nat :=
  match s.freeFrame p.home p.frames with
  | some f => (s, some f)
  | none => if s.linked then State.evictRuns p (s.agentRuns p) s else (s, none)

/-! ### The paging agent's events (R360, R361) -/

/-- The page of a demand. -/
def Demand.code (d : Demand) : Nat := addrCode d.home d.table d.key d.la

/-- The context of an asker of a page, if the asker still needs it: a drill that waits for room or for its launch record, or whose chunk a home with
no room for its write of the page has refused; a command in flight; a launch, a workgroup to be saved or resumed, a replay or records under way. -/
def State.asks (s : State) (p : Page) : Asker → Option Nat
  | .drill k wg => (Map.find s.drills k).bind (fun d =>
      let refused := match d.older with
        | some o => (match o.phase with | .preparing hs => hs.any (fun h => h == p.home) && (d.grainWrites k o.chunk).any (fun g => p.has g.addr) | _ => false)
        | none => false
      if d.wg = wg ∧ (d.wait = .room ∨ d.wait = .lnch ∨ refused = true) then some d.asid else none)
  | .engine id => (Map.find s.cmds id).map (fun c => c.asid)
  | .launch jsn => (Map.find s.launches jsn).bind (fun l => if l.failed.isNone ∧ l.map.isNone then some l.asid else none)
  | .workgroup id => (Map.find s.wgs id).bind (fun w => if w.state = .stopping ∨ w.state = .saved then some w.asid else none)
  | .context asid => (Map.find s.ctxs asid).bind (fun c => if c.replay.isSome ∨ s.records.any (fun r => r.asid == asid) then some asid else none)

/-- The contexts that need the page of a demand now: those with a store deferred on it, with a drill that waits for it or a workgroup saved because of
such a drill, and those of its askers (R360, R361, R362). -/
def State.needing (s : State) (n : Nat) (d : Demand) : List Nat :=
  let p := s.pageAt d.code
  (((s.home d.home).dsb.filter (fun e => p.has e.write.addr)).map (fun e => e.write.asid)
    ++ (s.drills.filter (fun x => x.2.wait == .page n)).map (fun x => x.2.asid)
    ++ (s.wgs.filter (fun w => w.2.waitsFor == some n)).map (fun w => w.2.asid)
    ++ d.askers.filterMap (s.asks p)).dedup

/-- A page whose backing is invalid (DETAIL 1) or unreachable (2): every context that needs it dies; the host's commands that need it are told (R361,
R346). -/
def State.losePage (s : State) (n : Nat) (d : Demand) (detail : Nat) : State :=
  let needing := s.needing n d
  let s := { s with
    demands := Map.erase s.demands n
    held := s.held.map (fun (p : Pending) => if p.demand = some n then { p with lost := true } else p) }
  let next := demandEvents s d.home
  let s := needing.foldl (fun s asid =>
    s.die { asid := asid, kind := 3, detail := detail, page := d.code, attr := Attr.device, csn := 0 }) s
  (s.answered [n]).later next

/-- The state of a demand's page that the agent meets: its locator where it is valid and not resident, whatever its MIG. -/
def State.awaited (s : State) (d : Demand) : Option Nat :=
  let e := (s.leaf d.code).1
  if entV e && !entRes e && !(s.walk d.code matches .fatal _) then some (entLoc e) else none

/-- Whether a locator's page comes over a port (R360). -/
def needsPort (loc : Nat) : Bool := loc != 0xFFFFFF

/-- PAGE_FETCH_COMPLETE: the agent has the page of the demand it has come to at the home, over a linked port where it lies at a source; it is
made resident where a frame can be had (R15, R360). -/
def execPageFetchComplete (demand : Nat) (s : State) : Host.Outcome State Fault Refusal :=
  .next (s.unlessUpdating (.pageFetchComplete demand) (match Map.find s.demands demand with
    | none => s
    | some d =>
      if (s.home d.home).gated || s.firstDemand d.home != some demand then s
      else match s.awaited d with
        | some loc =>
          if !s.locValid loc then s.losePage demand d 1
          else if needsPort loc && !s.linked then s
          else match s.agentFrame (s.pageAt d.code) with
            | (s, some f) => s.makeResident (s.pageAt d.code) f
            | (s, none) => s
        | none => s.answered [demand]))

/-- BACKING_TIMEOUT: the first time the agent retries; the second time the source is unreachable (R360). -/
def execBackingTimeout (demand : Nat) (s : State) : Host.Outcome State Fault Refusal :=
  .next (s.unlessUpdating (.backingTimeout demand) (match Map.find s.demands demand with
    | none => s
    | some d =>
      if s.firstDemand d.home != some demand then s
      else match s.awaited d with
        | some _ =>
          if d.retried then s.losePage demand d 2
          else { s with demands := Map.set s.demands demand { d with retried := true } }.later [.pageFetchComplete demand]
        | none => s.answered [demand]))

/-- BACKING_NO_SUCH_PAGE: the locator is invalid, without a retry; where it names a source, that has answered over a linked port (R15, R360). -/
def execBackingNoSuchPage (demand : Nat) (s : State) : Host.Outcome State Fault Refusal :=
  .next (s.unlessUpdating (.backingNoSuchPage demand) (match Map.find s.demands demand with
    | none => s
    | some d =>
      if s.firstDemand d.home != some demand then s
      else match s.awaited d with
        | some loc => if s.locValid loc && !(needsPort loc && s.linked) then s else s.losePage demand d 1
        | none => s.answered [demand]))

/-! ### Page operations (R315, R316) -/

/-- The reason a page operation is refused, the lowest number first (R315). -/
def State.refusal (s : State) (op : Nat) (p : Page) (fresh : Bool) : Option Nat :=
  let shared := if codeTable p.a = 0 then codeLa p.a ≥ 0xF00000000000 else codeLa p.a / 2 ^ 41 % 16 == 15
  let room := s.nodesFit p
  let noFrame := (s.freeFrame p.home p.frames).isNone
  if op = 0 ∧ ((fresh && noFrame) || !room) then some 1
  else if op = 1 && s.mapped p && !entRes (s.entryOf p) && noFrame then some 1
  else if op = 0 ∧ s.taken p then some 2
  else if codeKey p.a = 0 ∧ !shared then some 3
  else if codeKey p.a ≠ 0 ∧ shared then some 4
  else if op ≠ 0 ∧ !s.mapped p then some 5
  else none

/-- A page mapped: resident in a fresh frame that reads as zero, or with a locator. -/
def State.mapPage (s : State) (p : Page) (frame : Option Nat) (loc : Nat) : State :=
  let s := s.makeNodes p
  match frame with
  | some f => ((s.fetchPage p 0xFFFFFF).recordOwner p f).setEntry p (pageEntry true p.large f 0)
  | none => s.setEntry p (pageEntry false p.large 0 loc)

/-- MIG set on a page's own entry, or cleared (R316). -/
def State.setMig (s : State) (p : Page) (b : Bool) : State :=
  let e := s.entryOf p
  s.setEntry p (if b then e ||| 8 else e &&& ~~~(8 : DWord))

/-- The operation on a page over: MIG clear, and what has waited for that tried again (R313, R316). -/
def State.migDone (s : State) (p : Page) : State :=
  if entMig (s.entryOf p) then ((s.setMig p false).later (s.migEvents p.home)).stir (fun w => w == .migrating) else s

/-- A page unmapped: written back, its owner entry, its entry and header block gone (R315, R316, R323). -/
def State.unmapPage (s : State) (p : Page) : State :=
  let s := if entRes (s.entryOf p) then s.freeOwner p (entFrame (s.entryOf p)) else s
  let s := (s.flushPage p).setEntry p 0
  let hm := s.home p.home
  let s := s.setHome p.home { hm with blocks := hm.blocks.filter (fun b => !p.has (b.page * 65536)) }
  { s with headers := s.headers.filter (fun x => !p.has x.1), origins := Map.erase s.origins p.a }

/-! ### Moves (R317, R318) and cache banks (R371) -/

/-- FRAME_MOVE: a resident page moved to another free frame of its stack; no value changes (R318). A gated stack keeps its
frames until it is restored (R379). -/
def execFrameMove (home : Nat) (table : Nat) (key : Nat) (la : Nat) (s : State) : Host.Outcome State Fault Refusal :=
  .next (if (s.home home).gated then s
    else match s.walk (addrCode home table key la) with
    | .page true _ _ =>
      let p := s.pageAt (addrCode home table key la)
      match s.freeFrame p.home p.frames with
      | some f => (((s.flushPage p).freeOwner p (entFrame (s.entryOf p))).recordOwner p f).setEntry p (pageEntry true p.large f 0)
      | none => s
    | _ => s)

/-- The parts of a plot under a HOME: code of the first byte and bytes (R309). -/
def plotParts (key plot h : Nat) : List (Nat × Nat) :=
  if h ≤ 7 then [(addrCode h 0 key (plot * 65536), 65536)]
  else (upto 8).map (fun n => (addrCode n 1 key (plot * 8192), 8192))

/-- A descriptor with another HOME. -/
def withHome (d : DWord) (h : Nat) : DWord := (d &&& ~~~((15 : DWord) <<< 16)) ||| (BitVec.ofNat 64 h <<< 16)

/-- Whether an old home is done with a plot: the command that set M complete, so that no core uses an older descriptor, no chunk that has used it
left unstamped, every commit of its grains applied, every deferred store replayed (R308, R317). -/
def State.plotQuiet (s : State) (key plot : Nat) : Bool :=
  !s.commits.any (fun c => (!c.homes.isEmpty || !c.cores.isEmpty)
      && c.plot.any (fun u => u.1 == key && decide (u.2.1 ≤ plot) && decide (plot < u.2.1 + u.2.2)))
    && !s.drills.any (fun d => d.2.chunk.usesPlot (key, plot, 1) || d.2.older.any (fun o => o.chunk.usesPlot (key, plot, 1)))
    && !s.commits.any (fun c => !c.homes.isEmpty && c.grains.any (fun g => g.key == key && g.va / 65536 == plot))
    && !s.homes.any (fun h => h.2.dsb.any (fun e => e.write.key == key && e.write.va / 65536 == plot))

/-- The plots that have bytes in a page. -/
def Page.plots (p : Page) : List Nat :=
  if codeTable p.a = 0 then (upto p.frames).map (fun n => codeLa p.a / 65536 + n)
  else (upto (8 * p.frames)).map (fun n => codeLa p.a / 8192 + n)

/-- Whether a plot other than one lies in a page by its descriptor; one whose descriptor cannot be read counts as lying there. -/
def State.pageShared (s : State) (p : Page) (plot : Nat) : Bool :=
  p.plots.any (fun q => q != plot && (match s.plotOf (codeKey p.a) (q * 65536) with
    | .desc d => descValid d && decide ((dfield d 16 4 = 8) = (codeTable p.a = 1)) && (dfield d 16 4 == 8 || dfield d 16 4 == p.home)
    | _ => true))

/-- A plot-table node that has to be read before it is known which plots lie in some pages, and cannot be read yet. -/
def State.unknownPlot (s : State) (ps : List Page) : Option Nat :=
  ps.findSome? (fun p => p.plots.findSome? (fun q => match s.plotOf (codeKey p.a) (q * 65536) with | .page a => some a | _ => none))

/-- Pages mapped at the new homes of a plot, with fresh frames where none is mapped; none where a frame, or room for nodes, is
lacking, or where a page operation has set MIG. -/
def State.mapParts : List (Nat × Nat) → State → Option State
  | [], s => some s
  | (a, _) :: rest, s =>
    match s.walk a with
    | .page _ _ _ => State.mapParts rest s
    | .migrating => none
    | .fatal _ =>
      let p : Page := { a := a / 65536 * 65536, large := false }
      match s.freeFrame p.home 1 with
      | some f => if s.nodesFit p then State.mapParts rest (s.mapPage p (some f) 0) else none
      | none => none

/-- The bytes, check codes and headers of a plot carried from its old places to the new ones, in place of whatever stood there. -/
def State.carryPlot (s : State) (key plot : Nat) (d : DWord) (target : Nat) : State :=
  let d' := withHome d target
  let old := plotParts key plot (dfield d 16 4)
  let new := plotParts key plot target
  let lies := fun (l : List (Nat × Nat)) (a : Nat) => l.any (fun x => decide (x.1 ≤ a) && decide (a < x.1 + x.2))
  let dst := fun (a : Nat) => locate d' key (codeVa a)
  let s := (s.writeBack (lies old)).discard (lies new)
  let s := ((old ++ new).map (fun x => codeHome x.1)).foldl (fun s h => s.dropLines h (fun l => lies (old ++ new) (l * 512))) s
  let hs := s.headers.filter (fun x => lies old x.1)
  let s := { s with
    bulk := (s.bulk.filter (fun c => lies old c.1)).foldl (fun m c => Memory.put m (dst c.1) c.2)
      (s.bulk.filter (fun c => !lies (old ++ new) c.1))
    bad := (s.bad.filter (fun q => !lies new (32 * q))).map (fun q => if lies old (32 * q) then dst (32 * q) / 32 else q)
    headers := s.headers.filter (fun x => !lies (old ++ new) x.1) }
  hs.foldl (fun s x => s.setHeader d' (dst x.1) x.2) s

/-- Whether the new homes of a plot can hold the header blocks they now have, with those that edits under way may still create (R323). -/
def State.newRoom (s : State) (new : List (Nat × Nat)) : Bool :=
  new.all (fun x => (s.home (codeHome x.1)).blockRoom (s.blocksOwed (codeHome x.1)))

/-- The old pages of a plot that no other plot lies in unmapped. -/
def State.dropOld (s : State) (plot : Nat) (old : List (Nat × Nat)) : State :=
  old.foldl (fun s x =>
    let p := s.pageAt x.1
    if s.pageShared p plot then s else s.unmapPage p) s

/-- PLOT_MIGRATION_MOVE: a plot with M set leaves its old homes for HOME `target`, once they are done with it (R317). A page that is not
resident goes with its locator between direct tables; else it is made resident first. Without room for its header blocks nothing moves (R323).
DESIGN CHOICE (log 25): an interleaved or large
page, which other plots lie in too, is unmapped with the last of them. -/
def execPlotMigrationMove (key : Nat) (plot : Nat) (target : Nat) (s : State) : Host.Outcome State Fault Refusal :=
  .next (match s.plotOf key (plot * 65536) with
    | .desc d =>
      let h := dfield d 16 4
      let old := plotParts key plot h
      let new := plotParts key plot target
      if !descValid d || !descM d || decide (target > 8) || target == h || !s.plotQuiet key plot
          || (old ++ new).any (fun x => (s.home (codeHome x.1)).gated) then s
      else if old.any (fun x => !(s.walk x.1 matches .page _ _ _)) then s
      else
        let loc := match s.walk (old.headD (0, 0)).1 with | .page false false l => some l | _ => none
        match s.unknownPlot (old.map (fun x => s.pageAt x.1)) with
        | some a => (s.nodeWait a).1
        | none =>
        match (if h ≤ 7 ∧ target ≤ 7 then loc else none) with
        | some l =>
          let p : Page := { a := (new.headD (0, 0)).1, large := false }
          if s.taken p || !s.nodesFit p then s
          else
            let t := (s.mapPage p none l).carryPlot key plot d target
            if t.newRoom new then t.dropOld plot old else s
        | none =>
          match (old ++ new).find? (fun x => s.walk x.1 matches .page false _ _) with
          | some x => (s.demandFor x.1).1
          | none => match State.mapParts new s with
            | some t =>
              let t := t.carryPlot key plot d target
              if t.newRoom new then t.dropOld plot old else s
            | none => s
    | _ => s)

/-- BANK_RETIRE: a bank of a stack's cache layer written back, invalidated and retired, up to eight (R371). DESIGN CHOICE (log 26): in each
set that is then too full, the line that would be replaced next is the retired bank's. -/
def execBankRetire (stack : Nat) (bank : Nat) (s : State) : Host.Outcome State Fault Refusal :=
  .next (
    let hm := s.home stack
    if stack ≥ 8 ∨ bank ≥ 16 ∨ bank ∈ hm.retired ∨ hm.retired.length ≥ 8 then s
    else
      let s := s.setHome stack { hm with retired := bank :: hm.retired }
      let ways := Config.mscWays - (hm.retired.length + 1)
      let sets := (hm.lines.map (fun x => x.line % Config.mscSets)).dedup
      let s := sets.foldl (fun s n =>
        let hm := s.home stack
        let inSet := hm.lines.filter (fun y => y.line % Config.mscSets == n)
        if inSet.length ≤ ways then s
        else match mcVictim ways inSet with
          | some v => (s.writeBack (fun b => b / 512 == v.line)).dropLines stack (fun l => l == v.line)
          | none => s) s
      s.event 0x83 0 stack bank)

end Sys2Proof.Machine
end

