-- ==== Sys2Proof/Machine/Host.lean ====
section
/-!
DEFINITION. Mirem: messages, sessions, commands, host access to memory (24_host_and_peers.md R337 to R348; R308, R316, R367 to R369).
-/

namespace Sys2Proof

open Machine

/-- n bytes of a payload from an offset, as a number. -/
def Msg.at (m : Msg) (o n : Nat) : Nat := ofBytes ((m.payload.drop o).take n)

/-- Whether bytes [lo, hi) of a payload are zero. -/
def Msg.zero (m : Msg) (lo hi : Nat) : Bool := ((m.payload.drop lo).take (hi - lo)).all (fun b => b == 0)

/-- Whether a message has a payload of n bytes. -/
def Msg.sized (m : Msg) (n : Nat) : Bool := m.len == n && m.payload.length == n

end Sys2Proof

namespace Sys2Proof.Machine

open Sys2Proof

/-! ### Messages, tags, replies (R338, R339) -/

/-- A command header's 32 bytes with its tag as zero. -/
def headerBytes (len op reserved asid : Nat) (cmdid : DWord) : List Byte :=
  toBytes 16 0 ++ toBytes 4 len ++ toBytes 1 op ++ toBytes 1 reserved ++ toBytes 2 asid ++ toBytes 8 cmdid.toNat

/-- Whether a message's tag holds under a key. -/
def tagHolds (key : BitVec 256) (m : Msg) : Bool :=
  m.tag == Config.gmac key (headerBytes m.len m.op m.reserved m.asid m.cmdid ++ m.payload)

/-- A reply's header of 64 bytes with its tag as zero, and its payload. -/
def Reply.bytes (r : Reply) : List Byte :=
  toBytes 16 0 ++ toBytes 4 r.payload.length ++ toBytes 11 0 ++ toBytes 1 r.status ++ toBytes 8 r.result.toNat ++ toBytes 8 r.csn
    ++ toBytes 8 r.jsn ++ toBytes 8 r.cmdid.toNat ++ r.payload

/-- A reply with its tag under a key. -/
def Reply.tagged (r : Reply) (key : BitVec 256) : Reply := { r with tag := Config.gmac key r.bytes }

/-- A packet or message dropped and counted at a port that is linked (R337, R338). -/
def countDrop : List Port → List Port
  | [] => []
  | p :: ps => if p.up then { p with drops := p.drops + 1 } :: ps else p :: countDrop ps

/-- A session changed. -/
def State.setSession (s : State) (n : Nat) (x : Session) : State := { s with sessions := Map.set s.sessions n x }

/-- The CMDIDs of a session with one more, in the order of acceptance, the last 4,096 kept; or the reply of one among them recorded (R344). -/
def Session.record (x : Session) (cmdid : DWord) : Option Reply → Session
  | none => { x with done := ((cmdid, none) :: x.done).take Config.cmdidWindow }
  | some r => { x with done := x.done.map (fun d => if d.1 = cmdid then (cmdid, some r) else d) }

/-- A reply sent on a session, under its key; a closed one gets none. One made while no port is linked counts as sent as it is made, and the session's
next command goes on: DESIGN CHOICE (log 98). -/
def State.send (s : State) (m : Msg) (jsn csn result status : Nat) (payload : List Byte) (keep : Bool) : State :=
  match Map.find s.sessions m.session with
  | none => s
  | some x =>
    let r : Reply := Reply.tagged
      { session := m.session, cmdid := m.cmdid, jsn := jsn, csn := csn, result := BitVec.ofNat 64 result, status := status
        payload := if status = 0 then payload else [], tag := 0 } x.key
    { s.setSession m.session (if keep then x.record m.cmdid (some r) else x) with replies := s.replies ++ [r] }

/-! ### What a command comes to -/

/-- What performing a command comes to: it takes effect with a status, a result, a CSN and a payload; or it takes effect and its record
goes on through the states of a launch or turn (R369); or it waits. -/
inductive Answer where
  | reply (s : State) (status result csn : Nat) (payload : List Byte)
  | follows (s : State) (result : Nat)
  | hold (s : State)

/-- A status with nothing else. -/
def Answer.status (s : State) (n : Nat) : Answer := .reply s n 0 0 []

/-- A pending command changed. -/
def State.setPending (s : State) (jsn : Nat) (f : Pending → Pending) : State :=
  { s with held := s.held.map (fun p => if p.jsn = jsn then f p else p) }

/-! ### Contexts (R286, R343, R304) -/

/-- CTX.CREATE. -/
def State.ctxCreate (s : State) (m : Msg) : Answer :=
  let asid := m.at 0 2
  let sup := m.at 2 1
  let policy := m.at 3 1
  let root := m.at 48 8
  let priv := (m.at 64 8, m.at 72 8)
  let pool := (m.at 80 8, m.at 88 8)
  let faultq := m.at 96 8
  if !m.sized 128 || !m.zero 6 8 || !m.zero 57 64 || !m.zero 104 128 || sup / 2 != 0 || policy / 4 != 0
      || (upto 16).any (fun q => m.at 8 8 / 2 ^ (4 * q + 3) % 2 == 1) then .status s 2
  else if s.ctxs.length ≥ Config.maxContexts then .status s 6
  else if asid = 0 || (Map.find s.ctxs asid).isSome || policy == 3 || (policy == 2 && sup == 0)
      || root % 16384 != 0 || decide (root < 0xF00000000000) || decide (root ≥ 2 ^ 48) || decide (m.at 56 1 > 7)
      || priv.1 % 2 ^ 31 != 0 || priv.2 % 2 ^ 31 != 0 || priv.2 == 0 || decide (priv.1 + priv.2 > 2 ^ 48)
      || pool.1 % 256 != 0 || pool.2 % 256 != 0 || decide (pool.1 + pool.2 > 2 ^ 48)
      || faultq % 64 != 0 || decide (faultq ≥ 2 ^ 48) then .status s 2
  else
    let c : Context :=
      { sup := sup == 1, policy := policy, qexist := BitVec.ofNat 16 (m.at 4 2), qpri := BitVec.ofNat 64 (m.at 8 8), queues := []
        lastQueue := [], tape := [], replay := none, replayWait := none, tokens := [], mask := BitVec.ofNat 256 (m.at 16 32)
        root := root, rootHome := m.at 56 1, privBase := priv.1, privLen := priv.2, poolBase := pool.1, poolLen := pool.2, pointer := 255
        faultq := BitVec.ofNat 64 faultq, faultCount := 0, dead := false, cause := 0, waiting := s.clock }
    .status { s with ctxs := Map.set s.ctxs asid c } 0

/-- The kills of R304 for a context the host destroys. -/
def State.endWork (s : State) (asid : Nat) : State :=
  let s := (s.stopReplay asid 9).squashContext asid
  let s := { s with
    ctxs := Map.update s.ctxs asid (fun c => { c with dead := true, cause := 5, queues := [], tape := [], replay := none, replayWait := none })
    launches := s.launches.map (fun (l : Nat × Launch) =>
      if l.2.asid = asid ∧ l.2.failed.isNone then (l.1, { l.2 with failed := some 9 }) else l) }
  s.later (endsOf s (fun l => l.asid == asid))

/-- CTX.DESTROY: the context's work is killed; then its deferred entries are discarded with records of DETAIL 5, and, once they have reached the
queue, its ASID and token table are free (R340, R361). -/
def State.ctxDestroy (s : State) (m : Msg) (c : Context) : Answer :=
  if !m.sized 0 then .status s 2
  else if !c.dead then .hold ((s.endWork m.asid).retryHeld)
  else if s.wgs.any (fun w => w.2.asid == m.asid) || s.launches.any (fun l => l.2.asid == m.asid) || s.cmds.any (fun x => x.2.asid == m.asid)
  then .hold s
  else
    let x := s.drainAll
    let recs := (entriesOf x.s m.asid).flatMap (fun e =>
      (x.s.sectorRecs 3 e.csn (x.s.locOf e.write.addr) e.write).map (fun r => { r with detail := 5 }))
    let s := { x.s with homes := x.s.homes.map (fun (h : Nat × Home) =>
      (h.1, { h.2 with dsb := h.2.dsb.filter (fun e => e.write.asid != m.asid) })) }
    let s := Applied.settle ⟨s, x.recs ++ recs, x.fatal⟩
    if s.records.any (fun r => r.asid == m.asid) then .hold s
    else .status (({ s.unasked (.context m.asid) with ctxs := Map.erase s.ctxs m.asid } : State).stir (fun w => w == .lnch || w == .room)) 0

/-! ### Launches, tokens, the tape (R340, R342) -/

/-- LAUNCH. -/
def State.hostLaunch (s : State) (p : Pending) (c : Context) : Answer :=
  let m := p.msg
  let r := recordOf ((m.payload.drop 8).take 64)
  let n := if r.placemap then 72 + roundUp (2 * r.total) 8 else 72
  if !m.sized n || decide (n > Config.launchLenMax) || !m.zero 1 8 || (r.placemap && !m.zero (72 + 2 * r.total) n) || !c.hasQueue (m.at 0 1) then .status s 2
  else
    let map := if r.placemap then some (mapEntries ((m.payload.drop 72).take (2 * r.total))) else none
    .follows (s.acceptLaunch p.jsn m.asid (m.at 0 1) r map 0 none) 0

/-- Whether a journal number names a launch of a context: one that has not ended, or one that the journal still holds (R340). -/
def State.namesLaunch (s : State) (asid jsn : Nat) : Bool :=
  (match Map.find s.launches jsn with | some l => l.asid == asid | none => false)
    || (match Map.find s.journal jsn with | some r => r.asid == asid && r.launch | none => false)

/-- Whether a journal number names a LAUNCH accepted before a command and not yet appended (R344). -/
def State.launchHeld (s : State) (p : Pending) (jsn : Nat) : Bool :=
  decide (jsn < p.jsn) && s.held.any (fun q => q.jsn == jsn && q.msg.op == 0x03 && q.msg.asid == p.msg.asid)

/-- CANCEL; of a LAUNCH that has still to take effect, once it has (R340, R344). -/
def State.hostCancel (s : State) (p : Pending) : Answer :=
  let m := p.msg
  let n := m.at 0 8
  if !m.sized 8 then .status s 2
  else if s.launchHeld p n then .hold s
  else if !s.namesLaunch m.asid n then .status s 2
  else .status ((s.setRecord p.jsn (fun r => { r with ref := n })).failLaunch n 10) 0

/-- TOKEN.READ. -/
def State.hostTokenRead (s : State) (m : Msg) : Answer :=
  if !m.sized 8 || !m.zero 2 8 || decide (m.at 0 2 ≥ Config.tokens) then .status s 2
  else .reply s 0 (s.tokenWord m.asid (m.at 0 2)).toNat 0 []

/-- TOKEN.SET. -/
def State.hostTokenSet (s : State) (m : Msg) : Answer :=
  if !m.sized 16 || !m.zero 2 8 || decide (m.at 0 2 ≥ Config.tokens) then .status s 2
  else .reply (s.setToken m.asid (m.at 0 2) (BitVec.ofNat 64 (m.at 8 8))) 0 (s.tokenWord m.asid (m.at 0 2)).toNat 0 []

/-- TOKEN.SIGNAL. -/
def State.hostTokenSignal (s : State) (m : Msg) : Answer :=
  if !m.sized 8 || !m.zero 3 8 || m.at 2 1 / 2 != 0 || decide (m.at 0 2 ≥ Config.tokens) then .status s 2
  else
    let s := s.signal m.asid (m.at 0 2) (m.at 2 1 == 1)
    .reply s 0 (s.tokenWord m.asid (m.at 0 2)).toNat 0 []

/-- TAPE.TURN; its record has the depth and the queue of a turn's, refused or not (R369). -/
def State.hostTurn (s : State) (p : Pending) (c : Context) : Answer :=
  let m := p.msg
  let s := s.setRecord p.jsn (fun r => { r with da := c.depth, db := m.at 0 1 })
  if !m.sized 8 || !m.zero 1 8 || !c.hasQueue (m.at 0 1) then .status s 2
  else
    .follows (s.startTurn p.jsn m.asid (m.at 0 1) c) c.depth

/-! ### Host access to memory (R345 to R347) -/

/-- The management registers' block (R380). -/
def mgmtBase : Nat := 0xFFFFFFFFF000
def inMgmt (a n : Nat) : Bool := overlap a n mgmtBase 0x200

/-- Whether a supervisor's data is open to a host access of an ASID: of the context, or under the global key alone (log 27). -/
def State.hostSup (s : State) (asid : Nat) : Bool := asid == 0 || s.supOf asid

/-- The attribution of a host command's accesses (R357). -/
def Attr.host (jsn : Nat) : Attr := { off := 0, pc := 0, who := 0xFFFF, kind := 5, token := 0, launch := jsn }

/-- A death that a host command's walk brings. -/
def hostDeath (jsn asid level a : Nat) : Death := { asid := asid, kind := 4, detail := level, page := a, attr := Attr.host jsn, csn := 0 }

/-- What a host access finds at its plots. -/
inductive HostPlots where
  | ok (ps : List (Nat × Nat × DWord))
  | status (s : State) (n : Nat)
  | hold (s : State) (demand : Option Nat)

/-- A host command's wait for the n bytes at an address code that cannot be read yet: their home has to apply what was stamped before, a gating or
a page operation there has to end, or their page is demanded (R252, R346, R360, R379). -/
def State.hostWait (s : State) (a n : Nat) : State × Option Nat :=
  if s.pendingAt a n then (if s.homeHeld (codeHome a) then s else (s.later [.homeApplyCommit (codeHome a)]).retryHeld, none)
  else if s.homeBusy a n then (s, none)
  else
    let r := s.demandFor a
    (r.1, some r.2)

/-- The plots of a host access of an ASID checked, as an access of the context (R345, R346). -/
def State.hostPlots (jsn asid : Nat) (wr : Bool) : List (Nat × Nat) → State → List (Nat × Nat × DWord) → HostPlots
  | [], _, out => .ok out.reverse
  | (a, n) :: rest, s, out =>
    match s.plotOf asid a with
    | .desc d =>
      if !descValid d || !(if wr then descW d else descR d) || (descS d && !s.hostSup asid) || (asid == 0 && decide (a < 0xF00000000000))
      then .status s 4
      else State.hostPlots jsn asid wr rest s ((a, n, d) :: out)
    | .page p =>
      let r := s.hostWait p 8
      .hold r.1 r.2
    | .fatal p level => .status (s.die (hostDeath jsn asid level p)) 3
    | .bad => .status s 7

/-- The address codes of the grains of a range's plots. -/
def hostCodes (asid : Nat) (ps : List (Nat × Nat × DWord)) : List (DWord × Nat × Nat × Nat) :=
  ps.flatMap (fun p => (grainPieces (grainSize p.2.2) p.1 p.2.1).map (fun x =>
    (p.2.2, x.1, x.2, locate p.2.2 (keyOf asid x.1) x.1)))

/-- Whether a range touches a gated stack, or a plot with M set. -/
def State.rangeGated (s : State) (asid : Nat) (ps : List (Nat × Nat × DWord)) : Bool :=
  (hostCodes asid ps).any (fun x => (s.home (codeHome x.2.2.2)).gated)
def plotsMoving (ps : List (Nat × Nat × DWord)) : Bool := ps.any (fun p => descM p.2.2)

/-- The event that takes a write on once its bytes have arrived: its commit, or the register's (R345, R380). -/
def transferEvent (jsn : Nat) (t : Transfer) : Instr :=
  if !t.mgmt then .memWriteCommit jsn
  else
    let o := t.addr - mgmtBase
    if o = 0x008 then .pwrcap jsn
    else if o = 0x018 then .gate jsn
    else if 0x020 ≤ o ∧ o ≤ 0x038 then .key jsn
    else if o = 0x040 then .hdrres jsn
    else if o = 0x048 then .update jsn
    else if 0x110 ≤ o ∧ o < 0x1F0 then .bsrc jsn
    else .mgmtRegWriteOther jsn

/-- Whether a transfer's bytes have all arrived, or one broke R341. -/
def Transfer.complete (t : Transfer) : Bool := t.bad || t.got.length == t.len

/-- Whether a session is an open bulk session. -/
def State.isBulk (s : State) (n : Nat) : Bool :=
  match Map.find s.sessions n with
  | some x => x.cls == 2
  | none => false

/-- Whether a management session carries its own data: that of the management registers on a module whose key has never been written, where no
bulk session can be open (R381; DEDUCED, log 74). -/
def State.ownData (s : State) (cls : Nat) (m : Msg) : Bool :=
  cls == 0 && !s.mgmt.keyWritten && inMgmt (m.at 0 8) (m.at 8 8) && m.at 16 2 == m.session

/-- Whether the payload of a MEM.WRITE or MEM.READ on a session of a class is well formed (R341, R345, R346). -/
def State.rangeOk (s : State) (cls : Nat) (m : Msg) (most : Nat) : Bool :=
  m.sized 24 && m.zero 18 24 && decide (1 ≤ m.at 8 8) && decide (m.at 8 8 ≤ most) && (s.isBulk (m.at 16 2) || s.ownData cls m)
    && decide (m.at 0 8 + m.at 8 8 ≤ 2 ^ 48)

/-- Whether a management access is 8 bytes at a multiple of 8 inside the block. -/
def mgmtOk (a n : Nat) : Bool := n == 8 && a % 8 == 0 && decide (mgmtBase ≤ a)

/-- The transfer of a MEM.WRITE as it is accepted. -/
def transferOf (cls : Nat) (m : Msg) : Transfer :=
  { cmdid := m.cmdid, asid := m.asid, addr := m.at 0 8, len := m.at 8 8, bulk := m.at 16 2, mgmt := cls == 0 && inMgmt (m.at 0 8) (m.at 8 8)
    got := [], bad := false }

/-- MEM.WRITE at its place: malformed, or on to its commit once every byte has arrived. -/
def State.hostWrite (s : State) (p : Pending) : Answer :=
  let m := p.msg
  if !s.rangeOk p.cls m (2 ^ 32) then .status s 2
  else match Map.find s.transfers p.jsn with
    | none => .status s 2
    | some t =>
      if t.mgmt && !mgmtOk t.addr t.len then .status s 2
      else .hold (if t.complete then s.later [transferEvent p.jsn t] else s)

/-- The registers that can be read, with their words (R380). -/
def State.mgmtWord (s : State) (o : Nat) : Option Nat :=
  if o = 0x000 then some (s.mgmt.bring + 16 * s.mgmt.fail)
  else if o = 0x008 then some s.mgmt.pwrcap
  else if o = 0x010 then some (s.mgmt.pwrnow + s.mgmt.share * 2 ^ 16)
  else if o = 0x018 then some s.mgmt.gate.toNat
  else if 0x020 ≤ o ∧ o ≤ 0x038 then some 0
  else if o = 0x040 then some s.mgmt.hdrres
  else if 0x110 ≤ o ∧ o < 0x1F0 then
    let b := Map.get (0, 0) s.mgmt.bsrc ((o - 0x100) / 16)
    some (if o % 16 = 0 then b.1.toNat else b.2)
  else none

/-- DATA messages of at most 8,192 bytes sent on a bulk session (R341, R346). -/
def State.sendData (s : State) (bulk : Nat) (cmdid : DWord) (bytes : List Byte) : State :=
  let key := match Map.find s.sessions bulk with | some x => x.key | none => 0
  { s with sent := s.sent ++ (upto (roundUp bytes.length 8192 / 8192)).map (fun k =>
      let part := (bytes.drop (8192 * k)).take 8192
      { session := bulk, cmdid := cmdid, offset := 8192 * k, bytes := part
        tag := Config.gmac key (headerBytes (8 + part.length) 0x12 0 0 cmdid ++ toBytes 8 (8192 * k) ++ part) }) }

/-- What a host read meets at one grain piece: its bytes; or a status; or a wait, for a page or for its home. -/
inductive HostRead where
  | ok (bytes : List Byte)
  | fail (s : State) (status : Nat)
  | hold (s : State) (demand : Option Nat)

/-- Grain pieces read at their homes, every commit applied. -/
def State.hostPieces (jsn asid : Nat) : List (DWord × Nat × Nat × Nat) → State → List Byte → HostRead
  | [], _, out => .ok out
  | (d, va, n, a) :: rest, s, out =>
    let g := grainBase d a
    let wait := fun (_ : Unit) =>
      let r := s.hostWait g (grainSize d)
      HostRead.hold r.1 r.2
    if s.pendingAt g (grainSize d) then wait ()
    else match s.fillWalk g (grainSize d) with
    | .fatal level => .fail (s.die (hostDeath jsn asid level a)) 3
    | .migrating => wait ()
    | .page res _ _ =>
      if !res || s.deferredAt g (grainSize d) then wait ()
      else if s.dataError d a n then .fail s 7
      else State.hostPieces jsn asid rest s (out ++ ((s.view d g).drop (va % grainSize d)).take n)

/-- The memory-side lines of grain pieces touched as a host access does, at an engine's priority (R277). -/
def State.hostTouch (s : State) (l : List (DWord × Nat × Nat × Nat)) : State :=
  l.foldl (fun s x => s.touch (grainBase x.1 x.2.2.2) (grainSize x.1) 1) s

/-- MEM.READ: its registers, or its range at the current CSN; its data waits for a port that is linked (R15, R346, R380). -/
def State.hostRead (s : State) (p : Pending) : Answer :=
  let m := p.msg
  let a := m.at 0 8
  let n := m.at 8 8
  if !s.rangeOk p.cls m 65536 then .status s 2
  else if !s.linked then .hold s
  else if p.cls = 0 && inMgmt a n then
    if !mgmtOk a n then .status s 2
    else match s.mgmtWord (a - mgmtBase) with
      | some w => .reply (s.sendData (m.at 16 2) m.cmdid (toBytes 8 w)) 0 (s.nextCsn - 1) 0 []
      | none => .status s 2
  else if p.lost then .status s 8
  else match State.hostPlots p.jsn m.asid false (rangeParts a n) s [] with
    | .status s k => .status s k
    | .hold s d => .hold (s.setPending p.jsn (fun p => { p with demand := d }))
    | .ok ps =>
      if s.rangeGated m.asid ps then .status s 1
      else if plotsMoving ps then .hold s
      else
        let s := s.drainAll.settle
        match State.hostPieces p.jsn m.asid (hostCodes m.asid ps) s [] with
        | .fail s k => .status s k
        | .hold s d => .hold (s.setPending p.jsn (fun p => { p with demand := d }))
        | .ok bytes => .reply ((s.hostTouch (hostCodes m.asid ps)).sendData (m.at 16 2) m.cmdid bytes) 0 (s.nextCsn - 1) 0 []

/-! ### Plot commands (R306, R308) -/

/-- Where the entry of a level over a VA lies, by the tables as they stand; none where an entry above it is not legal. -/
inductive EntryPlace where
  | place (home va : Nat)
  | none
  | wait (a : Nat)
  | fatal (a level : Nat)
  deriving DecidableEq, Repr

/-- The next node down from an entry read. -/
def nextNode (leaf : Bool) : PlotRes → (Nat → Nat → EntryPlace) → EntryPlace
  | .desc e, f => if plotInterior leaf e then f (dfield e 48 4) (dfield e 13 35 * 8192) else .none
  | .page a, _ => .wait a
  | .fatal a l, _ => .fatal a l
  | .bad, _ => .none

/-- The place of the entry of level 0 (leaf), 1 (middle) or 2 (root) over a VA of an ASID. -/
def State.entryPlace (s : State) (asid va level : Nat) : EntryPlace :=
  let below := fun (h root : Nat) =>
    if level = 2 then EntryPlace.place h (root + 8 * (va / 2 ^ 37 % 2048))
    else nextNode false (s.plotEntry s.nodeEntry h root (va / 2 ^ 37 % 2048)) (fun h node =>
      if level = 1 then .place h (node + 8 * (va / 2 ^ 27 % 1024))
      else nextNode true (s.plotEntry s.nodeEntry h node (va / 2 ^ 27 % 1024)) (fun h node => .place h (node + 8 * (va / 65536 % 2048))))
  if asid = 0 then
    (if plotInterior false s.globalRoot then below (dfield s.globalRoot 48 4) (dfield s.globalRoot 13 35 * 8192) else .none)
  else match Map.find s.ctxs asid with
    | some c => below c.rootHome c.root
    | none => .none

/-- The plots whose descriptors an entry of a level over a VA governs: first, and how many. -/
def plotsUnder (va level : Nat) : Nat × Nat :=
  let n := if level = 0 then 1 else if level = 1 then 2 ^ 11 else if level = 2 then 2 ^ 21 else 2 ^ 32
  (va / 65536 / n * n, n)

/-- The write of a table entry, as a grain of the plot its node lies in, or else of 32 bytes. -/
def State.entryWrite (s : State) (jsn home va : Nat) (w : DWord) : GrainWrite :=
  let plain := withHome (BitVec.ofNat 64 0x17) home
  let d := match s.plotOf 0 va with
    | .desc d => if descValid d && locate d 0 va == addrCode home 0 0 va then d else plain
    | _ => plain
  let b := va / grainSize d * grainSize d
  { addr := locate d 0 b, size := grainSize d, key := 0, va := b, desc := d
    bytes := (upto 8).map (fun k => (va - b + k, (toBytes 8 w.toNat).getD k 0)), reds := [], atoms := [], fire := false, edit := none
    prio := 1, asid := 0
    attrs := (upto (grainSize d / 32)).map (fun k => { off := k, pc := 0, who := 0xFFFF, kind := 5, token := 0, launch := jsn }) }

/-- The commit of a plot command (R308 step 1). -/
def State.stampPlot (s : State) (key va level : Nat) (gs : List GrainWrite) : State :=
  let u := plotsUnder va level
  s.stamp { engineCommit 0 gs with all := true, plot := some (key, u.1, u.2) }

/-- Whether a plot command of a CSN is complete: every core has applied it, and every chunk of the key whose request was sent before its
core had is decided (R308 step 3). -/
def State.plotSettled (s : State) (key csn : Nat) : Bool :=
  !s.commits.any (fun c => c.csn == csn && !(c.released && c.cores.isEmpty))
    && !s.requests.any (fun q => (key == 0 || q.key == key) && decide (q.horizon < csn))

/-- What a PLOT.SET finds at its entry: the old value and the grains that write the new one; or a status; or a wait for a node's page. -/
inductive PlotOld where
  | old (w : DWord) (gs : List GrainWrite)
  | status (s : State) (n : Nat)
  | wait (a : Nat)

/-- The entry a PLOT.SET names, every commit stamped so far applied (R342). -/
def State.plotOld (s : State) (jsn asid va level : Nat) (w : DWord) : PlotOld :=
  match s.entryPlace asid va level with
  | .none => .status s 2
  | .wait a => .wait a
  | .fatal a l => .status (s.die (hostDeath jsn asid l a)) 3
  | .place h eva => match s.plotEntry s.nodeEntry h eva 0 with
    | .desc old => .old old [s.entryWrite jsn h eva w]
    | .page a => .wait a
    | .fatal a l => .status (s.die (hostDeath jsn asid l a)) 3
    | .bad => .status s 7

/-- PLOT.SET begun: its engine chunk stamped, where no reservation holds it back (R247, R308 step 1). -/
def State.beginPlot (s : State) (p : Pending) (va level : Nat) (old : DWord) (gs : List GrainWrite) : Answer :=
  if s.soloHolds (fun _ => true) 0 (engineSig gs) then .hold s
  else
    let csn := s.nextCsn
    .hold (((s.stampPlot p.msg.asid va level gs).setPending p.jsn (fun p => { p with csn := csn, result := old })).retryHeld)

/-- PLOT.SET. -/
def State.hostPlot (s : State) (p : Pending) : Answer :=
  let m := p.msg
  let va := m.at 0 8
  let level := m.at 8 1
  let w := BitVec.ofNat 64 (m.at 16 8)
  let shared := va ≥ 0xF00000000000
  if p.csn ≠ 0 then
    (if s.plotSettled m.asid p.csn then .reply s 0 p.result.toNat p.csn [] else .hold s)
  else if !m.sized 24 || !m.zero 9 16 || decide (va ≥ 2 ^ 48) || decide (level > 3) then .status s 2
  else if level = 3 then
    (if m.asid ≠ 0 ∨ p.cls ≠ 0 then .status s 2 else State.beginPlot { s with globalRoot := w } p va level s.globalRoot [])
  else if decide (m.asid = 0) != decide shared then .status s 2
  else
    let s := s.drainAll.settle
    match s.plotOld p.jsn m.asid va level w with
    | .old old gs => s.beginPlot p va level old gs
    | .status s n => .status s n
    | .wait a =>
      if p.lost then .status s 8
      else
        let r := s.hostWait a 8
        .hold (r.1.setPending p.jsn (fun p => { p with demand := r.2 }))

/-! ### Page operations (R316, R342) -/

/-- The page of a PAGE.OP. -/
def opPage (m : Msg) : Page := { a := addrCode (m.at 1 1) (m.at 2 1) m.asid (m.at 8 8), large := m.at 3 1 % 2 == 1 }

/-- Whether the payload of a PAGE.OP is well formed. Byte 3 bit 1 with an operation that is no map is not: DESIGN CHOICE (log 113). -/
def pageOpOk (m : Msg) : Bool :=
  let op := m.at 0 1
  let la := m.at 8 8
  let takesLoc := op == 2 || (op == 0 && m.at 3 1 / 2 == 0)
  m.sized 24 && decide (op ≤ 3) && decide (m.at 1 1 ≤ 7) && decide (m.at 2 1 ≤ 1) && decide (m.at 3 1 < 4) && (op == 0 || m.at 3 1 / 2 == 0)
    && m.zero 4 8 && m.zero 19 24 && la % (opPage m).bytes == 0 && decide (la < (if m.at 2 1 = 0 then 2 ^ 48 else 2 ^ 45))
    && (takesLoc || m.at 16 3 == 0)

/-- Waiters of a page that an operation has left without a mapping, or given back a frame, tried again. -/
def State.pageOpDone (s : State) (p : Page) : State := (s.answered (s.demandsOf p)).later (demandEvents s p.home)

/-- The residency step of a make resident or an unmap: the page resident with its frame; or a status; or a wait for its transfer. -/
inductive Residency where
  | ok (s : State) (frame : Nat)
  | status (n : Nat)
  | hold (s : State)

/-- A page brought in for the host (R316): at once from zero-fill; from a source once the agent has it. -/
def State.bringIn (s : State) (c : Pending) (p : Page) : Residency :=
  let e := s.entryOf p
  let wait := fun (s : State) =>
    let r := s.demandFor p.a
    Residency.hold (r.1.setPending c.jsn (fun x => { x with demand := some r.2 }))
  if entRes e then .ok s (entFrame e)
  else if !s.locValid (entLoc e) then .status 8
  else if entLoc e = 0xFFFFFF then
    match s.agentFrame p with
    | (s, some f) => .ok (s.makeResident p f) f
    | (s, none) => wait s
  else wait s

/-- A residency step carried on: while it waits, the home has MIG set on the page, and clears it at the step's end (R316). -/
def Residency.then (x : Residency) (s0 : State) (p : Page) (f : State → Nat → Answer) : Answer :=
  match x with
  | .ok s frame => f (s.migDone p) frame
  | .status n => .status (s0.migDone p) n
  | .hold s => .hold (s.setMig p true)

/-- Whether a command's residency step on a page is under way: it has demanded the page, which is still to come (R316). -/
def State.bringing (s : State) (c : Pending) (p : Page) : Bool := entMig (s.entryOf p) && c.demand.isSome

/-- Whether a home has still to apply a commit of a grain of a page. -/
def State.pageOwes (s : State) (p : Page) : Bool :=
  s.commits.any (fun c => c.homes.any (fun h => h == p.home) && c.grains.any (fun g => p.has g.addr))

/-- PAGE.OP. A residency step whose page is lost changes nothing. An eviction waits for a make resident of its page in progress, and for a linked port where its copy goes to a source (R15, R316); it and
an unmap wait for what their home has still to apply to the page. -/
def State.hostPage (s : State) (c : Pending) : Answer :=
  let m := c.msg
  let op := m.at 0 1
  let loc := m.at 16 3
  let p := opPage m
  let fresh := m.at 3 1 / 2 == 1
  if !pageOpOk m then .status s 2
  else if (s.home p.home).gated then .hold s
  else if c.lost then .status (s.migDone p) 8
  else if op = 2 && (loc == 0 || !s.locValid loc) then .status s 2
  else match (if s.bringing c p then none else s.refusal op p fresh) with
    | some r => .reply (s.event 0x88 (codeKey p.a) (codeLa p.a / 65536) r) 5 r 0 []
    | none =>
      if op = 0 then
        (if fresh then
          match s.freeFrame p.home p.frames with
          | some f => .reply (s.mapPage p (some f) 0) 0 f 0 []
          | none => .hold s
        else .status (s.mapPage p none loc) 0)
      else if op = 1 then (s.bringIn c p).then s p (fun s f => .reply s 0 f 0 [])
      else
        let s := s.drainAll.settle
        if s.pageOwes p then .hold s
        else if op = 2 then
          (if !entRes (s.entryOf p) then (if entMig (s.entryOf p) then .hold s else .status s 0)
          else if needsPort loc && !s.linked then .hold s
          else match s.badIn p with
            | some q => .status (s.egressEvent p q) 7
            | none => .status ((s.evictTo p loc).pageOpDone p) 0)
        else if s.hasEntries p then (s.bringIn c p).then s p (fun s _ => .status ((s.unmapPage p).pageOpDone p) 0)
        else .status (((s.migDone p).unmapPage p).pageOpDone p) 0

/-! ### Groups, the journal, device state (R342, R348, R367, R368) -/

/-- GROUP.CFG. -/
def State.hostGroup (s : State) (m : Msg) : Answer :=
  let k := (m.payload.length - 40) / 16
  let g := m.at 0 2
  let np := m.at 2 2
  let own := m.at 4 2
  let f := m.at 6 2
  let key := BitVec.ofNat 256 (m.at 8 32)
  let part := (upto k).map (fun i => (f + i, BitVec.ofNat 128 (m.at (40 + 16 * i) 16)))
  if !m.sized (40 + 16 * k) || k == 0 || decide (k > 4093) || np == 0 || decide (np > 4096) || decide (own ≥ np) || decide (f + k > np) then
    .status s 2
  else if s.cmds.any (fun c => c.2.major == 0x79 && c.2.op == 4 && c.2.word 0 / 2 ^ 16 % 2 ^ 16 == g) then .status s 6
  else if f = 0 then
    .reply { s with groups := Map.set s.groups g { p := np, own := own, key := key, ranks := part, calls := 0, early := [], reported := [] } } 0 (np - k) 0 []
  else match Map.find s.groups g with
    | none => .status s 2
    | some x =>
      if x.p ≠ np ∨ x.own ≠ own ∨ x.key ≠ key ∨ f ≠ x.ranks.length then .status s 2
      else .reply { s with groups := Map.set s.groups g { x with ranks := x.ranks ++ part } } 0 (np - (f + k)) 0 []

/-- STATE's code (R368). -/
def JState.code : JState → Nat
  | .accepted => 0
  | .started => 1
  | .completed => 2
  | .failed => 3

/-- The 64 bytes of a journal record (R368). -/
def JRec.bytes (r : JRec) (jsn : Nat) : List Byte :=
  toBytes 8 jsn ++ toBytes 8 r.ref ++ toBytes 8 r.time ++ toBytes 8 r.db ++ toBytes 8 r.da
    ++ toBytes 2 (r.state.code * 2 ^ 14) ++ toBytes 1 r.status ++ toBytes 1 r.op ++ toBytes 2 r.session ++ toBytes 2 r.asid
    ++ toBytes 8 r.cmdid.toNat ++ toBytes 8 r.csn

/-- JOURNAL.READ (R342). From a JSN beyond the newest it returns no record, status 0 and that JSN: DESIGN CHOICE (log 112). -/
def State.hostJournal (s : State) (m : Msg) : Answer :=
  let n := m.at 8 2
  let oldest := max 1 (s.nextJsn - Config.journalSlots)
  let first := max (m.at 0 8) oldest
  if !m.sized 16 || !m.zero 10 16 || n == 0 || decide (n > 1024) then .status s 2
  else .reply s 0 first 0 ((upto n).flatMap (fun k => match Map.find s.journal (first + k) with
    | some r => r.bytes (first + k)
    | none => []))

/-- STATUS. -/
def State.hostStatus (s : State) (m : Msg) : Answer :=
  if !m.sized 0 then .status s 2
  else
    let word := fun o => toBytes 8 ((s.mgmtWord o).getD 0)
    let present := (upto 256).foldl (fun n k => n + if (s.core k).absent then 0 else 2 ^ k) 0
    .reply s 0 0 0 (word 0 ++ word 0x10 ++ word 0x18 ++ toBytes 32 present ++ toBytes 2 s.sessions.length ++ toBytes 6 0
      ++ s.sessions.flatMap (fun x => toBytes 2 x.1 ++ toBytes 1 x.2.cls ++ toBytes 1 0))

/-! ### Acceptance and order (R340, R344, R347) -/

/-- Whether a class of session may carry an opcode: C, M or any. -/
def classOk (op cls : Nat) : Bool :=
  if op = 0x0D ∨ op = 0x0E ∨ op = 0x0F then cls == 0 else if op = 0x11 then true else cls == 0 || cls == 1

/-- Whether an opcode names no context. -/
def deviceOp (op : Nat) : Bool := op == 0x01 || decide (op ≥ 0x0D)

/-- Whether an opcode may carry ASID 0: the global key (R339; log 27). -/
def globalOp (op : Nat) : Bool := op == 0x08 || op == 0x09 || op == 0x0A || op == 0x0B

/-- Whether an opcode is carried out in a dead context (R347). -/
def deadOp (op : Nat) : Bool := op == 0x02 || op == 0x05 || op == 0x09

/-- A command's body, its class, header and context checked. -/
def State.body (s : State) (p : Pending) (c : Context) : Answer :=
  match p.msg.op with
  | 0x01 => s.ctxCreate p.msg
  | 0x02 => s.ctxDestroy p.msg c
  | 0x03 => s.hostLaunch p c
  | 0x04 => s.hostCancel p
  | 0x05 => s.hostTokenRead p.msg
  | 0x06 => s.hostTokenSet p.msg
  | 0x07 => s.hostTokenSignal p.msg
  | 0x08 => s.hostWrite p
  | 0x09 => s.hostRead p
  | 0x0A => s.hostPlot p
  | 0x0B => s.hostPage p
  | 0x0C => s.hostTurn p c
  | 0x0D => s.hostGroup p.msg
  | 0x0E => s.hostJournal p.msg
  | 0x0F => s.hostStatus p.msg
  | _ => .status s (if p.msg.sized 0 then 0 else 2)

/-- A context that stands for none. -/
def Context.none : Context :=
  { sup := false, policy := 0, qexist := 0, qpri := 0, queues := [], lastQueue := [], tape := [], replay := Option.none
    replayWait := Option.none, tokens := [], mask := 0, root := 0, rootHome := 0, privBase := 0, privLen := 0, poolBase := 0, poolLen := 0
    pointer := 255, faultq := 0, faultCount := 0, dead := false, cause := 0, waiting := 0 }

/-- The commands whose record follows a launch or a turn: LAUNCH and TAPE.TURN (R369). -/
def followsLaunch (op : Nat) : Bool := op == 0x03 || op == 0x0C

/-- A command performed at its place; a launch or turn that reaches a dead context is journaled as failed with code 9 (R304). A page operation that has
set MIG goes on to its end whatever becomes of its context (R316). -/
def State.perform (s : State) (p : Pending) : Answer :=
  let m := p.msg
  if !classOk m.op p.cls || m.reserved != 0 || m.len != m.payload.length || (decide (m.op ≥ 0x0D) && m.asid != 0) then .status s 2
  else if deviceOp m.op || (globalOp m.op && m.asid == 0) || (m.op == 0x0B && (p.demand.isSome || p.lost)) then s.body p Context.none
  else match Map.find s.ctxs m.asid with
    | none => .status s 3
    | some c =>
      if c.dead && !deadOp m.op && !(m.op == 0x0A && p.csn != 0) then
        .status (if followsLaunch m.op then
            s.setRecord p.jsn (fun r => { r with
              state := .failed, status := 9, launch := m.op == 0x03
              da := if m.op = 0x0C then c.depth else r.da, db := if m.op = 0x0C then m.at 0 1 else r.db })
          else s) 3
      else s.body p c

/-- The next command of a session tried. -/
def State.nextOf (s : State) (session : Nat) : State :=
  match s.held.find? (fun p => p.msg.session == session) with
  | some p => { s with retry := s.retry ++ [p.jsn] }
  | none => s

/-- A command done: it leaves the pending ones, its record and reply are written, and the next of its session is tried, or, after one that others
may wait for, a LAUNCH or a write of a management register (R344, R379), every other. A CLOSE closes its session after its reply. -/
def State.concluded (s : State) (p : Pending) (status result csn : Nat) (payload : List Byte) (follows : Bool) : State :=
  let s := { s with held := s.held.filter (fun q => q.jsn != p.jsn), transfers := Map.erase s.transfers p.jsn }
  let s := if follows then s
    else s.setRecord p.jsn (fun r =>
      { r with
        state := if status = 0 then .completed else .failed
        status := if followsLaunch p.msg.op ∧ status = 3 ∧ r.state = .failed then r.status else status
        csn := csn })
  let s := s.send p.msg p.jsn csn result status payload true
  let s := if p.msg.op = 0x11 ∧ status = 0 then { s with sessions := Map.erase s.sessions p.msg.session } else s
  if p.msg.op = 0x03 || (p.msg.op == 0x08 && p.cls == 0) then s.retryHeld else s.nextOf p.msg.session

/-- A command that has begun and waits is started, but for those whose record follows a launch or a turn (R369). -/
def State.begun (s : State) (p : Pending) : State :=
  match Map.find s.journal p.jsn with
  | some r => if r.state = .accepted ∧ !followsLaunch p.msg.op then s.setRecord p.jsn (fun r => { r with state := .started }) else s
  | none => s

/-- An answer carried out. -/
def Answer.settle (p : Pending) : Answer → State
  | .reply s status result csn payload => s.concluded p status result csn payload false
  | .follows s result => s.concluded p 0 result 0 [] true
  | .hold s => s.begun p

/-- Whether a command has an earlier one of its session before it. -/
def State.behind (s : State) (p : Pending) : Bool := s.held.any (fun q => q.msg.session == p.msg.session && decide (q.jsn < p.jsn))

/-- A pending command tried, if it is the first of its session. While Bolhorn is updated none is: its signal or its paging is deferred to the update's
end, where every command is tried again (R342, R373; DEDUCED, log 100). -/
def State.tryCommand (s : State) (jsn : Nat) : State :=
  match s.held.find? (fun p => p.jsn == jsn) with
  | none => s
  | some p =>
    if s.behind p || s.mgmt.updating.isSome then s
    else (s.perform p).settle p

/-- Whether the device takes a command of an opcode now (R347, R373, R382). -/
def State.accepting (s : State) (op : Nat) : Bool :=
  s.mgmt.updating.isNone && (s.mgmt.bring == 6 || op == 0x0E || op == 0x0F)

/-- A message whose tag fails: dropped and counted in the session; the sixteenth in a row closes it (R338). -/
def State.tagFailed (s : State) (n : Nat) (x : Session) : State :=
  if x.fails + 1 ≥ 16 then { s with sessions := Map.erase s.sessions n }
  else s.setSession n { x with fails := x.fails + 1, badTags := x.badTags + 1 }

/-- A command accepted under the next number (R344). Its record names its target: for CTX.CREATE the context it creates (log 32). -/
def State.accept (s : State) (x : Session) (m : Msg) : State :=
  let jsn := s.nextJsn
  let target := if m.op = 0x01 then m.at 0 2 else m.asid
  let s := s.addRecord { csn := 0, cmdid := m.cmdid, asid := target, session := m.session, op := m.op, status := 0, state := .accepted
                         da := 0, db := 0, time := 0, ref := 0 }
  let s := { s.setSession m.session (x.record m.cmdid none) with
    held := s.held ++ [({ jsn := jsn, cls := x.cls, msg := m, demand := none, lost := false, csn := 0, result := 0 } : Pending)]
    transfers := if m.op = 0x08 then Map.set s.transfers jsn (transferOf x.cls m) else s.transfers }
  s.tryCommand jsn

/-- A command of an opcode received (R338 to R344): its tag, its CMDID, whether the device takes it, then acceptance. -/
def State.command (s : State) (op : Nat) (m : Msg) : State :=
  if m.op ≠ op ∨ !s.linked then s
  else match Map.find s.sessions m.session with
    | none => { s with ports := countDrop s.ports }
    | some x =>
      if !tagHolds x.key m then s.tagFailed m.session x
      else
        let x := { x with fails := 0 }
        let s := s.setSession m.session x
        match x.done.find? (fun d => d.1 == m.cmdid) with
        | some (_, some r) => { s with replies := s.replies ++ [r] }
        | some (_, none) => s
        | none => if !s.accepting op then s.send m 0 0 0 1 [] false else s.accept x m

/-! ### OPEN and DATA (R338, R341) -/

/-- The base key an OPEN of a class is keyed by, if the device has it (R338, R381, R382). -/
def State.baseKey (s : State) (cls group : Nat) : Option (BitVec 256) :=
  if s.mgmt.keyWritten && s.mgmt.fail != 4 then
    (if cls = 3 then (Map.find s.groups group).map (fun g => g.key) else some s.mgmt.key)
  else if cls = 0 then some Config.factoryKey
  else none

/-- A reply on a connection, under a base key. -/
def State.sendOpen (s : State) (m : Msg) (key : BitVec 256) (jsn result status : Nat) (payload : List Byte) : State :=
  { s with replies := s.replies ++ [Reply.tagged
      { session := m.session, cmdid := m.cmdid, jsn := jsn, csn := 0, result := BitVec.ofNat 64 result, status := status, payload := payload
        tag := 0 } key] }

/-- Whether a session number is in use: by an open session, or by commands or data of a closed one that have still to take effect (R338,
R344). -/
def State.sessionBusy (s : State) (n : Nat) : Bool :=
  (Map.find s.sessions n).isSome || s.held.any (fun p => p.msg.session == n) || s.transfers.any (fun t => t.2.bulk == n)

/-- The lowest session number free. -/
def State.freeSession (s : State) : Nat :=
  ((upto (s.sessions.length + s.held.length + s.transfers.length + 1)).map (fun n => n + 1)).find? (fun n => !s.sessionBusy n) |>.getD 1

/-- An OPEN with its tag checked, accepted or not. The record of one refused has SESSION 0: DESIGN CHOICE (log 111). -/
def State.openSession (s : State) (m : Msg) (key : BitVec 256) (cls : Nat) : State :=
  if s.mgmt.updating.isSome || (s.mgmt.bring != 6 && cls != 0) then s.sendOpen m key 0 0 1 []
  else
    let jsn := s.nextJsn
    let n := s.freeSession
    let status := if !m.sized 24 || m.reserved != 0 || m.asid != 0 || !m.zero 17 18 || !m.zero 20 24 || (cls != 3 && !m.zero 18 20) || decide (cls > 3) then 2
      else if s.sessions.length ≥ Config.maxSessions then 6 else 0
    let s := s.addRecord { csn := 0, cmdid := m.cmdid, asid := 0, session := if status = 0 then n else 0, op := 0x10, status := status
                           state := if status = 0 then .completed else .failed, da := 0, db := 0, time := 0, ref := 0 }
    if status ≠ 0 then s.sendOpen m key jsn 0 status []
    else
      let nonce := Config.nonce s.tick
      let x : Session :=
        { cls := cls, key := Config.hkdf key (BitVec.ofNat 128 (m.at 0 16)) nonce cls n, group := m.at 18 2, fails := 0, badTags := 0, dropped := 0
          done := [] }
      (s.setSession n x).sendOpen m key jsn n 0 (toBytes 16 nonce.toNat)

/-- OPEN: keyed by the base key of its class; one whose tag fails is dropped and counted at the port. -/
def execOpenMsg (m : Msg) (s : State) : Host.Outcome State Fault Refusal :=
  .next (
    let cls := m.at 16 1
    if m.op ≠ 0x10 ∨ !s.linked then s
    else match s.baseKey (if cls > 3 then 0 else cls) (m.at 18 2) with
      | none => { s with ports := countDrop s.ports }
      | some key => if tagHolds key m then s.openSession m key cls else { s with ports := countDrop s.ports })

/-- The bytes of a DATA message taken into a transfer: past its length, or twice with different values, they break it (R341). -/
def Transfer.take (t : Transfer) (off : Nat) (bytes : List Byte) : Transfer :=
  (upto bytes.length).foldl (fun t k =>
    let b := bytes.getD k 0
    if off + k ≥ t.len then { t with bad := true }
    else match Map.find t.got (off + k) with
      | some x => if x = b then t else { t with bad := true }
      | none => { t with got := Map.set t.got (off + k) b }) t

/-- Whether a session of a class carries a transfer's data: a bulk session, or the management session that a write of a management register
named as its own (log 74). -/
def Transfer.carried (t : Transfer) (cls : Nat) : Bool := cls == 2 || (cls == 0 && t.mgmt)

/-- DATA: bytes of a MEM.WRITE in flight; one that names none is dropped and counted in the session (R341). So is one that is not of its layout, and one
that fits several MEM.WRITEs is the first's: DESIGN CHOICE (log 110). -/
def execDataMsg (m : Msg) (s : State) : Host.Outcome State Fault Refusal :=
  .next (
    if m.op ≠ 0x12 ∨ !s.linked then s
    else match Map.find s.sessions m.session with
      | none => { s with ports := countDrop s.ports }
      | some x =>
        if !tagHolds x.key m then s.tagFailed m.session x
        else
          let s := s.setSession m.session { x with fails := 0 }
          let n := m.payload.length
          let legal := m.len == n && m.asid == 0 && decide (9 ≤ n) && decide (n ≤ 8 + 8192)
          match (if legal then s.transfers.find? (fun t => t.2.carried x.cls && t.2.bulk == m.session && t.2.cmdid == m.cmdid) else none) with
          | none => s.setSession m.session { x with fails := 0, dropped := x.dropped + 1 }
          | some (jsn, t) =>
            let t := t.take (m.at 0 8) (m.payload.drop 8)
            ({ s with transfers := Map.set s.transfers jsn t }).tryCommand jsn)

/-! ### The commands -/

/-- CTX.CREATE (R343). -/
def execCtxCreate (m : Msg) (s : State) : Host.Outcome State Fault Refusal := .next (s.command 0x01 m)
/-- CTX.DESTROY (R340). -/
def execCtxDestroy (m : Msg) (s : State) : Host.Outcome State Fault Refusal := .next (s.command 0x02 m)
/-- LAUNCH (R340, R342). -/
def execLaunch (m : Msg) (s : State) : Host.Outcome State Fault Refusal := .next (s.command 0x03 m)
/-- CANCEL (R340). -/
def execCancel (m : Msg) (s : State) : Host.Outcome State Fault Refusal := .next (s.command 0x04 m)
/-- TOKEN.READ (R342). -/
def execTokenRead (m : Msg) (s : State) : Host.Outcome State Fault Refusal := .next (s.command 0x05 m)
/-- TOKEN.SET (R342). -/
def execTokenSet (m : Msg) (s : State) : Host.Outcome State Fault Refusal := .next (s.command 0x06 m)
/-- TOKEN.SIGNAL (R342). -/
def execTokenSignal (m : Msg) (s : State) : Host.Outcome State Fault Refusal := .next (s.command 0x07 m)
/-- MEM.WRITE (R345). -/
def execMemWrite (m : Msg) (s : State) : Host.Outcome State Fault Refusal := .next (s.command 0x08 m)
/-- MEM.READ (R346). -/
def execMemRead (m : Msg) (s : State) : Host.Outcome State Fault Refusal := .next (s.command 0x09 m)
/-- PLOT.SET (R308). -/
def execPlotSet (m : Msg) (s : State) : Host.Outcome State Fault Refusal := .next (s.command 0x0A m)
/-- TAPE.TURN (R342, R369). -/
def execTapeTurnCmd (m : Msg) (s : State) : Host.Outcome State Fault Refusal := .next (s.command 0x0C m)
/-- GROUP.CFG (R348). -/
def execGroupCfg (m : Msg) (s : State) : Host.Outcome State Fault Refusal := .next (s.command 0x0D m)
/-- JOURNAL.READ (R367). -/
def execJournalRead (m : Msg) (s : State) : Host.Outcome State Fault Refusal := .next (s.command 0x0E m)
/-- STATUS (R342). -/
def execStatusMsg (m : Msg) (s : State) : Host.Outcome State Fault Refusal := .next (s.command 0x0F m)
/-- CLOSE (R341). -/
def execCloseMsg (m : Msg) (s : State) : Host.Outcome State Fault Refusal := .next (s.command 0x11 m)

/-- Which of the page operations a PAGE.OP asks for; an operation byte that names none is the first's, which refuses it. -/
def pageOpIs (m : Msg) (n : Nat) : Bool := if m.at 0 1 ≤ 3 then m.at 0 1 == n else n == 0

/-- PAGE.OP map (R316). -/
def execPageMap (m : Msg) (s : State) : Host.Outcome State Fault Refusal := .next (if pageOpIs m 0 then s.command 0x0B m else s)
/-- PAGE.OP make resident (R316). -/
def execPageMakeResident (m : Msg) (s : State) : Host.Outcome State Fault Refusal := .next (if pageOpIs m 1 then s.command 0x0B m else s)
/-- PAGE.OP evict (R316). -/
def execPageEvict (m : Msg) (s : State) : Host.Outcome State Fault Refusal := .next (if pageOpIs m 2 then s.command 0x0B m else s)
/-- PAGE.OP unmap (R316). -/
def execPageUnmap (m : Msg) (s : State) : Host.Outcome State Fault Refusal := .next (if pageOpIs m 3 then s.command 0x0B m else s)

/-- Whether an opcode is reserved (R340). -/
def reservedOp (op : Nat) : Bool := op == 0 || decide (op ≥ 0x13)

/-- MIREM_RESERVED_OP: status 2 and no other effect (R340), in bring-up and during an update too: DESIGN CHOICE (log 109). -/
def execMiremReservedOp (m : Msg) (s : State) : Host.Outcome State Fault Refusal :=
  .next (
    if !reservedOp m.op ∨ !s.linked then s
    else match Map.find s.sessions m.session with
      | none => { s with ports := countDrop s.ports }
      | some x => if !tagHolds x.key m then s.tagFailed m.session x else (s.setSession m.session { x with fails := 0 }).send m 0 0 0 2 [] false)

/-! ### The commit of a host write (R345) -/

/-- A complete transfer at its place, with its command. -/
def State.transferReady (s : State) (jsn : Nat) : Option (Pending × Transfer) :=
  match s.held.find? (fun p => p.jsn == jsn), Map.find s.transfers jsn with
  | some p, some t => if s.behind p || !t.complete then none else some (p, t)
  | _, _ => none

/-- A host write's commit: its plots checked, then every byte as one engine chunk, once its homes have room and no reservation holds it back
(R247, R353). -/
def State.writeRange (s : State) (p : Pending) (t : Transfer) : Answer :=
  if t.bad then .status s 2
  else if t.asid ≠ 0 && (match Map.find s.ctxs t.asid with | some c => c.dead | none => true) then .status s 3
  else if p.lost then .status s 8
  else match State.hostPlots p.jsn t.asid true (rangeParts t.addr t.len) s [] with
    | .status s k => .status s k
    | .hold s d => .hold (s.setPending p.jsn (fun p => { p with demand := d }))
    | .ok ps =>
      if s.rangeGated t.asid ps then .status s 1
      else if plotsMoving ps then .hold s
      else
        let gs := s.grainsOf t.asid t.addr 1 (Attr.host p.jsn) ((upto t.len).map (fun k => Map.get 0 t.got k))
        if s.soloHolds (fun _ => true) t.asid (engineSig gs) then .hold s
        else if !s.chunkRoom gs then
          match s.absentPage gs with
          | some a =>
            let r := s.demandFor a
            .hold (r.1.setPending p.jsn (fun p => { p with demand := some r.2 }))
          | none => .hold s
        else .reply (s.stamp (engineCommit t.asid gs)) 0 0 s.nextCsn []

/-- MEM_WRITE_COMMIT: every byte of a host write has arrived (R345). -/
def execMemWriteCommit (xfer : Nat) (s : State) : Host.Outcome State Fault Refusal :=
  .next (match s.transferReady xfer with
    | some (p, t) => if t.mgmt then s else (s.writeRange p t).settle p
    | none => s)

end Sys2Proof.Machine
end

