-- ==== Sys2Proof/Machine/Integer.lean ====
section
/-!
DEFINITION. Integer, predicate and uniform instructions (07_integer_and_control.md R110 to R125): majors 0x01 to 0x14, 0x20 to 0x31.
-/

namespace Sys2Proof.Machine

open Sys2Proof

/-! ### Shared: the function tables and the lane forms -/

/-- Table A, carry functions apart (R112): the pattern and whether saturation changed it. The lower code of a pair is signed. -/
def tableA (f w : Nat) (sat : Bool) (a b : Nat) : Nat × Bool :=
  let sgn := f % 2 == 0 || f == 15
  let x := valueOf sgn w a
  let y := valueOf sgn w b
  let put := fun (z : Int) => if sat then saturate sgn w z else (wrap w z, false)
  match f / 2 with
  | 0 => put (x + y)
  | 1 => put (x - y)
  | 2 => put (x * y)
  | 3 => (wrap w (x * y / 2 ^ w), false)
  | 4 => (wrap w (if x ≤ y then x else y), false)
  | 5 => (wrap w (if x ≥ y then x else y), false)
  | _ => if f = 14 then put (x.natAbs : Int) else put (-x)

/-- The shift functions of table B: shl, shr, sra, rol by c (R114). -/
def shiftB (k w a c : Nat) : Nat :=
  match k with
  | 0 => if c ≥ w then 0 else a * 2 ^ c % 2 ^ w
  | 1 => if c ≥ w then 0 else a / 2 ^ c
  | 2 => wrap w (signed w a / 2 ^ (min c w))
  | _ => rotl w a c

/-- Table B (R114); a and b are patterns of w bits. -/
def tableB (f w a b : Nat) : Nat :=
  match f with
  | 0 => a &&& b
  | 1 => a ||| b
  | 2 => a ^^^ b
  | 3 => a &&& (2 ^ w - 1 - b)
  | 4 => 2 ^ w - 1 - a
  | 5 => shiftB 0 w a (b % 256)
  | 6 => shiftB 1 w a (b % 256)
  | 7 => shiftB 2 w a (b % 256)
  | 8 => shiftB 3 w a (b % 256)
  | 9 => popcount w a
  | 10 => leading w a
  | 11 => lowest w a
  | 12 => reverse w a
  | _ => a

/-- Table D, all 64 bits (R120). -/
def tableD (f : Nat) (sat : Bool) (a b : Nat) : Nat × Bool :=
  if f < 12 then tableA f 64 sat a b
  else if f ≤ 25 then (tableB (f - 12) 64 a b, false)
  else tableA (f - 12) 64 sat a b

/-- Width of a form. -/
def formBits (wide : Bool) : Nat := if wide then 64 else 32

/-- A vector operand: a register's element or a pair's (R20). -/
def vecOperand (wide : Bool) (n : Nat) (r : Regs) (l : Nat) : Nat := if wide then r.pair n l else r.vecN n l

/-- A uniform operand read as a lane's: the low bits of the width (R111). -/
def uniOperand (wide : Bool) (n : Nat) (r : Regs) (_ : Nat) : Nat := r.uniN n % 2 ^ formBits wide

/-- SA where some lane saturated (R40). -/
def flagIf (b : Bool) (f : Flags) : Flags := if b then f else 0

/-- A result per written lane, and SA where one was saturated (R110). -/
def lanesSat (wide : Bool) (dst : Nat) (f : Regs → Nat → Nat × Bool) (h : Hints) (d : Drill) : Drill :=
  let ls := written d.regs h
  (d.setWide wide dst ls (fun l => (f d.regs l).1)).raise (flagIf (ls.any (fun l => (f d.regs l).2)) flagSA)

/-- A result per written lane, no flag. -/
def lanesPlain (wide : Bool) (dst : Nat) (f : Regs → Nat → Nat) (h : Hints) (d : Drill) : Drill :=
  d.setWide wide dst (written d.regs h) (f d.regs)

/-- addc (`sub` false) and subb: p14 is the carry, written in the written lanes (R113). -/
def lanesCarry (wide sub : Bool) (dst : Nat) (a b : Regs → Nat → Nat) (h : Hints) (d : Drill) : Drill :=
  let w := formBits wide
  let r := d.regs
  let ls := written r h
  let c := fun l => if bitAt (r.pred 14) l then 1 else 0
  let x := fun l => if sub then (a r l : Int) - b r l - c l else (a r l : Int) + b r l + c l
  (d.setWide wide dst ls (fun l => wrap w (x l))).setPredLanes 14 ls (fun l => decide (x l < 0 ∨ x l ≥ 2 ^ w))

/-- Any function of table A on lanes (R112, R113). -/
def arithLanes (f : Nat) (wide : Bool) (dst : Nat) (a b : Regs → Nat → Nat) (h : Hints) (d : Drill) : Drill :=
  if f = 12 then lanesCarry wide false dst a b h d
  else if f = 13 then lanesCarry wide true dst a b h d
  else lanesSat wide dst (fun r l => tableA f (formBits wide) (wantsSat h) (a r l) (b r l)) h d

/-- Any function of table B on lanes (R114). -/
def logicLanes (f : Nat) (wide : Bool) (dst : Nat) (a b : Regs → Nat → Nat) (h : Hints) (d : Drill) : Drill :=
  lanesPlain wide dst (fun r l => tableB f (formBits wide) (a r l) (b r l)) h d

/-- Integer relations of table P (R121). -/
def cmpHolds (sgn : Bool) (w cond a b : Nat) : Bool :=
  let x := valueOf sgn w a
  let y := valueOf sgn w b
  match cond with
  | 0 => decide (x = y)
  | 1 => decide (x ≠ y)
  | 2 => decide (x < y)
  | 3 => decide (x ≤ y)
  | 4 => decide (x > y)
  | 5 => decide (x ≥ y)
  | 6 => a &&& b != 0
  | _ => a &&& b == 0

/-- A compare's bit per written lane (R121). ty: 0 i32, 1 n32, 2 i64, 3 n64. -/
def cmpLanes (t c p : Nat) (a b : Regs → Nat → Nat) (h : Hints) (d : Drill) : Drill :=
  d.setPredLanes p (written d.regs h)
    (fun l => cmpHolds (t % 2 == 0) (formBits (t ≥ 2)) c (a d.regs l) (b d.regs l))

/-! ### Vector arithmetic, 32-bit (0x01) -/

/-- `add.i32` (t 0) and `add.n32` (R112). -/
def execAdd (t : Nat) (d : Nat) (a : Nat) (b : Nat) (s : State) : Host.Outcome State Fault Refusal :=
  regUnit (.add t d a b) s (arithLanes (t) false d (vecOperand false a) (vecOperand false b))

/-- `sub.i32` (t 0) and `sub.n32` (R112). -/
def execSub (t : Nat) (d : Nat) (a : Nat) (b : Nat) (s : State) : Host.Outcome State Fault Refusal :=
  regUnit (.sub t d a b) s (arithLanes (2 + t) false d (vecOperand false a) (vecOperand false b))

/-- `mul.i32` (t 0) and `mul.n32` (R112). -/
def execMul (t : Nat) (d : Nat) (a : Nat) (b : Nat) (s : State) : Host.Outcome State Fault Refusal :=
  regUnit (.mul t d a b) s (arithLanes (4 + t) false d (vecOperand false a) (vecOperand false b))

/-- `mulh.i32` (t 0) and `mulh.n32` (R112). -/
def execMulh (t : Nat) (d : Nat) (a : Nat) (b : Nat) (s : State) : Host.Outcome State Fault Refusal :=
  regUnit (.mulh t d a b) s (arithLanes (6 + t) false d (vecOperand false a) (vecOperand false b))

/-- `min.i32` (t 0) and `min.n32` (R112). -/
def execMin (t : Nat) (d : Nat) (a : Nat) (b : Nat) (s : State) : Host.Outcome State Fault Refusal :=
  regUnit (.min t d a b) s (arithLanes (8 + t) false d (vecOperand false a) (vecOperand false b))

/-- `max.i32` (t 0) and `max.n32` (R112). -/
def execMax (t : Nat) (d : Nat) (a : Nat) (b : Nat) (s : State) : Host.Outcome State Fault Refusal :=
  regUnit (.max t d a b) s (arithLanes (10 + t) false d (vecOperand false a) (vecOperand false b))

/-- `addc.n32` (R113). -/
def execAddc (d : Nat) (a : Nat) (b : Nat) (s : State) : Host.Outcome State Fault Refusal :=
  regUnit (.addc d a b) s (lanesCarry false false d (vecOperand false a) (vecOperand false b))

/-- `subb.n32` (R113). -/
def execSubb (d : Nat) (a : Nat) (b : Nat) (s : State) : Host.Outcome State Fault Refusal :=
  regUnit (.subb d a b) s (lanesCarry false true d (vecOperand false a) (vecOperand false b))

/-- `abs.i32` (R112). -/
def execAbs (d : Nat) (a : Nat) (s : State) : Host.Outcome State Fault Refusal :=
  regUnit (.abs d a) s (arithLanes 14 false d (vecOperand false a) (fun _ _ => 0))

/-- `neg.i32` (R112). -/
def execNeg (d : Nat) (a : Nat) (s : State) : Host.Outcome State Fault Refusal :=
  regUnit (.neg d a) s (arithLanes 15 false d (vecOperand false a) (fun _ _ => 0))

/-! ### Other forms of table A -/

/-- Table A in pairs (0x02). -/
def execIntArith64 (f : Nat) (d : Nat) (a : Nat) (b : Nat) (s : State) : Host.Outcome State Fault Refusal :=
  regUnit (.intArith64 f d a b) s (arithLanes f true d (vecOperand true a) (vecOperand true b))

/-- Table A with a uniform second operand (0x06). -/
def execIntArithVs (f : Nat) (d : Nat) (a : Nat) (sb : Nat) (s : State) : Host.Outcome State Fault Refusal :=
  regUnit (.intArithVs f d a sb) s (arithLanes f false d (vecOperand false a) (uniOperand false sb))

/-- Table A in pairs with a uniform second operand (0x07). -/
def execIntArith64Vs (f : Nat) (d : Nat) (a : Nat) (sb : Nat) (s : State) : Host.Outcome State Fault Refusal :=
  regUnit (.intArith64Vs f d a sb) s (arithLanes f true d (vecOperand true a) (uniOperand true sb))

/-! ### Logic and shifts (0x03, 0x04, 0x08, 0x09) -/

/-- `and.b32` (R114). -/
def execAnd (d : Nat) (a : Nat) (b : Nat) (s : State) : Host.Outcome State Fault Refusal :=
  regUnit (.and d a b) s (logicLanes 0 false d (vecOperand false a) (vecOperand false b))

/-- `or.b32` (R114). -/
def execOr (d : Nat) (a : Nat) (b : Nat) (s : State) : Host.Outcome State Fault Refusal :=
  regUnit (.or d a b) s (logicLanes 1 false d (vecOperand false a) (vecOperand false b))

/-- `xor.b32` (R114). -/
def execXor (d : Nat) (a : Nat) (b : Nat) (s : State) : Host.Outcome State Fault Refusal :=
  regUnit (.xor d a b) s (logicLanes 2 false d (vecOperand false a) (vecOperand false b))

/-- `andn.b32` (R114). -/
def execAndn (d : Nat) (a : Nat) (b : Nat) (s : State) : Host.Outcome State Fault Refusal :=
  regUnit (.andn d a b) s (logicLanes 3 false d (vecOperand false a) (vecOperand false b))

/-- `shl.b32` (R114). -/
def execShl (d : Nat) (a : Nat) (b : Nat) (s : State) : Host.Outcome State Fault Refusal :=
  regUnit (.shl d a b) s (logicLanes 5 false d (vecOperand false a) (vecOperand false b))

/-- `shr.b32` (R114). -/
def execShr (d : Nat) (a : Nat) (b : Nat) (s : State) : Host.Outcome State Fault Refusal :=
  regUnit (.shr d a b) s (logicLanes 6 false d (vecOperand false a) (vecOperand false b))

/-- `sra.b32` (R114). -/
def execSra (d : Nat) (a : Nat) (b : Nat) (s : State) : Host.Outcome State Fault Refusal :=
  regUnit (.sra d a b) s (logicLanes 7 false d (vecOperand false a) (vecOperand false b))

/-- `rol.b32` (R114). -/
def execRol (d : Nat) (a : Nat) (b : Nat) (s : State) : Host.Outcome State Fault Refusal :=
  regUnit (.rol d a b) s (logicLanes 8 false d (vecOperand false a) (vecOperand false b))

/-- `not.b32` (R114). -/
def execNot (d : Nat) (a : Nat) (s : State) : Host.Outcome State Fault Refusal :=
  regUnit (.not d a) s (logicLanes 4 false d (vecOperand false a) (fun _ _ => 0))

/-- `popc.b32` (R114). -/
def execPopc (d : Nat) (a : Nat) (s : State) : Host.Outcome State Fault Refusal :=
  regUnit (.popc d a) s (logicLanes 9 false d (vecOperand false a) (fun _ _ => 0))

/-- `clz.b32` (R114). -/
def execClz (d : Nat) (a : Nat) (s : State) : Host.Outcome State Fault Refusal :=
  regUnit (.clz d a) s (logicLanes 10 false d (vecOperand false a) (fun _ _ => 0))

/-- `ctz.b32` (R114). -/
def execCtz (d : Nat) (a : Nat) (s : State) : Host.Outcome State Fault Refusal :=
  regUnit (.ctz d a) s (logicLanes 11 false d (vecOperand false a) (fun _ _ => 0))

/-- `brev.b32` (R114). -/
def execBrev (d : Nat) (a : Nat) (s : State) : Host.Outcome State Fault Refusal :=
  regUnit (.brev d a) s (logicLanes 12 false d (vecOperand false a) (fun _ _ => 0))

/-- `mov.b32` (R114). -/
def execMov (d : Nat) (a : Nat) (s : State) : Host.Outcome State Fault Refusal :=
  regUnit (.mov d a) s (logicLanes 13 false d (vecOperand false a) (fun _ _ => 0))

/-- Table B in pairs (0x04). -/
def execLogic64 (f : Nat) (d : Nat) (a : Nat) (b : Nat) (s : State) : Host.Outcome State Fault Refusal :=
  regUnit (.logic64 f d a b) s (logicLanes f true d (vecOperand true a) (vecOperand true b))

/-- Table B with a uniform second operand (0x08). -/
def execLogicVs (f : Nat) (d : Nat) (a : Nat) (sb : Nat) (s : State) : Host.Outcome State Fault Refusal :=
  regUnit (.logicVs f d a sb) s (logicLanes f false d (vecOperand false a) (uniOperand false sb))

/-- Table B in pairs with a uniform second operand (0x09). -/
def execLogic64Vs (f : Nat) (d : Nat) (a : Nat) (sb : Nat) (s : State) : Host.Outcome State Fault Refusal :=
  regUnit (.logic64Vs f d a sb) s (logicLanes f true d (vecOperand true a) (uniOperand true sb))

/-! ### Table C (0x05; R117 to R119) -/

/-- Position and length of a bit field from a field operand (R117). -/
def bitField (x : Nat) : Nat × Nat := (x % 32, min (field x 8 6) (32 - x % 32))

/-- bfx: the field of a, sign-extended where `sgn` and it is not empty. -/
def bfxOf (sgn : Bool) (a x : Nat) : Nat :=
  let (pos, len) := bitField x
  let v := a / 2 ^ pos % 2 ^ len
  if sgn && len > 0 then wrap 32 (signed len v) else v

/-- bfi: b's low bits put into the field of a. -/
def bfiOf (a b x : Nat) : Nat :=
  let (pos, len) := bitField x
  let mask := (2 ^ len - 1) * 2 ^ pos
  (a &&& (2 ^ 32 - 1 - mask)) ||| (b * 2 ^ pos &&& mask)

/-- cvti by its code less 8 (R119): widening 0 to 5, narrowing 6 and 7. -/
def cvtiOf (c : Nat) (sat : Bool) (a : Nat) : Nat × Bool :=
  match c with
  | 0 => (extend true 8 32 a, false)
  | 1 => (extend true 16 32 a, false)
  | 2 => (extend false 8 32 a, false)
  | 3 => (extend false 16 32 a, false)
  | 4 => (extend true 32 64 a, false)
  | 5 => (extend false 32 64 a, false)
  | 6 => if sat then saturate true 32 (signed 64 a) else (a % 2 ^ 32, false)
  | _ => if sat then saturate false 32 a else (a % 2 ^ 32, false)

/-- `mad` (R117). -/
def execMad (d : Nat) (a : Nat) (b : Nat) (s : State) : Host.Outcome State Fault Refusal :=
  regUnit (.mad d a b) s (fun h => lanesPlain false d (fun r l => (r.vecN a l * r.vecN b l + r.vecN (opcReg h) l) % 2 ^ 32) h)

/-- `bfx.n32` (R117). -/
def execBfxN32 (d : Nat) (a : Nat) (b : Nat) (s : State) : Host.Outcome State Fault Refusal :=
  regUnit (.bfxN32 d a b) s (lanesPlain false d (fun r l => bfxOf false (r.vecN a l) (r.vecN b l)))

/-- `bfx.i32` (R117). -/
def execBfxI32 (d : Nat) (a : Nat) (b : Nat) (s : State) : Host.Outcome State Fault Refusal :=
  regUnit (.bfxI32 d a b) s (lanesPlain false d (fun r l => bfxOf true (r.vecN a l) (r.vecN b l)))

/-- `bfi` (R117). -/
def execBfi (d : Nat) (a : Nat) (b : Nat) (s : State) : Host.Outcome State Fault Refusal :=
  regUnit (.bfi d a b) s (fun h => lanesPlain false d (fun r l => bfiOf (r.vecN a l) (r.vecN b l) (r.vecN (opcReg h) l)) h)

/-- `lea.kN` (R118). -/
def execLea (k : Nat) (d : Nat) (a : Nat) (b : Nat) (s : State) : Host.Outcome State Fault Refusal :=
  regUnit (.lea k d a b) s (lanesPlain true d (fun r l => (r.pair a l + r.vecN b l * 2 ^ k) % 2 ^ 64))

/-- `cvti` (R119). -/
def execCvti (c : Nat) (d : Nat) (a : Nat) (s : State) : Host.Outcome State Fault Refusal :=
  regUnit (.cvti c d a) s (fun h => lanesSat (c == 4 || c == 5) d (fun r l => cvtiOf c (wantsSat h) (vecOperand (c == 6 || c == 7) a r l)) h)

/-! ### Immediates (R115, R116) -/

/-- `add` immediate (R115). -/
def execAddImm (d : Nat) (a : Nat) (imm : Nat) (s : State) : Host.Outcome State Fault Refusal :=
  regUnit (.addImm d a imm) s (fun h => lanesPlain false d (fun r l => (r.vecN a l + immPattern .s 11 imm h) % 2 ^ 32) h)

/-- `mul` immediate (R115). -/
def execMulImm (d : Nat) (a : Nat) (imm : Nat) (s : State) : Host.Outcome State Fault Refusal :=
  regUnit (.mulImm d a imm) s (fun h => lanesPlain false d (fun r l => r.vecN a l * immPattern .s 11 imm h % 2 ^ 32) h)

/-- `and` immediate (R115). -/
def execAndImm (d : Nat) (a : Nat) (imm : Nat) (s : State) : Host.Outcome State Fault Refusal :=
  regUnit (.andImm d a imm) s (fun h => lanesPlain false d (fun r l => r.vecN a l &&& immPattern .s 11 imm h) h)

/-- `or` immediate (R115). -/
def execOrImm (d : Nat) (a : Nat) (imm : Nat) (s : State) : Host.Outcome State Fault Refusal :=
  regUnit (.orImm d a imm) s (fun h => lanesPlain false d (fun r l => r.vecN a l ||| immPattern .s 11 imm h) h)

/-- `xor` immediate (R115). -/
def execXorImm (d : Nat) (a : Nat) (imm : Nat) (s : State) : Host.Outcome State Fault Refusal :=
  regUnit (.xorImm d a imm) s (fun h => lanesPlain false d (fun r l => r.vecN a l ^^^ immPattern .s 11 imm h) h)

/-- Shift by immediate (0x0F; R115). -/
def execShiftImm (d : Nat) (a : Nat) (o : Nat) (c : Nat) (s : State) : Host.Outcome State Fault Refusal :=
  regUnit (.shiftImm d a o c) s (lanesPlain false d (fun r l => shiftB o 32 (r.vecN a l) c))

/-- `ldi` (R116). -/
def execLdi (d : Nat) (imm : Nat) (s : State) : Host.Outcome State Fault Refusal :=
  regUnit (.ldi d imm) s (fun h => lanesPlain false d (fun _ _ => immPattern .s 11 imm h) h)

/-- `movk`: vd+1 (R116). -/
def execMovk (d : Nat) (imm : Nat) (s : State) : Host.Outcome State Fault Refusal :=
  regUnit (.movk d imm) s (fun h => lanesPlain false (d + 1) (fun _ _ => immPattern .z 11 imm h) h)

/-! ### Compares and selection (R121, R123) -/

/-- `cmp.C.T pd, va, vb` (R121). -/
def execCmp (t : Nat) (c : Nat) (p : Nat) (a : Nat) (b : Nat) (s : State) : Host.Outcome State Fault Refusal :=
  regUnit (.cmp t c p a b) s (cmpLanes t c p (vecOperand (t ≥ 2) a) (vecOperand (t ≥ 2) b))

/-- `cmp.C.T pd, va, sb` (R121). -/
def execCmpVs (t : Nat) (c : Nat) (p : Nat) (a : Nat) (sb : Nat) (s : State) : Host.Outcome State Fault Refusal :=
  regUnit (.cmpVs t c p a sb) s (cmpLanes t c p (vecOperand (t ≥ 2) a) (uniOperand (t ≥ 2) sb))

/-- `sel` (R123). -/
def execSel (n : Nat) (d : Nat) (a : Nat) (b : Nat) (s : State) : Host.Outcome State Fault Refusal :=
  regUnit (.sel n d a b) s (lanesPlain false d (fun r l => if bitAt (r.pred n) l then r.vecN a l else r.vecN b l))

/-! ### Uniform instructions (R120, R122) -/

/-- An immediate's pattern extended to 64 bits by its rule (R96). -/
def uniPattern (rule : ImmRule) (imm : Nat) (h : Hints) : Nat :=
  let p := immPattern rule 13 imm h
  if rule = .s then wrap 64 (signed 32 p) else p

/-- Table D (R120). -/
def execUniformAlu (f : Nat) (d : Nat) (a : Nat) (b : Nat) (s : State) : Host.Outcome State Fault Refusal :=
  regUnit (.uniformAlu f d a b) s (fun h d1 => let x := tableD f (wantsSat h) (d1.regs.uniN a) (d1.regs.uniN b); (d1.setUni d x.1).raise (flagIf x.2 flagSA))

/-- `cmp.C.T pd, sa, sb`: all ones or all zeros (R122). -/
def execCmpU (t : Nat) (c : Nat) (p : Nat) (a : Nat) (b : Nat) (s : State) : Host.Outcome State Fault Refusal :=
  regUnit (.cmpU t c p a b) s (fun _ d => d.setPred p (if cmpHolds (t % 2 == 0) (formBits (t ≥ 2)) c (d.regs.uniN a % 2 ^ formBits (t ≥ 2)) (d.regs.uniN b % 2 ^ formBits (t ≥ 2)) then allOnes else 0))

/-- Uniform `add` immediate (R120). -/
def execAddImmU (d : Nat) (a : Nat) (imm : Nat) (s : State) : Host.Outcome State Fault Refusal :=
  regUnit (.addImmU d a imm) s (fun h d1 => d1.setUni d (d1.regs.uniN a + uniPattern .s imm h))

/-- Uniform `mul` immediate (R120). -/
def execMulImmU (d : Nat) (a : Nat) (imm : Nat) (s : State) : Host.Outcome State Fault Refusal :=
  regUnit (.mulImmU d a imm) s (fun h d1 => d1.setUni d (d1.regs.uniN a * uniPattern .s imm h))

/-- Uniform `and` immediate (R120). -/
def execAndImmU (d : Nat) (a : Nat) (imm : Nat) (s : State) : Host.Outcome State Fault Refusal :=
  regUnit (.andImmU d a imm) s (fun h d1 => d1.setUni d (d1.regs.uniN a &&& uniPattern .s imm h))

/-- Uniform `or` immediate (R120). -/
def execOrImmU (d : Nat) (a : Nat) (imm : Nat) (s : State) : Host.Outcome State Fault Refusal :=
  regUnit (.orImmU d a imm) s (fun h d1 => d1.setUni d (d1.regs.uniN a ||| uniPattern .s imm h))

/-- Uniform `xor` immediate (R120). -/
def execXorImmU (d : Nat) (a : Nat) (imm : Nat) (s : State) : Host.Outcome State Fault Refusal :=
  regUnit (.xorImmU d a imm) s (fun h d1 => d1.setUni d (d1.regs.uniN a ^^^ uniPattern .s imm h))

/-- Uniform shift by immediate (R120). -/
def execShiftImmU (d : Nat) (a : Nat) (o : Nat) (c : Nat) (s : State) : Host.Outcome State Fault Refusal :=
  regUnit (.shiftImmU d a o c) s (fun _ d1 => d1.setUni d (shiftB o 64 (d1.regs.uniN a) c))

/-- Uniform `ldi` (R120). -/
def execLdiU (d : Nat) (imm : Nat) (s : State) : Host.Outcome State Fault Refusal :=
  regUnit (.ldiU d imm) s (fun h d1 => d1.setUni d (uniPattern .s imm h))

/-- Uniform `movk` (R120). -/
def execMovkU (d : Nat) (imm : Nat) (s : State) : Host.Outcome State Fault Refusal :=
  regUnit (.movkU d imm) s (fun h d1 => d1.setUni d (d1.regs.uniN d % 2 ^ 32 + uniPattern .z imm h % 2 ^ 32 * 2 ^ 32))

/-! ### Predicates (R124, R125) -/

/-- `pand` (R124). -/
def execPand (d : Nat) (a : Nat) (b : Nat) (s : State) : Host.Outcome State Fault Refusal :=
  regUnit (.pand d a b) s (fun _ d1 => d1.setPred d (d1.regs.pred a &&& d1.regs.pred b))

/-- `por` (R124). -/
def execPor (d : Nat) (a : Nat) (b : Nat) (s : State) : Host.Outcome State Fault Refusal :=
  regUnit (.por d a b) s (fun _ d1 => d1.setPred d (d1.regs.pred a ||| d1.regs.pred b))

/-- `pxor` (R124). -/
def execPxor (d : Nat) (a : Nat) (b : Nat) (s : State) : Host.Outcome State Fault Refusal :=
  regUnit (.pxor d a b) s (fun _ d1 => d1.setPred d (d1.regs.pred a ^^^ d1.regs.pred b))

/-- `pnot` (R124). -/
def execPnot (d : Nat) (a : Nat) (s : State) : Host.Outcome State Fault Refusal :=
  regUnit (.pnot d a) s (fun _ d1 => d1.setPred d (~~~ d1.regs.pred a))

/-- `pmov pd, pa` (R124). -/
def execPmovPp (d : Nat) (a : Nat) (s : State) : Host.Outcome State Fault Refusal :=
  regUnit (.pmovPp d a) s (fun _ d1 => d1.setPred d (d1.regs.pred a))

/-- `pcnt` (R125). -/
def execPcnt (d : Nat) (a : Nat) (s : State) : Host.Outcome State Fault Refusal :=
  regUnit (.pcnt d a) s (fun _ d1 => d1.setUni d (popcount 64 (d1.regs.pred a).toNat))

/-- `pfirst` (R125). -/
def execPfirst (d : Nat) (a : Nat) (s : State) : Host.Outcome State Fault Refusal :=
  regUnit (.pfirst d a) s (fun _ d1 => d1.setUni d (lowest 64 (d1.regs.pred a).toNat))

/-- `pmov sd, pa` (R125). -/
def execPmovSp (d : Nat) (a : Nat) (s : State) : Host.Outcome State Fault Refusal :=
  regUnit (.pmovSp d a) s (fun _ d1 => d1.setUni d (d1.regs.pred a).toNat)

/-- `pmov pd, sa` (R125). -/
def execPmovPs (d : Nat) (a : Nat) (s : State) : Host.Outcome State Fault Refusal :=
  regUnit (.pmovPs d a) s (fun _ d1 => d1.setPred d (d1.regs.uni a))

end Sys2Proof.Machine
end

