-- ==== Sys2Proof/Machine/Lanes.lean ====
section
/-!
DEFINITION. Lane instructions (10_lanes_barriers_traps.md R180 to R185): majors 0x68 to 0x6B.
-/

namespace Sys2Proof.Machine

open Sys2Proof

/-! ### Shuffle, broadcast, exchange -/

/-- A result per written lane, sources read in all 64 lanes (R180). -/
def laneMove (dst : Nat) (f : Regs → Nat → Nat) (h : Hints) (d : Drill) : Drill := d.setVec dst (written d.regs h) (f d.regs)

/-- `shfl` (R182). -/
def execShfl (d : Nat) (a : Nat) (b : Nat) (s : State) : Host.Outcome State Fault Refusal :=
  regUnit (.shfl d a b) s (laneMove d (fun r l => r.vecN a (r.vecN b l % 64)))

/-- `bcst` of the lane a uniform register names (R182). -/
def execBcst (d : Nat) (a : Nat) (sb : Nat) (s : State) : Host.Outcome State Fault Refusal :=
  regUnit (.bcst d a sb) s (laneMove d (fun r _ => r.vecN a (r.uniN sb % 64)))

/-- `bcst` of lane n (R182). -/
def execBcstImm (d : Nat) (a : Nat) (n : Nat) (s : State) : Host.Outcome State Fault Refusal :=
  regUnit (.bcstImm d a n) s (laneMove d (fun r _ => r.vecN a n))

/-- `lxb.lo` at stride 2^f (R183). -/
def execLxbLo (f : Nat) (d : Nat) (a : Nat) (b : Nat) (s : State) : Host.Outcome State Fault Refusal :=
  regUnit (.lxbLo f d a b) s (laneMove d (fun r l => if l / 2 ^ f % 2 = 0 then r.vecN a l else r.vecN b (l ^^^ 2 ^ f)))

/-- `lxb.hi` at stride 2^f (R183). -/
def execLxbHi (f : Nat) (d : Nat) (a : Nat) (b : Nat) (s : State) : Host.Outcome State Fault Refusal :=
  regUnit (.lxbHi f d a b) s (laneMove d (fun r l => if l / 2 ^ f % 2 = 0 then r.vecN a (l ^^^ 2 ^ f) else r.vecN b l))

/-! ### Vote (R184) -/

/-- A vote over the written lanes. -/
def voteLanes (p a : Nat) (f : List Nat → (Nat → Bool) → Bool) (h : Hints) (d : Drill) : Drill :=
  let ls := written d.regs h
  let t := f ls (bitAt (d.regs.pred a))
  d.setPredLanes p ls (fun _ => t)

/-- `vote.any` (R184). -/
def execVoteAny (p : Nat) (a : Nat) (s : State) : Host.Outcome State Fault Refusal :=
  regUnit (.voteAny p a) s (voteLanes p a (fun ls b => ls.any b))

/-- `vote.all` (R184). -/
def execVoteAll (p : Nat) (a : Nat) (s : State) : Host.Outcome State Fault Refusal :=
  regUnit (.voteAll p a) s (voteLanes p a (fun ls b => ls.all b))

/-- `vote.uni` (R184). -/
def execVoteUni (p : Nat) (a : Nat) (s : State) : Host.Outcome State Fault Refusal :=
  regUnit (.voteUni p a) s (voteLanes p a (fun ls b => ls.all b || ls.all (fun l => !b l)))

/-! ### Scans and reductions (R185) -/

/-- The operations of a fold. -/
inductive Fold where
  | addI32
  | addF32
  | maxI32
  | minI32
  | maxF32
  | minF32
  deriving DecidableEq, Repr

/-- The identity of a fold. -/
def Fold.identity : Fold → Nat
  | .addI32 | .addF32 => 0
  | .maxI32 => 0x80000000
  | .minI32 => 0x7FFFFFFF
  | .maxF32 => 0xFF800000
  | .minF32 => 0x7F800000

/-- One step of a fold. -/
def Fold.step : Fold → Nat → Nat → Nat × Flags
  | .addI32, x, y => ((x + y) % 2 ^ 32, 0)
  | .addF32, x, y => fadd .f32 RoundCtx.rn (f32v x) (f32v y)
  | .maxI32, x, y => (if signed 32 x ≥ signed 32 y then x else y, 0)
  | .minI32, x, y => (if signed 32 x ≤ signed 32 y then x else y, 0)
  | .maxF32, x, y => fminmax .f32 false x y
  | .minF32, x, y => fminmax .f32 true x y

/-- Whether a fold is of f32 values. -/
def Fold.isFloat : Fold → Bool
  | .addF32 | .maxF32 | .minF32 => true
  | _ => false

/-- The fold of one value: a NaN is delivered as the canonical one, with NV where it signals (R43, R52). -/
def Fold.alone (f : Fold) (x : Nat) : Nat × Flags :=
  if f.isFloat && (f32v x).isNan then (Fmt.f32.nan, snanFlag [f32v x]) else (x, 0)

/-- The fold of values in order, the first exact, with the flags of its steps. -/
def Fold.run (f : Fold) : List Nat → Nat × Flags
  | [] => (f.identity, 0)
  | [x] => f.alone x
  | x :: xs => xs.foldl (fun a y => let z := f.step a.1 y; (z.1, a.2 ||| z.2)) (x, 0)

/-- The fold a lane receives: over the contributing lanes, for a scan those up to it. -/
def foldLane (f : Fold) (scan : Bool) (a p : Nat) (r : Regs) (l : Nat) : Nat × Flags :=
  f.run ((lanes.filter (fun j => bitAt (r.pred p) j && (!scan || decide (j ≤ l)))).map (r.vecN a))

/-- `lscan` and `lred`. -/
def foldLanes (f : Fold) (scan : Bool) (dst a p : Nat) (h : Hints) (d : Drill) : Drill :=
  let ls := written d.regs h
  (d.setVec dst ls (fun l => (foldLane f scan a p d.regs l).1)).raise (flagsOf ls (fun l => (foldLane f scan a p d.regs l).2))

/-- `lscan.add.i32` (R185). -/
def execLscanAddI32 (d : Nat) (a : Nat) (p : Nat) (s : State) : Host.Outcome State Fault Refusal :=
  regUnit (.lscanAddI32 d a p) s (foldLanes .addI32 true d a p)

/-- `lscan.add.f32` (R185). -/
def execLscanAddF32 (d : Nat) (a : Nat) (p : Nat) (s : State) : Host.Outcome State Fault Refusal :=
  regUnit (.lscanAddF32 d a p) s (foldLanes .addF32 true d a p)

/-- `lscan.max.i32` (R185). -/
def execLscanMaxI32 (d : Nat) (a : Nat) (p : Nat) (s : State) : Host.Outcome State Fault Refusal :=
  regUnit (.lscanMaxI32 d a p) s (foldLanes .maxI32 true d a p)

/-- `lscan.min.i32` (R185). -/
def execLscanMinI32 (d : Nat) (a : Nat) (p : Nat) (s : State) : Host.Outcome State Fault Refusal :=
  regUnit (.lscanMinI32 d a p) s (foldLanes .minI32 true d a p)

/-- `lscan.max.f32` (R185). -/
def execLscanMaxF32 (d : Nat) (a : Nat) (p : Nat) (s : State) : Host.Outcome State Fault Refusal :=
  regUnit (.lscanMaxF32 d a p) s (foldLanes .maxF32 true d a p)

/-- `lscan.min.f32` (R185). -/
def execLscanMinF32 (d : Nat) (a : Nat) (p : Nat) (s : State) : Host.Outcome State Fault Refusal :=
  regUnit (.lscanMinF32 d a p) s (foldLanes .minF32 true d a p)

/-- `lred.add.i32` (R185). -/
def execLredAddI32 (d : Nat) (a : Nat) (p : Nat) (s : State) : Host.Outcome State Fault Refusal :=
  regUnit (.lredAddI32 d a p) s (foldLanes .addI32 false d a p)

/-- `lred.add.f32` (R185). -/
def execLredAddF32 (d : Nat) (a : Nat) (p : Nat) (s : State) : Host.Outcome State Fault Refusal :=
  regUnit (.lredAddF32 d a p) s (foldLanes .addF32 false d a p)

/-- `lred.max.i32` (R185). -/
def execLredMaxI32 (d : Nat) (a : Nat) (p : Nat) (s : State) : Host.Outcome State Fault Refusal :=
  regUnit (.lredMaxI32 d a p) s (foldLanes .maxI32 false d a p)

/-- `lred.min.i32` (R185). -/
def execLredMinI32 (d : Nat) (a : Nat) (p : Nat) (s : State) : Host.Outcome State Fault Refusal :=
  regUnit (.lredMinI32 d a p) s (foldLanes .minI32 false d a p)

/-- `lred.max.f32` (R185). -/
def execLredMaxF32 (d : Nat) (a : Nat) (p : Nat) (s : State) : Host.Outcome State Fault Refusal :=
  regUnit (.lredMaxF32 d a p) s (foldLanes .maxF32 false d a p)

/-- `lred.min.f32` (R185). -/
def execLredMinF32 (d : Nat) (a : Nat) (p : Nat) (s : State) : Host.Outcome State Fault Refusal :=
  regUnit (.lredMinF32 d a p) s (foldLanes .minF32 false d a p)

end Sys2Proof.Machine
end

