-- ==== Sys2Proof/Machine/Matrix.lean ====
section
/-!
DEFINITION. Matrix and training instructions (11_matrix_and_training.md, 03_numbers.md R53 to R59): majors 0x70 to 0x77.
-/

namespace Sys2Proof.Machine

open Sys2Proof

/-! ### Tiles (R42, R53, R198) -/

/-- Operand formats of a fmt code: A and B (R104). -/
def mmaFmts : Nat → Fmt × Fmt
  | 0 => (.bf16, .bf16)
  | 1 => (.f16, .f16)
  | 2 => (.e4m3, .e4m3)
  | 3 => (.e5m2, .e5m2)
  | 4 => (.e4m3, .e5m2)
  | 5 => (.e5m2, .e4m3)
  | _ => (.e2m1, .e2m1)

/-- Elements per row (R104). -/
def rowLen (f : Fmt) : Nat := 256 / f.width

/-- Element (i, k) of a tile read in a format. -/
def Regs.tileElem (r : Regs) (n : Nat) (f : Fmt) (i k : Nat) : Nat :=
  if f.width = 16 then (r.tileByte n (32 * i + 2 * k)).toNat + 256 * (r.tileByte n (32 * i + 2 * k + 1)).toNat
  else if f.width = 8 then (r.tileByte n (32 * i + k)).toNat
  else (r.tileByte n (32 * i + k / 2)).toNat / 16 ^ (k % 2) % 16

/-- The block scale of row i, block b (R23, R53). -/
def Regs.blockScale (r : Regs) (n i b : Nat) : FVal := unpack .e3m5 (r.sideByte n (8 * i + b)).toNat

/-! ### Multiply-accumulate (R55, R56) -/

/-- An exact sum or product on the way: a value, or the mark that 0 · ∞ or ∞ − ∞ arose. -/
abbrev Part := Option FVal

def mulPart (a b : Part) : Part :=
  match a, b with
  | some x, some y => mulVal x y
  | _, _ => none

def addPart (a b : Part) : Part :=
  match a, b with
  | some (.inf m), some (.inf n) => if m = n then some (.inf m) else none
  | some x, some y => some (addVal x y)
  | _, _ => none

/-- Whether a part is the infinity of a sign. -/
def infPart (neg : Bool) (p : Part) : Bool := p == some (.inf neg)

/-- A sum of terms, in whatever order: marked where a term is, or where infinities of both signs are among them. -/
def sumParts (ps : List Part) : Part :=
  if ps.any Option.isNone || (ps.any (infPart true) && ps.any (infPart false)) then none
  else ps.foldl addPart (some (.fin (Ex.zero false)))

/-- Whether a part is −0. -/
def negZero (p : Part) : Bool :=
  match p with
  | some (.fin x) => x.isZero && x.neg
  | _ => false

/-- Whether the exact total holds infinities of both signs, the old accumulator's and a term's, whatever else is a NaN (R56). -/
def clashes (terms : List Part) (bandA bandB acc : FVal) : Bool :=
  match acc with
  | .inf n => terms.any (fun p => (infPart true p || infPart false p) && infPart (!n) (mulPart (mulPart p (some bandA)) (some bandB)))
  | _ => false

/-- The scaled sum of some terms as it enters the accumulation: a zero is −0 only where every term, scaled, is (R56). A term is a single product
with its scales: DESIGN CHOICE (log 87). -/
def zeroSigned (terms : List Part) (bandA bandB : FVal) (t : FVal) : FVal :=
  match t with
  | .fin x => if x.isZero then .fin (Ex.zero (terms.all (fun p => negZero (mulPart (mulPart p (some bandA)) (some bandB))))) else t
  | _ => t

/-- One output: the rows' elements, their block scales, the band scales, the old accumulator element. -/
def mmaElem (xs ys : List FVal) (sa sb : List FVal) (bandA bandB : FVal) (old : Nat) : Nat × Flags :=
  let acc := f32v old
  let ins := acc :: bandA :: bandB :: (xs ++ ys)
  let terms := ((upto xs.length).zip (xs.zip ys)).map (fun p =>
    mulPart (mulPart (mulPart (some p.2.1) (some p.2.2)) (sa[p.1 / 8]?)) (sb[p.1 / 8]?))
  match mulPart (mulPart (sumParts terms) (some bandA)) (some bandB) with
  | none => (Fmt.f32.nan, flagNV ||| snanFlag ins)
  | some t =>
    if ins.any FVal.isNan then (Fmt.f32.nan, (if clashes terms bandA bandB acc then flagNV else 0) ||| snanFlag ins)
    else fadd .f32 RoundCtx.rn acc (zeroSigned terms bandA bandB t)

/-- Scale 1 for each block of a row. -/
def unitScales : List FVal := List.replicate 8 one

/-- A whole multiply-accumulate into aD: the accumulator's new elements with their flags. -/
def mmaAll (r : Regs) (f d a b : Nat) (scaled : Bool) (bandA bandB : FVal) : List (Nat × Flags) :=
  let (fa, fb) := mmaFmts f
  let row := fun (n : Nat) (t : Fmt) (i : Nat) => (upto (rowLen t)).map (fun k => unpack t (r.tileElem n t i k))
  let scales := fun (n i : Nat) => if scaled then (upto 8).map (r.blockScale n i) else unitScales
  let rowsB := (upto 32).map (fun j => (row b fb j, scales b j))
  (upto 32).flatMap (fun i =>
    let ra := row a fa i
    let sa := scales a i
    (rowsB.zip (upto 32)).map (fun q => mmaElem ra q.1.1 sa q.1.2 bandA bandB (r.accElem d (32 * i + q.2)).toNat))

/-- The drill with a multiply-accumulate's results written. -/
def Drill.mmaDone (x : Drill) (d : Nat) (out : List (Nat × Flags)) : Drill :=
  let arr := out.toArray
  { (x.setAcc d (fun e => (arr.getD e (0, 0)).1)).raise (out.foldl (fun fl y => fl ||| y.2) 0) with inflight := x.inflight + 1 }

/-- `mma` (R212); `ra` and `rb` change no result (R36). -/
def execMma (f : Nat) (d : Nat) (a : Nat) (b : Nat) (x : Nat) (y : Nat) (s : State) : Host.Outcome State Fault Refusal :=
  asUnit (.mma f d a b x y) s (fun s' r =>
    .done (s'.later [.instructionComplete s.cur]) (r.mmaDone d (mmaAll r.regs f d a b false one one)))

/-- `mmas.e2m1` (R212). -/
def execMmas (d : Nat) (a : Nat) (b : Nat) (x : Nat) (y : Nat) (u : Nat) (s : State) : Host.Outcome State Fault Refusal :=
  asUnit (.mmas d a b x y u) s (fun s' r =>
    let band := r.regs.uniN u
    .done (s'.later [.instructionComplete s.cur]) (r.mmaDone d (mmaAll r.regs 6 d a b true
      (unpack .bf16 (band % 2 ^ 16)) (unpack .bf16 (band / 2 ^ 16 % 2 ^ 16)))))

/-! ### Rows between memory and registers (R204 to R206) -/

/-- The accesses of the 32 rows of w bytes. -/
def rowAccs (r : Regs) (h : Hints) (base v c w : Nat) : List Acc :=
  (upto 32).map (fun i =>
    { lane := i, n := w
      ea := if v = 0 ∧ c = 0 then wrap 64 ((eaOf r h base 0 0 0 : Int) + i * w) else eaOf r h base v c i })

/-- The bytes that rows of sites hold, as one array. -/
def rowBytes (s : State) (k : Nat) (d : Drill) (sites : List Site) : Array Byte :=
  (sites.flatMap (fun y => y.vas.map (s.siteByte (coreOf k) d y))).toArray

/-- `tld` (R205): the side-band is unchanged. -/
def execTld (t : Nat) (base : Nat) (v : Nat) (c : Nat) (s : State) : Host.Outcome State Fault Refusal :=
  memUnit (.tld t base v c) s (fun k h s x =>
    s.access k x .read false h (rowAccs x.regs h base v c 32) (fun s x sites =>
      let m := rowBytes s k x sites
      (s, x.setTile t (fun b => (m.getD b 0).toNat))))

/-- `acld` (R205). -/
def execAcld (a : Nat) (base : Nat) (v : Nat) (c : Nat) (s : State) : Host.Outcome State Fault Refusal :=
  memUnit (.acld a base v c) s (fun k h s x =>
    s.access k x .read false h (rowAccs x.regs h base v c 128) (fun s x sites =>
      let m := rowBytes s k x sites
      (s, x.setAcc a (fun e => ofBytes ((upto 4).map (fun j => m.getD (4 * e + j) 0))))))

/-- `tst` (R205). -/
def execTst (t : Nat) (base : Nat) (v : Nat) (c : Nat) (s : State) : Host.Outcome State Fault Refusal :=
  memUnit (.tst t base v c) s (fun k h s x =>
    s.access k x .store false h (rowAccs x.regs h base v c 32) (fun s' x sites =>
      let ch := storeSites h s.unit.first 1 (fun y => (upto 32).map (fun j => x.regs.tileByte t (32 * y.acc.lane + j))) x.chunk sites
      (s'.trimLines k { x with chunk := ch }, { x with chunk := ch })))

/-- `acst` (R205). -/
def execAcst (a : Nat) (base : Nat) (v : Nat) (c : Nat) (s : State) : Host.Outcome State Fault Refusal :=
  memUnit (.acst a base v c) s (fun k h s x =>
    s.access k x .store false h (rowAccs x.regs h base v c 128) (fun s' x sites =>
      let ch := storeSites h s.unit.first 1
        (fun y => (upto 32).flatMap (fun j => toBytes 4 (x.regs.accElem a (32 * y.acc.lane + j)).toNat)) x.chunk sites
      (s'.trimLines k { x with chunk := ch }, { x with chunk := ch })))

/-! ### Moves (R199, R207 to R210) -/

/-- Element e of a run of vector registers (R199). -/
def Regs.runElem (r : Regs) (first e : Nat) : Nat := r.vecN (first + e / 64) (e % 64)

/-- The rounding of a `tmv` conversion: element e draws the random bits of its lane and its register's place (R50, R208). -/
def tmvCtx (h : Hints) (r : Regs) (e : Nat) : RoundCtx :=
  roundCtx (anyMode true h r.round) (wantsSat h) r.seed (e % 64) (e / 64)

/-- A tile's bytes from its elements' codes in a format. -/
def packTile (f : Fmt) (code : Nat → Nat) (b : Nat) : Nat :=
  if f.width = 16 then code (b / 2) / 256 ^ (b % 2) % 256
  else if f.width = 8 then code b
  else code (2 * b) + 16 * code (2 * b + 1)

/-- Elements converted into a tile, with flags, and the count of `sr` roundings. -/
def Drill.setConverted (d : Drill) (h : Hints) (t : Nat) (f : Fmt) (out : List (Nat × Flags)) : Drill :=
  let arr := out.toArray
  ((d.setTile t (packTile f (fun e => (arr.getD e (0, 0)).1))).raise (out.foldl (fun fl y => fl ||| y.2) 0)).countSr
    (anyMode true h d.regs.round)

/-- `tmv` fn 0 to 3 (R208): K·32 elements converted from f32. -/
def tmvConvert (f : Fmt) (t a : Nat) (h : Hints) (d : Drill) : Drill :=
  d.setConverted h t f ((upto (32 * rowLen f)).map (fun e => cvtTo f (tmvCtx h d.regs e) (f32v (d.regs.runElem a e))))

/-- `tmv.bf16 tN, va` (R208). -/
def execTmvBf16 (t : Nat) (a : Nat) (s : State) : Host.Outcome State Fault Refusal :=
  regUnit (.tmvBf16 t a) s (tmvConvert .bf16 t a)

/-- `tmv.f16 tN, va` (R208). -/
def execTmvF16 (t : Nat) (a : Nat) (s : State) : Host.Outcome State Fault Refusal :=
  regUnit (.tmvF16 t a) s (tmvConvert .f16 t a)

/-- `tmv.e4m3 tN, va` (R208). -/
def execTmvE4m3 (t : Nat) (a : Nat) (s : State) : Host.Outcome State Fault Refusal :=
  regUnit (.tmvE4m3 t a) s (tmvConvert .e4m3 t a)

/-- `tmv.e5m2 tN, va` (R208). -/
def execTmvE5m2 (t : Nat) (a : Nat) (s : State) : Host.Outcome State Fault Refusal :=
  regUnit (.tmvE5m2 t a) s (tmvConvert .e5m2 t a)

/-- Byte j of a register read as an image, four bytes per lane (R199). -/
def Regs.imageByte (r : Regs) (first j : Nat) : Nat := r.runElem first (j / 4) / 256 ^ (j % 4) % 256

/-- An f32 value divided by a block scale into e2m1 (R208). -/
def quantise (c : RoundCtx) (x s : FVal) : Nat × Flags :=
  match s with
  | .fin y =>
    if y.isZero then
      (0, match x with
        | .fin z => if z.isZero then 0 else flagNX
        | _ => flagNV)
    else match x with
      | .fin z => cvtTo .e2m1 c (.fin (divEx z y))
      | _ => cvtTo .e2m1 c x
  | _ => (0, 0)

/-- `tmv.e2m1 tN, va, vb` (R208): the side-band is vb's image. -/
def execTmvE2m1 (t : Nat) (a : Nat) (b : Nat) (s : State) : Host.Outcome State Fault Refusal :=
  regUnit (.tmvE2m1 t a b) s (fun h d =>
    let side := d.regs.imageByte b
    (d.setConverted h t .e2m1 ((upto 2048).map (fun e =>
      quantise (tmvCtx h d.regs e) (f32v (d.regs.runElem a e)) (unpack .e3m5 (side (8 * (e / 64) + e % 64 / 8)))))).setSide t side)

/-- `tmv tN, va`: raw bytes, the side-band unchanged (R208). -/
def execTmvRaw (t : Nat) (a : Nat) (s : State) : Host.Outcome State Fault Refusal :=
  regUnit (.tmvRaw t a) s (fun _ d => d.setTile t (d.regs.imageByte a))

/-- Registers of a run written in the lanes active in `em` (R200), element e as f e. -/
def Drill.setRun (d : Drill) (first count : Nat) (f : Nat → Nat) : Drill :=
  let ls := lanes.filter (bitAt d.regs.em)
  (upto count).foldl (fun d k => d.setVec (first + k) ls (fun l => f (64 * k + l))) d

/-- `tmv vd, tN` (R208). -/
def execTmvToVec (d : Nat) (t : Nat) (s : State) : Host.Outcome State Fault Refusal :=
  regUnit (.tmvToVec d t) s (fun _ x =>
    x.setRun d 4 (fun e => ofBytes ((upto 4).map (fun j => x.regs.tileByte t (4 * e + j)))))

/-- `acmv vd, aN` (R209). -/
def execAcmvToVec (d : Nat) (a : Nat) (s : State) : Host.Outcome State Fault Refusal :=
  regUnit (.acmvToVec d a) s (fun _ x => x.setRun d 16 (fun e => (x.regs.accElem a e).toNat))

/-- `acmv aN, va` (R209). -/
def execAcmvFromVec (c : Nat) (a : Nat) (s : State) : Host.Outcome State Fault Refusal :=
  regUnit (.acmvFromVec c a) s (fun _ x => x.setAcc c (x.regs.runElem a))

/-- `tzero` (R210). -/
def execTzero (t : Nat) (s : State) : Host.Outcome State Fault Refusal :=
  regUnit (.tzero t) s (fun _ d => (d.setTile t (fun _ => 0)).setSide t (fun _ => 0x60))

/-- `acz` (R210). -/
def execAcz (a : Nat) (s : State) : Host.Outcome State Fault Refusal :=
  regUnit (.acz a) s (fun _ d => d.setAcc a (fun _ => 0))

/-! ### Exponent histogram (R59, R214) -/

/-- The bin of an f32 element. -/
def expBin (x : Nat) : Nat :=
  let e := x / 2 ^ 23 % 256
  if e = 0 then 0 else if e = 255 then 31 else min 31 (e + 16 - min (e + 16) 127)

/-- The address checks of `exph`, in the order of R156. For an absent sector (detail 6) the address reported is the first of the 128 bytes in the
lowest sector that is absent and targeted by nothing: DEDUCED (log 38). -/
def State.exphTrap (s : State) (d : Drill) (ea : Nat) : Option Trap :=
  if !(isGlobal ea || isScratch ea || isPriv ea) then some (addrTrapAt 6 1 ea)
  else if isScratch ea && strayBits ea then some (addrTrapAt 6 2 ea)
  else if ea % 4 ≠ 0 then some (addrTrapAt 6 4 ea)
  else if !isScratch ea then some (addrTrapAt 6 5 ea)
  else if scrOff ea + 128 > s.scratchSize d then some (addrTrapAt 6 3 ea)
  else match (sectorsOf (scrOff ea) 128).find? (fun q => !s.present d q && !s.targeted d.wg q) with
    | some q => some (addrTrapAt 6 6 (ea - scrOff ea + max (scrOff ea) (32 * q)))
    | none => none

/-- `exph` (R214): the bins are read and written as speculative data. -/
def execExph (a : Nat) (sb : Nat) (s : State) : Host.Outcome State Fault Refusal :=
  memUnit (.exph a sb) s (fun k h s x =>
    let ea := x.regs.uniN sb
    match s.exphTrap x ea with
    | some t => .trap t
    | none =>
      let site : Site := { acc := { lane := 0, ea := ea, n := 128 }, kind := .scratch, desc := 0, key := 0
                           vas := (upto 128).map (fun j => scrOff ea + j) }
      (s.accessSites k x .atom h [site] (fun s' x _ =>
        let els := (upto 1024).map (fun e => expBin (x.regs.accElem a e).toNat)
        let sums := (upto 32).map (fun n =>
          ofBytes ((upto 4).map (fun j => s'.siteByte (coreOf k) x site (scrOff ea + 4 * n + j))) + els.count n)
        let ch := x.chunk.store site 0 s.unit.first 3 (sums.flatMap (fun y => toBytes 4 (min y 0xFFFFFFFF)))
        (s'.trimLines k { x with chunk := ch }, ({ x with chunk := ch }).raise (if sums.any (fun y => decide (y > 0xFFFFFFFF)) then flagSA else 0)))).once)

/-! ### The optimizer step (R57, R58, R215, R216) -/

/-- Whether an f32 pattern is a NaN or infinite. -/
def nonFinite (x : Nat) : Bool := x / 2 ^ 23 % 256 == 255

/-- What one element comes to: w, m, v and flags, or none where it is left unchanged. -/
def adamwElem (b1 b2 c1 c2 lr eps wd clip bc1 bc2 : Nat) (w m v g : Nat) : Option (Nat × Nat × Nat × Flags) :=
  if nonFinite g || nonFinite m || nonFinite v then none
  else
    let k := RoundCtx.rn
    let mul := fun (x y : Nat) => fmul .f32 k (f32v x) (f32v y)
    let fma := fun (x y z : Nat) => ffma .f32 k (f32v x) (f32v y) (f32v z)
    let g1 := mul g clip
    let cg := mul c1 g1.1
    let m1 := fma b1 m cg.1
    let gg := mul g1.1 g1.1
    let cgg := mul c2 gg.1
    let v1 := fma b2 v cgg.1
    let vh := mul v1.1 bc2
    let vh' := if vh.1 / 2 ^ 31 = 1 ∧ !(f32v vh.1).isNan then 0 else vh.1
    let rt := fsqrt .f32 k (f32v vh')
    let dn := fadd .f32 k (f32v rt.1) (f32v eps)
    let mb := mul m1.1 bc1
    let q := fdiv .f32 k (f32v mb.1) (f32v dn.1)
    let wq := fma wd w q.1
    let w1 := fma (lr ^^^ 2 ^ 31) wq.1 w
    some (w1.1, m1.1, v1.1, g1.2 ||| cg.2 ||| m1.2 ||| gg.2 ||| cgg.2 ||| v1.2 ||| vh.2 ||| rt.2 ||| dn.2 ||| mb.2 ||| q.2 ||| wq.2 ||| w1.2)

/-- `adamw` (R215, R216): w in vd, m in vd + 1, v in vd + 2, the gradient in va, parameters from s[sb]. -/
def execAdamw (d : Nat) (a : Nat) (sb : Nat) (s : State) : Host.Outcome State Fault Refusal :=
  asUnit (.adamw d a sb) s (fun s x =>
    let r := x.regs
    let p := fun (k hi : Nat) => r.uniN (sb + k) / 2 ^ (32 * hi) % 2 ^ 32
    let eps := p 1 1
    if nonFinite eps || eps == 0 || decide (eps ≥ 2 ^ 31) then .trap (Trap.plain 10 2)
    else
      let c1 := fadd .f32 RoundCtx.rn one (f32v (p 0 0)).negate
      let c2 := fadd .f32 RoundCtx.rn one (f32v (p 0 1)).negate
      let act := lanes.filter (bitAt r.em)
      let out := act.map (fun l => (l, adamwElem (p 0 0) (p 0 1) c1.1 c2.1 (p 1 0) eps (p 2 0) (p 2 1) (p 3 0) (p 3 1)
        (r.vecN d l) (r.vecN (d + 1) l) (r.vecN (d + 2) l) (r.vecN a l)))
      let done := out.filterMap (fun y => y.2.map (fun z => (y.1, z)))
      let get := fun (l : Nat) => match Map.find done l with | some z => z | none => (0, 0, 0, 0)
      let ls := done.map (fun y => y.1)
      let x' := ((x.setVec d ls (fun l => (get l).1)).setVec (d + 1) ls (fun l => (get l).2.1)).setVec (d + 2) ls (fun l => (get l).2.2.1)
      let fl := if done.isEmpty then 0 else done.foldl (fun fl y => fl ||| y.2.2.2.2) (c1.2 ||| c2.2)
      .done s ((x'.raise fl).countNonFinite (out.length - done.length)))

end Sys2Proof.Machine
end

