-- ==== Sys2Proof/Machine/Repair.lean ====
section
/-!
DEFINITION. Errors and repair (25_faults_and_repair.md R365, R366, R370 to R373; R38), power, gating, the management registers and
bring-up (27_power_and_bringup.md), ports (R337), and the decode trap (R109).
-/

namespace Sys2Proof.Machine

open Sys2Proof

/-! ### The decode trap -/

/-- ILLEGAL_INSTRUCTION: a unit that cannot be fetched or decoded traps with the kind and detail of R109 and R319. -/
def execIllegalInstruction (kind : Nat) (detail : Nat) (addr : Nat) (s : State) : Host.Outcome State Fault Refusal :=
  match Map.find s.drills s.cur with
  | none => .fault .noDrill
  | some d => .next (s.takeTrap s.cur d s.unit.first { Trap.plain kind detail with addr := addr })

/-! ### Draining cores (R366, R370, R379) -/

/-- The workgroups on some cores pre-empted, whatever their policy, those of a cooperative launch together. -/
def State.drainEvents (s : State) (p : Nat → Bool) : List Instr :=
  ((s.wgs.filter (fun w => p w.2.core && w.2.state != .saved)).flatMap (fun w => s.together w.1 w.2)).dedup.map Instr.preempt

/-- A core quarantined: it issues nothing more and its workgroups are pre-empted; a spare takes its number when they are gone. -/
def State.quarantine (s : State) (core : Nat) : State :=
  let c := s.core core
  if c.absent || c.repair == 2 then s
  else (((s.setCore core { c with repair := 2 }).event 0x81 0 core 0).later (s.drainEvents (fun k => k == core))).drained core

/-- A value of a drill that predates its chunk is wrong: the image of its workgroup fails its check (R366). -/
def State.spoil (s : State) (wg : Nat) : State := { s with wgs := Map.update s.wgs wg (fun w => { w with spoiled := true }) }

/-- A residue or parity check of a drill failed: its chunk runs again once; the second time the core is quarantined (R38). On a core that is
quarantined already, every value written to the save area is checked, and the workgroup's image fails (R366). -/
def State.mismatch (s : State) (k : Nat) : State :=
  match Map.find s.drills k with
  | none => s
  | some d =>
    if d.chunk.replayed || (s.core (coreOf k)).repair == 2 then (s.spoil d.wg).quarantine (coreOf k)
    else (s.squashNewer k false).updDrill k (fun d => { d with chunk := { d.chunk with replayed := true } })

/-- RESIDUE_MISMATCH (R38). -/
def execResidueMismatch (d : Nat) (s : State) : Host.Outcome State Fault Refusal := .next (s.mismatch d)

/-- CORE_REPAIR: a core drained for its spare, where its cluster has one left (R370). -/
def execCoreRepair (core : Nat) (s : State) : Host.Outcome State Fault Refusal :=
  .next (
    let c := s.core core
    if core ≥ Config.cores ∨ c.absent ∨ c.repair ≠ 0 ∨ !s.spareLeft core then s
    else ((s.setCore core { c with repair := 1 }).later (s.drainEvents (fun k => k == core))).drained core)

/-! ### ECC (R365) -/

/-- The nth element of a list gone. -/
def dropAt {α : Type} (l : List α) (n : Nat) : List α := l.take n ++ l.drop (n + 1)

/-- A copy of a deferred-store entry lost; with both, its context dies (R361). -/
def State.loseCopy (s : State) (h n : Nat) : State :=
  let hm := s.home h
  match hm.dsb[n]? with
  | none => s
  | some e =>
    if e.copies > 1 then s.setHome h { hm with dsb := hm.dsb.set n { e with copies := e.copies - 1 } }
    else s.die { asid := e.write.asid, kind := 3, detail := 3, page := e.write.addr, attr := e.write.attrs.getD 0 Attr.device, csn := e.csn }

/-- An uncorrectable error, by its structure in the order of R365's rows. DESIGN CHOICE (log 28): a location is, by row: 0 the sector's
address code / 32; 1 core * 2^16 + the line's place in its list; 2, 4, 5 and 6 the drill slot; 3 workgroup * 2^16 + sector; 7 home * 2^16
+ the entry's place; 8 core * 2^16 + the entry's place, those of the plot cache before those of the glaze header table; 9 the key of the
page-table entry; 10 none. -/
def State.uncorrected (s : State) (unit loc : Nat) : State :=
  let c := s.core (loc / 65536)
  match unit with
  | 0 => { s with bad := addNats s.bad [loc] }
  | 1 => (match c.l1[loc % 65536]? with
      | some x => s.setCore (loc / 65536) (c.dropClean (fun y => y == x))
      | none => s)
  | 2 => s.squash loc true
  | 3 => { s with badScratch := if (loc / 65536, loc % 65536) ∈ s.badScratch then s.badScratch else (loc / 65536, loc % 65536) :: s.badScratch }
  | 4 => s.mismatch loc
  | 5 => (match Map.find s.drills loc with
      | some d => (s.spoil d.wg).quarantine (coreOf loc)
      | none => s)
  | 6 => s.squash loc true
  | 7 => s.loseCopy (loc / 65536) (loc % 65536)
  | 8 => (match c.glaze[loc % 65536 - c.plots.length]? with
      | some x =>
        if loc % 65536 < c.plots.length then s.setCore (loc / 65536) { c with plots := dropAt c.plots (loc % 65536) }
        else s.setCore (loc / 65536) (c.dropClean (fun y => y.refersTo x.1))
      | none => s.setCore (loc / 65536) { c with plots := dropAt c.plots (loc % 65536) })
  | 9 =>
    let key := loc / 2 ^ 39 % 65536
    (s.ctxs.filter (fun x => key == 0 || x.1 == key)).foldl (fun s x =>
      s.die { asid := x.1, kind := 4, detail := ptLevel loc, page := addrCode (ptHome loc) (loc / 2 ^ 55 % 2) key 0, attr := Attr.device, csn := 0 }) s
  | _ => s

/-- ECC_ERROR: a corrected error is only journaled; the others have the outcomes of R365. -/
def execEccError (unit : Nat) (loc : Nat) (corrected : Bool) (s : State) : Host.Outcome State Fault Refusal :=
  .next (if unit > 10 then s else if corrected then s.event 0x80 0 unit loc else s.uncorrected unit loc)

/-! ### Ports (R337, R372) -/

/-- A port changed. -/
def State.setPort (s : State) (n : Nat) (f : Port → Port) : State :=
  match s.ports[n]? with
  | some p => { s with ports := s.ports.set n (f p) }
  | none => s

/-- PORT_FAILURE: traffic goes over the other ports (R372). -/
def execPortFailure (port : Nat) (s : State) : Host.Outcome State Fault Refusal := .next (s.setPort port (fun p => { p with up := false }))

/-- PORT_RELINKED: the port links again, with its outage in µs journaled; the paging agent and the commands that wait for a port go on over it (R15,
R360, R372). -/
def execPortRelinked (port : Nat) (outage : Nat) (s : State) : Host.Outcome State Fault Refusal :=
  .next (match s.ports[port]? with
    | some p =>
      if p.up then s
      else
        let s := (s.setPort port (fun p => { p with up := true })).event 0x84 0 port outage
        (s.later ((upto 8).flatMap (demandEvents s))).retryHeld
    | none => s)

/-- UNSUPPORTED_PACKET: dropped at ingress and counted (R337). -/
def execUnsupportedPacket (port : Nat) (s : State) : Host.Outcome State Fault Refusal :=
  .next (s.setPort port (fun p => if p.up then { p with drops := p.drops + 1 } else p))

/-! ### Power (R378) -/

/-- POWER_ADJUST: the average of the last millisecond, and the issue share one step down above the cap, one step up below 95 % of it.
Without a cap it rises: DEDUCED (log 29). -/
def execPowerAdjust (watts : Nat) (s : State) : Host.Outcome State Fault Refusal :=
  let cap := s.mgmt.pwrcap
  let share := if cap ≠ 0 ∧ watts > cap then max 1 (s.mgmt.share - 1)
    else if cap = 0 ∨ 100 * watts < 95 * cap then min 16 (s.mgmt.share + 1) else s.mgmt.share
  .next { s with mgmt := { s.mgmt with pwrnow := watts % 65536, share := share } }

/-! ### The management registers (R379 to R381) -/

/-- A write of a management register at its place, of one with offsets that meet p. -/
def State.regWrite (s : State) (jsn : Nat) (p : Nat → Bool) (f : Pending → Nat → Nat → Answer) : State :=
  match s.transferReady jsn with
  | some (c, t) =>
    if !t.mgmt || !p (t.addr - mgmtBase) then s
    else if t.bad then (Answer.status s 2).settle c
    else (f c (t.addr - mgmtBase) (ofBytes ((upto 8).map (fun k => Map.get 0 t.got k)))).settle c
  | none => s

/-- Management state changed. -/
def State.setMgmt (s : State) (x : Mgmt) : State := { s with mgmt := x }

/-- PWRCAP: bits [63:16] are reserved, and ignored on a write (R3, R380). -/
def execPwrcap (xfer : Nat) (s : State) : Host.Outcome State Fault Refusal :=
  .next (s.regWrite xfer (fun o => o == 0x008) (fun _ _ v => .status (s.setMgmt { s.mgmt with pwrcap := v % 2 ^ 16 }) 0))

/-- HDRRES: bits [63:20] are reserved, and ignored on a write; it takes nothing back (R3, R380, R381). -/
def execHdrres (xfer : Nat) (s : State) : Host.Outcome State Fault Refusal :=
  .next (s.regWrite xfer (fun o => o == 0x040) (fun _ _ v => .status (s.setMgmt { s.mgmt with hdrres := v % 2 ^ 20 }) 0))

/-- KEY: the fourth word installs the key (R381). -/
def execKey (xfer : Nat) (s : State) : Host.Outcome State Fault Refusal :=
  .next (s.regWrite xfer (fun o => decide (0x020 ≤ o) && decide (o ≤ 0x038)) (fun _ o v =>
    let low := Map.set s.mgmt.keyLow ((o - 0x020) / 8) (BitVec.ofNat 64 v)
    let word := fun k => (Map.get (0 : DWord) low k).toNat
    if o = 0x038 then
      .status (s.setMgmt { s.mgmt with
        key := BitVec.ofNat 256 (word 0 + word 1 * 2 ^ 64 + word 2 * 2 ^ 128 + word 3 * 2 ^ 192), keyWritten := true, keyLow := [] }) 0
    else .status (s.setMgmt { s.mgmt with keyLow := low }) 0))

/-- The parts of the shared window, plot by plot, that an image from an address on takes: up to the first plot that is not valid, or the window's
end; `n` bounds the plots. The manual gives an image's address and not its length: DESIGN CHOICE (log 102). -/
def State.imageParts (jsn : Nat) : Nat → Nat → State → List (Nat × Nat × DWord) → HostPlots
  | 0, _, _, out => .ok out.reverse
  | n + 1, va, s, out =>
    if va ≥ 2 ^ 48 then .ok out.reverse
    else match s.plotOf 0 va with
      | .desc d =>
        if descValid d then State.imageParts jsn n (va / 65536 * 65536 + 65536) s ((va, 65536 - va % 65536, d) :: out)
        else .ok out.reverse
      | .page p =>
        let r := s.hostWait p 8
        .hold r.1 r.2
      | .fatal p level => .status (s.die (hostDeath jsn 0 level p)) 3
      | .bad => .status s 7

/-- The plots of the shared window from an address to its end, at most. -/
def windowPlots : Nat := 2 ^ 28

/-- The update started with a signed image; one that is not signed is journaled with its new version equal to its old (R381). -/
def State.updateWith (s : State) (image : List Byte) : State :=
  if Config.imageSigned image then s.setMgmt { s.mgmt with updating := some (Config.imageVersion image) }
  else s.event 0x85 0 s.mgmt.version s.mgmt.version

/-- UPDATE: the image is read as committed, as a MEM.READ of the shared window is: every commit stamped before applied, its deferred stores
replayed, its pages resident, its tiles as their views (R261, R327, R352, R381). -/
def execUpdate (xfer : Nat) (s : State) : Host.Outcome State Fault Refusal :=
  .next (s.regWrite xfer (fun o => o == 0x048) (fun c _ v =>
    if v < 0xF00000000000 ∨ v ≥ 2 ^ 48 then .status s 2
    else if c.lost then .status s 8
    else
      let s := s.drainAll.settle
      match State.imageParts c.jsn windowPlots v s [] with
      | .status s k => .status s k
      | .hold s d => .hold (s.setPending c.jsn (fun p => { p with demand := d }))
      | .ok ps =>
        if s.rangeGated 0 ps || plotsMoving ps then .hold s
        else match State.hostPieces c.jsn 0 (hostCodes 0 ps) s [] with
          | .fail s k => .status s k
          | .hold s d => .hold (s.setPending c.jsn (fun p => { p with demand := d }))
          | .ok image => .status ((s.hostTouch (hostCodes 0 ps)).updateWith image) 0))

/-- BSRC: a word of an entry of the backing-source table; an entry of zeros is none; the second word's bits [63:16] are reserved, and ignored on a
write (R3, R380). -/
def execBsrc (xfer : Nat) (s : State) : Host.Outcome State Fault Refusal :=
  .next (s.regWrite xfer (fun o => decide (0x110 ≤ o) && decide (o < 0x1F0)) (fun _ o v =>
    let k := (o - 0x100) / 16
    let b := Map.get (0, 0) s.mgmt.bsrc k
    if o % 16 = 0 then .status (s.setMgmt { s.mgmt with bsrc := Map.put (0, 0) s.mgmt.bsrc k (BitVec.ofNat 64 v, b.2) }) 0
    else .status (s.setMgmt { s.mgmt with bsrc := Map.put (0, 0) s.mgmt.bsrc k (b.1, v % 2 ^ 16) }) 0))

/-- MGMT_REG_WRITE_OTHER: a register that is read-only, or none, receives status 2 (R380). The entries BSRC k of k = 0 and 15, which the table
reserves, count as none: DEDUCED (log 81). -/
def execMgmtRegWriteOther (xfer : Nat) (s : State) : Host.Outcome State Fault Refusal :=
  .next (s.regWrite xfer (fun o => !(o == 0x008 || o == 0x018 || (decide (0x020 ≤ o) && decide (o ≤ 0x040)) || o == 0x048
      || (decide (0x110 ≤ o) && decide (o < 0x1F0)))) (fun _ _ _ => .status s 2))

/-- Whether an earlier GATE write has still to be applied, its data yet to come or not (R379). -/
def State.gateBefore (s : State) (jsn : Nat) : Bool :=
  s.held.any (fun p => decide (p.jsn < jsn) && (match Map.find s.transfers p.jsn with
    | some t => t.mgmt && t.addr == mgmtBase + 0x018
    | none => false))

/-- The cores of a cluster. -/
def clusterCores (c : Nat) : List Nat := (upto Config.goodCoresPerCluster).map (fun k => 32 * c + k)

/-- A GATE write applied: placement leaves the clusters to be gated and their workgroups are pre-empted; the others come back (R379). -/
def State.applyGate (s : State) (v : BitVec 8) : State :=
  let changed := (upto 8).filter (fun c => v.getLsbD c != s.mgmt.gate.getLsbD c)
  let off := changed.filter (fun c => v.getLsbD c)
  let s := s.setMgmt { s.mgmt with gate := v, moving := changed.map (fun c => (c, v.getLsbD c)) }
  let s := (off.flatMap clusterCores).foldl (fun s k => s.setCore k { s.core k with draining := true }) s
  s.later (s.drainEvents (fun k => k / 32 ∈ off) ++ s.gateEvents)

/-- GATE: writes are applied one at a time, in the order of their commands; one that arrives during a transition waits; bits [63:8] are
reserved, and ignored on a write (R3, R379, R380). -/
def execGate (xfer : Nat) (s : State) : Host.Outcome State Fault Refusal :=
  .next (s.regWrite xfer (fun o => o == 0x018) (fun c _ v =>
    if !s.mgmt.moving.isEmpty || s.gateBefore c.jsn then .hold s
    else .status (s.applyGate (BitVec.ofNat 8 v)) 0))

/-- A transition over: GATE writes that wait, parked accesses and placements go on. -/
def State.gateEnded (s : State) (c : Nat) : State :=
  let s := s.setMgmt { s.mgmt with moving := s.mgmt.moving.filter (fun x => x.1 != c) }
  (s.stir (fun w => w == .migrating || w == .lnch)).later (s.migEvents c ++ demandEvents s c ++ [.placeWorkgroup])

/-- GATE_TRANSITION_END: a cluster is gated once its cores are empty, its stack's buffer is empty and its commits are applied; then the
cache layer is written back. A restored one starts with it empty, and its cores count `sr.clock` from now on (R28, R379): DESIGN CHOICE (log
78). -/
def execGateTransitionEnd (cluster : Nat) (s : State) : Host.Outcome State Fault Refusal :=
  .next (match s.mgmt.moving.find? (fun x => x.1 == cluster) with
    | none => s
    | some (c, true) =>
      if !(clusterCores c).all s.coreIdle || !(s.home c).dsb.isEmpty || !(s.home c).prepares.isEmpty || (s.nextAt c).isSome then s
      else
        let s := (s.writeBack (fun a => codeHome a == c)).dropLines c (fun _ => true)
        let s := s.setHome c { s.home c with gated := true }
        let s := (clusterCores c).foldl (fun s k =>
          let x := s.core k
          s.setCore k { Core.reset with absent := x.absent, spared := x.spared, repair := x.repair, gatedOff := true }) s
        s.gateEnded c
    | some (c, false) =>
      let s := s.setHome c { s.home c with gated := false }
      let s := (clusterCores c).foldl (fun s k => s.setCore k { s.core k with gatedOff := false, draining := false, epoch := s.clock }) s
      s.gateEnded c)

/-! ### An update's end (R373) -/

/-- Deferred signals up to the next deferred event applied. -/
def applySignals : List Postponed → State → State × List Postponed
  | .signal asid i err :: rest, s => applySignals rest (s.setToken asid i (tokenSignalled (s.tokenWord asid i) err))
  | l, s => (s, l)

/-- BOLHORN_UPDATE_DONE: what was deferred is applied in the order it arose (R373). -/
def execBolhornUpdateDone (s : State) : Host.Outcome State Fault Refusal :=
  let s := match s.mgmt.updating with
    | some v => (s.setMgmt { s.mgmt with updating := none, version := v }).event 0x85 0 s.mgmt.version v
    | none => s
  let r := applySignals s.mgmt.deferred s
  match r.2 with
  | .event i :: rest => .next ((r.1.setMgmt { r.1.mgmt with deferred := rest }).later [i, .bolhornUpdateDone])
  | _ => .next ((r.1.setMgmt { r.1.mgmt with deferred := [] }).retryHeld)

/-! ### Reset and bring-up (R382) -/

/-- MODULE_RESET: the state of reset; the module key, the backing-source table and Bolhorn's version stay in the non-volatile store, and
what the backing sources hold is theirs. -/
def execModuleReset (s : State) : Host.Outcome State Fault Refusal :=
  .next { State.reset with
    tick := s.tick
    backing := s.backing
    mgmt := { Mgmt.reset with key := s.mgmt.key, keyWritten := s.mgmt.keyWritten, bsrc := s.mgmt.bsrc, version := s.mgmt.version } }

/-- The ports linked and the journal started. -/
def State.linkUp (s : State) : State := { s with ports := s.ports.map (fun p => { p with up := true }), journal := [], nextJsn := 1 }

/-- The pinned table areas cleared: page tables, frame owners, header blocks (R382). -/
def State.clearTables (s : State) : State :=
  { s with pt := [], owners := [], headers := [], homes := s.homes.map (fun (h : Nat × Home) => (h.1, { h.2 with nodes := 0, blocks := [] })) }

/-- The cores tested: the good spares of each cluster, a free number of those the cluster has (R10, R382; log 70). -/
def State.testCores (s : State) : State :=
  s.setMgmt { s.mgmt with
    spares := (upto 8).foldl (fun m c => Map.put 0 m c (min Config.sparesPerCluster (Config.sparesFound s.tick c))) [] }

/-- BRING_STAGE_DONE: BRING moves to its next state, or stops with FAIL; then the ports link and event 0x8B is recorded. A failure of the port
die's own rails, given as 5, is a rail's failure that leaves the ports unlinked and nothing recorded (R382). -/
def execBringStageDone (fail : Nat) (s : State) : Host.Outcome State Fault Refusal :=
  .next (
    if s.mgmt.bring ≥ 6 ∨ s.mgmt.fail ≠ 0 ∨ fail > 5 then s
    else if fail = 5 then s.setMgmt { s.mgmt with fail := 1 }
    else if fail ≠ 0 then (s.linkUp.setMgmt { s.mgmt with fail := fail }).event 0x8B 0 s.mgmt.bring fail
    else
      let n := s.mgmt.bring + 1
      let s := s.setMgmt { s.mgmt with bring := n }
      if n = 3 then s.clearTables
      else if n = 4 then s.testCores
      else if n = 5 then s.linkUp
      else s)

end Sys2Proof.Machine
end

