-- ==== Sys2Proof/Machine/Dispatch.lean ====
section
/-!
DEFINITION. One arm per constructor of Instr.
-/

namespace Sys2Proof.Machine

open Sys2Proof

def exec (i : Instr) (s : State) : Host.Outcome State Fault Refusal :=
  match i with
  | .add t d a b => Sys2Proof.Machine.execAdd t d a b s
  | .sub t d a b => Sys2Proof.Machine.execSub t d a b s
  | .mul t d a b => Sys2Proof.Machine.execMul t d a b s
  | .mulh t d a b => Sys2Proof.Machine.execMulh t d a b s
  | .min t d a b => Sys2Proof.Machine.execMin t d a b s
  | .max t d a b => Sys2Proof.Machine.execMax t d a b s
  | .addc d a b => Sys2Proof.Machine.execAddc d a b s
  | .subb d a b => Sys2Proof.Machine.execSubb d a b s
  | .abs d a => Sys2Proof.Machine.execAbs d a s
  | .neg d a => Sys2Proof.Machine.execNeg d a s
  | .intArith64 f d a b => Sys2Proof.Machine.execIntArith64 f d a b s
  | .intArithVs f d a sb => Sys2Proof.Machine.execIntArithVs f d a sb s
  | .intArith64Vs f d a sb => Sys2Proof.Machine.execIntArith64Vs f d a sb s
  | .and d a b => Sys2Proof.Machine.execAnd d a b s
  | .or d a b => Sys2Proof.Machine.execOr d a b s
  | .xor d a b => Sys2Proof.Machine.execXor d a b s
  | .andn d a b => Sys2Proof.Machine.execAndn d a b s
  | .not d a => Sys2Proof.Machine.execNot d a s
  | .shl d a b => Sys2Proof.Machine.execShl d a b s
  | .shr d a b => Sys2Proof.Machine.execShr d a b s
  | .sra d a b => Sys2Proof.Machine.execSra d a b s
  | .rol d a b => Sys2Proof.Machine.execRol d a b s
  | .popc d a => Sys2Proof.Machine.execPopc d a s
  | .clz d a => Sys2Proof.Machine.execClz d a s
  | .ctz d a => Sys2Proof.Machine.execCtz d a s
  | .brev d a => Sys2Proof.Machine.execBrev d a s
  | .mov d a => Sys2Proof.Machine.execMov d a s
  | .logic64 f d a b => Sys2Proof.Machine.execLogic64 f d a b s
  | .logicVs f d a sb => Sys2Proof.Machine.execLogicVs f d a sb s
  | .logic64Vs f d a sb => Sys2Proof.Machine.execLogic64Vs f d a sb s
  | .mad d a b => Sys2Proof.Machine.execMad d a b s
  | .bfxN32 d a b => Sys2Proof.Machine.execBfxN32 d a b s
  | .bfxI32 d a b => Sys2Proof.Machine.execBfxI32 d a b s
  | .bfi d a b => Sys2Proof.Machine.execBfi d a b s
  | .lea k d a b => Sys2Proof.Machine.execLea k d a b s
  | .cvti c d a => Sys2Proof.Machine.execCvti c d a s
  | .addImm d a imm => Sys2Proof.Machine.execAddImm d a imm s
  | .mulImm d a imm => Sys2Proof.Machine.execMulImm d a imm s
  | .andImm d a imm => Sys2Proof.Machine.execAndImm d a imm s
  | .orImm d a imm => Sys2Proof.Machine.execOrImm d a imm s
  | .xorImm d a imm => Sys2Proof.Machine.execXorImm d a imm s
  | .shiftImm d a o c => Sys2Proof.Machine.execShiftImm d a o c s
  | .ldi d imm => Sys2Proof.Machine.execLdi d imm s
  | .movk d imm => Sys2Proof.Machine.execMovk d imm s
  | .cmp t c p a b => Sys2Proof.Machine.execCmp t c p a b s
  | .cmpVs t c p a sb => Sys2Proof.Machine.execCmpVs t c p a sb s
  | .sel n d a b => Sys2Proof.Machine.execSel n d a b s
  | .uniformAlu f d a b => Sys2Proof.Machine.execUniformAlu f d a b s
  | .cmpU t c p a b => Sys2Proof.Machine.execCmpU t c p a b s
  | .addImmU d a imm => Sys2Proof.Machine.execAddImmU d a imm s
  | .mulImmU d a imm => Sys2Proof.Machine.execMulImmU d a imm s
  | .andImmU d a imm => Sys2Proof.Machine.execAndImmU d a imm s
  | .orImmU d a imm => Sys2Proof.Machine.execOrImmU d a imm s
  | .xorImmU d a imm => Sys2Proof.Machine.execXorImmU d a imm s
  | .shiftImmU d a o c => Sys2Proof.Machine.execShiftImmU d a o c s
  | .ldiU d imm => Sys2Proof.Machine.execLdiU d imm s
  | .movkU d imm => Sys2Proof.Machine.execMovkU d imm s
  | .pand d a b => Sys2Proof.Machine.execPand d a b s
  | .por d a b => Sys2Proof.Machine.execPor d a b s
  | .pxor d a b => Sys2Proof.Machine.execPxor d a b s
  | .pnot d a => Sys2Proof.Machine.execPnot d a s
  | .pmovPp d a => Sys2Proof.Machine.execPmovPp d a s
  | .pcnt d a => Sys2Proof.Machine.execPcnt d a s
  | .pfirst d a => Sys2Proof.Machine.execPfirst d a s
  | .pmovSp d a => Sys2Proof.Machine.execPmovSp d a s
  | .pmovPs d a => Sys2Proof.Machine.execPmovPs d a s
  | .bra h n p o => Sys2Proof.Machine.execBra h n p o s
  | .jmp o => Sys2Proof.Machine.execJmp o s
  | .call o => Sys2Proof.Machine.execCall o s
  | .rcv o => Sys2Proof.Machine.execRcv o s
  | .nop => Sys2Proof.Machine.execNop s
  | .join => Sys2Proof.Machine.execJoin s
  | .ret => Sys2Proof.Machine.execRet s
  | .exit => Sys2Proof.Machine.execExit s
  | .yield => Sys2Proof.Machine.execYield s
  | .jmpReg a => Sys2Proof.Machine.execJmpReg a s
  | .rdsr d n => Sys2Proof.Machine.execRdsr d n s
  | .wrsr n a => Sys2Proof.Machine.execWrsr n a s
  | .rdsrV d n => Sys2Proof.Machine.execRdsrV d n s
  | .fadd d a b => Sys2Proof.Machine.execFadd d a b s
  | .fsub d a b => Sys2Proof.Machine.execFsub d a b s
  | .fmul d a b => Sys2Proof.Machine.execFmul d a b s
  | .fma d a b => Sys2Proof.Machine.execFma d a b s
  | .fmin d a b => Sys2Proof.Machine.execFmin d a b s
  | .fmax d a b => Sys2Proof.Machine.execFmax d a b s
  | .fdiv d a b => Sys2Proof.Machine.execFdiv d a b s
  | .fsqrt d a => Sys2Proof.Machine.execFsqrt d a s
  | .frcp d a => Sys2Proof.Machine.execFrcp d a s
  | .frsq d a => Sys2Proof.Machine.execFrsq d a s
  | .frnd d a => Sys2Proof.Machine.execFrnd d a s
  | .fabs d a => Sys2Proof.Machine.execFabs d a s
  | .fneg d a => Sys2Proof.Machine.execFneg d a s
  | .fcpsgn d a b => Sys2Proof.Machine.execFcpsgn d a b s
  | .fcls d a => Sys2Proof.Machine.execFcls d a s
  | .fpF16 f d a b => Sys2Proof.Machine.execFpF16 f d a b s
  | .fpBf16 f d a b => Sys2Proof.Machine.execFpBf16 f d a b s
  | .fpVs f d a sb => Sys2Proof.Machine.execFpVs f d a sb s
  | .fex2 d a => Sys2Proof.Machine.execFex2 d a s
  | .flg2 d a => Sys2Proof.Machine.execFlg2 d a s
  | .fsin d a => Sys2Proof.Machine.execFsin d a s
  | .fcos d a => Sys2Proof.Machine.execFcos d a s
  | .ftanh d a => Sys2Proof.Machine.execFtanh d a s
  | .faddImm d a imm => Sys2Proof.Machine.execFaddImm d a imm s
  | .fmulImm d a imm => Sys2Proof.Machine.execFmulImm d a imm s
  | .fcmp t c p a b => Sys2Proof.Machine.execFcmp t c p a b s
  | .cvt f d a e src => Sys2Proof.Machine.execCvt f d a e src s
  | .pk2F16 d a b => Sys2Proof.Machine.execPk2F16 d a b s
  | .pk2Bf16 d a b => Sys2Proof.Machine.execPk2Bf16 d a b s
  | .upk2F16 d a => Sys2Proof.Machine.execUpk2F16 d a s
  | .upk2Bf16 d a => Sys2Proof.Machine.execUpk2Bf16 d a s
  | .hadd2F16 d a b => Sys2Proof.Machine.execHadd2F16 d a b s
  | .hmul2F16 d a b => Sys2Proof.Machine.execHmul2F16 d a b s
  | .hfma2F16 d a b => Sys2Proof.Machine.execHfma2F16 d a b s
  | .hmin2F16 d a b => Sys2Proof.Machine.execHmin2F16 d a b s
  | .hmax2F16 d a b => Sys2Proof.Machine.execHmax2F16 d a b s
  | .hadd2Bf16 d a b => Sys2Proof.Machine.execHadd2Bf16 d a b s
  | .hmul2Bf16 d a b => Sys2Proof.Machine.execHmul2Bf16 d a b s
  | .hfma2Bf16 d a b => Sys2Proof.Machine.execHfma2Bf16 d a b s
  | .hmin2Bf16 d a b => Sys2Proof.Machine.execHmin2Bf16 d a b s
  | .hmax2Bf16 d a b => Sys2Proof.Machine.execHmax2Bf16 d a b s
  | .iadd2 t d a b => Sys2Proof.Machine.execIadd2 t d a b s
  | .imax2 t d a b => Sys2Proof.Machine.execImax2 t d a b s
  | .imin2 t d a b => Sys2Proof.Machine.execImin2 t d a b s
  | .ld o d base v c => Sys2Proof.Machine.execLd o d base v c s
  | .st o d base v c => Sys2Proof.Machine.execSt o d base v c s
  | .ldu o d base => Sys2Proof.Machine.execLdu o d base s
  | .atom o d base v c => Sys2Proof.Machine.execAtom o d base v c s
  | .atomCas d base v c => Sys2Proof.Machine.execAtomCas d base v c s
  | .atom64 o d base v c => Sys2Proof.Machine.execAtom64 o d base v c s
  | .atom64Cas d base v c => Sys2Proof.Machine.execAtom64Cas d base v c s
  | .red o d base v c => Sys2Proof.Machine.execRed o d base v c s
  | .pfL1 base v c => Sys2Proof.Machine.execPfL1 base v c s
  | .pfMc base v c => Sys2Proof.Machine.execPfMc base v c s
  | .chkBeg o => Sys2Proof.Machine.execChkBeg o s
  | .chkEnd => Sys2Proof.Machine.execChkEnd s
  | .chkAbt c => Sys2Proof.Machine.execChkAbt c s
  | .fenceS => Sys2Proof.Machine.execFenceS s
  | .fenceX => Sys2Proof.Machine.execFenceX s
  | .flr a b => Sys2Proof.Machine.execFlr a b s
  | .ivr a b => Sys2Proof.Machine.execIvr a b s
  | .drop a b => Sys2Proof.Machine.execDrop a b s
  | .scrGrow d a => Sys2Proof.Machine.execScrGrow d a s
  | .scrShrk d a => Sys2Proof.Machine.execScrShrk d a s
  | .scrWait a b => Sys2Proof.Machine.execScrWait a b s
  | .plp d a => Sys2Proof.Machine.execPlp d a s
  | .shfl d a b => Sys2Proof.Machine.execShfl d a b s
  | .lscanAddI32 d a p => Sys2Proof.Machine.execLscanAddI32 d a p s
  | .lscanAddF32 d a p => Sys2Proof.Machine.execLscanAddF32 d a p s
  | .lscanMaxI32 d a p => Sys2Proof.Machine.execLscanMaxI32 d a p s
  | .lscanMinI32 d a p => Sys2Proof.Machine.execLscanMinI32 d a p s
  | .lscanMaxF32 d a p => Sys2Proof.Machine.execLscanMaxF32 d a p s
  | .lscanMinF32 d a p => Sys2Proof.Machine.execLscanMinF32 d a p s
  | .lredAddI32 d a p => Sys2Proof.Machine.execLredAddI32 d a p s
  | .lredAddF32 d a p => Sys2Proof.Machine.execLredAddF32 d a p s
  | .lredMaxI32 d a p => Sys2Proof.Machine.execLredMaxI32 d a p s
  | .lredMinI32 d a p => Sys2Proof.Machine.execLredMinI32 d a p s
  | .lredMaxF32 d a p => Sys2Proof.Machine.execLredMaxF32 d a p s
  | .lredMinF32 d a p => Sys2Proof.Machine.execLredMinF32 d a p s
  | .bcst d a sb => Sys2Proof.Machine.execBcst d a sb s
  | .bcstImm d a n => Sys2Proof.Machine.execBcstImm d a n s
  | .lxbLo f d a b => Sys2Proof.Machine.execLxbLo f d a b s
  | .lxbHi f d a b => Sys2Proof.Machine.execLxbHi f d a b s
  | .voteAny p a => Sys2Proof.Machine.execVoteAny p a s
  | .voteAll p a => Sys2Proof.Machine.execVoteAll p a s
  | .voteUni p a => Sys2Proof.Machine.execVoteUni p a s
  | .barReg b => Sys2Proof.Machine.execBarReg b s
  | .barArv b => Sys2Proof.Machine.execBarArv b s
  | .barWt b => Sys2Proof.Machine.execBarWt b s
  | .barDrp b => Sys2Proof.Machine.execBarDrp b s
  | .trap n => Sys2Proof.Machine.execTrap n s
  | .tret => Sys2Proof.Machine.execTret s
  | .sleep a => Sys2Proof.Machine.execSleep a s
  | .fltq d => Sys2Proof.Machine.execFltq d s
  | .mma f d a b x y => Sys2Proof.Machine.execMma f d a b x y s
  | .mmas d a b x y u => Sys2Proof.Machine.execMmas d a b x y u s
  | .tld t base v c => Sys2Proof.Machine.execTld t base v c s
  | .tst t base v c => Sys2Proof.Machine.execTst t base v c s
  | .acld a base v c => Sys2Proof.Machine.execAcld a base v c s
  | .acst a base v c => Sys2Proof.Machine.execAcst a base v c s
  | .tmvBf16 t a => Sys2Proof.Machine.execTmvBf16 t a s
  | .tmvF16 t a => Sys2Proof.Machine.execTmvF16 t a s
  | .tmvE4m3 t a => Sys2Proof.Machine.execTmvE4m3 t a s
  | .tmvE5m2 t a => Sys2Proof.Machine.execTmvE5m2 t a s
  | .tmvE2m1 t a b => Sys2Proof.Machine.execTmvE2m1 t a b s
  | .tmvRaw t a => Sys2Proof.Machine.execTmvRaw t a s
  | .tmvToVec d t => Sys2Proof.Machine.execTmvToVec d t s
  | .acmvToVec d a => Sys2Proof.Machine.execAcmvToVec d a s
  | .acmvFromVec c a => Sys2Proof.Machine.execAcmvFromVec c a s
  | .tzero t => Sys2Proof.Machine.execTzero t s
  | .acz a => Sys2Proof.Machine.execAcz a s
  | .exph a sb => Sys2Proof.Machine.execExph a sb s
  | .adamw d a sb => Sys2Proof.Machine.execAdamw d a sb s
  | .glzScl run n => Sys2Proof.Machine.execGlzScl run n s
  | .glzOff run n => Sys2Proof.Machine.execGlzOff run n s
  | .glzClp run n => Sys2Proof.Machine.execGlzClp run n s
  | .glzFil run n => Sys2Proof.Machine.execGlzFil run n s
  | .glzPrm run n => Sys2Proof.Machine.execGlzPrm run n s
  | .glzMap run n => Sys2Proof.Machine.execGlzMap run n s
  | .glzFire run n => Sys2Proof.Machine.execGlzFire run n s
  | .glzRdh run n => Sys2Proof.Machine.execGlzRdh run n s
  | .engCpy run n => Sys2Proof.Machine.execEngCpy run n s
  | .engGth run p n => Sys2Proof.Machine.execEngGth run p n s
  | .engGrd run p n => Sys2Proof.Machine.execEngGrd run p n s
  | .engSct run p n => Sys2Proof.Machine.execEngSct run p n s
  | .engCol run f k n => Sys2Proof.Machine.execEngCol run f k n s
  | .engWt run d => Sys2Proof.Machine.execEngWt run d s
  | .engTst run d => Sys2Proof.Machine.execEngTst run d s
  | .tapePush run d => Sys2Proof.Machine.execTapePush run d s
  | .tapeTurn run d => Sys2Proof.Machine.execTapeTurn run d s
  | .lnch run q => Sys2Proof.Machine.execLnch run q s
  | .illegalInstruction kind detail addr => Sys2Proof.Machine.execIllegalInstruction kind detail addr s
  | .chunkLimitReached d => Sys2Proof.Machine.execChunkLimitReached d s
  | .ageCap d => Sys2Proof.Machine.execAgeCap d s
  | .instructionComplete d => Sys2Proof.Machine.execInstructionComplete d s
  | .fillReturn fill => Sys2Proof.Machine.execFillReturn fill s
  | .commitPrepare d => Sys2Proof.Machine.execCommitPrepare d s
  | .commitRequest d => Sys2Proof.Machine.execCommitRequest d s
  | .orderTokenVisit => Sys2Proof.Machine.execOrderTokenVisit s
  | .homeApplyCommit home => Sys2Proof.Machine.execHomeApplyCommit home s
  | .broadcastApply core => Sys2Proof.Machine.execBroadcastApply core s
  | .soloGrant d => Sys2Proof.Machine.execSoloGrant d s
  | .streamAck home csn => Sys2Proof.Machine.execStreamAck home csn s
  | .sleepExpiry d => Sys2Proof.Machine.execSleepExpiry d s
  | .barrierOperation d => Sys2Proof.Machine.execBarrierOperation d s
  | .commandHandoff d => Sys2Proof.Machine.execCommandHandoff d s
  | .lnchAppend d => Sys2Proof.Machine.execLnchAppend d s
  | .sectorLand cmd => Sys2Proof.Machine.execSectorLand cmd s
  | .engineChunkCommit cmd => Sys2Proof.Machine.execEngineChunkCommit cmd s
  | .engineFail cmd code => Sys2Proof.Machine.execEngineFail cmd code s
  | .engWtReturn d => Sys2Proof.Machine.execEngWtReturn d s
  | .scrGrowComplete d => Sys2Proof.Machine.execScrGrowComplete d s
  | .placeWorkgroup => Sys2Proof.Machine.execPlaceWorkgroup s
  | .resumeWorkgroup wg => Sys2Proof.Machine.execResumeWorkgroup wg s
  | .preempt wg => Sys2Proof.Machine.execPreempt wg s
  | .timeSlice => Sys2Proof.Machine.execTimeSlice s
  | .workgroupExit wg => Sys2Proof.Machine.execWorkgroupExit wg s
  | .workgroupKill wg => Sys2Proof.Machine.execWorkgroupKill wg s
  | .launchComplete jsn => Sys2Proof.Machine.execLaunchComplete jsn s
  | .tapePop asid => Sys2Proof.Machine.execTapePop asid s
  | .homeFillRequest fill => Sys2Proof.Machine.execHomeFillRequest fill s
  | .walkRestart fill => Sys2Proof.Machine.execWalkRestart fill s
  | .homePrepare home d => Sys2Proof.Machine.execHomePrepare home d s
  | .pageFetchComplete demand => Sys2Proof.Machine.execPageFetchComplete demand s
  | .backingTimeout demand => Sys2Proof.Machine.execBackingTimeout demand s
  | .pageWaitTimeout d => Sys2Proof.Machine.execPageWaitTimeout d s
  | .frameMove home table key la => Sys2Proof.Machine.execFrameMove home table key la s
  | .residueMismatch d => Sys2Proof.Machine.execResidueMismatch d s
  | .eccError unit loc corrected => Sys2Proof.Machine.execEccError unit loc corrected s
  | .coreRepair core => Sys2Proof.Machine.execCoreRepair core s
  | .bankRetire stack bank => Sys2Proof.Machine.execBankRetire stack bank s
  | .portFailure port => Sys2Proof.Machine.execPortFailure port s
  | .portRelinked port outage => Sys2Proof.Machine.execPortRelinked port outage s
  | .bolhornUpdateDone => Sys2Proof.Machine.execBolhornUpdateDone s
  | .powerAdjust watts => Sys2Proof.Machine.execPowerAdjust watts s
  | .moduleReset => Sys2Proof.Machine.execModuleReset s
  | .bringStageDone fail => Sys2Proof.Machine.execBringStageDone fail s
  | .unsupportedPacket port => Sys2Proof.Machine.execUnsupportedPacket port s
  | .openMsg m => Sys2Proof.Machine.execOpenMsg m s
  | .closeMsg m => Sys2Proof.Machine.execCloseMsg m s
  | .dataMsg m => Sys2Proof.Machine.execDataMsg m s
  | .ctxCreate m => Sys2Proof.Machine.execCtxCreate m s
  | .ctxDestroy m => Sys2Proof.Machine.execCtxDestroy m s
  | .launch m => Sys2Proof.Machine.execLaunch m s
  | .cancel m => Sys2Proof.Machine.execCancel m s
  | .tokenRead m => Sys2Proof.Machine.execTokenRead m s
  | .tokenSet m => Sys2Proof.Machine.execTokenSet m s
  | .tokenSignal m => Sys2Proof.Machine.execTokenSignal m s
  | .memWrite m => Sys2Proof.Machine.execMemWrite m s
  | .memWriteCommit xfer => Sys2Proof.Machine.execMemWriteCommit xfer s
  | .memRead m => Sys2Proof.Machine.execMemRead m s
  | .plotSet m => Sys2Proof.Machine.execPlotSet m s
  | .pageMap m => Sys2Proof.Machine.execPageMap m s
  | .pageMakeResident m => Sys2Proof.Machine.execPageMakeResident m s
  | .pageEvict m => Sys2Proof.Machine.execPageEvict m s
  | .pageUnmap m => Sys2Proof.Machine.execPageUnmap m s
  | .tapeTurnCmd m => Sys2Proof.Machine.execTapeTurnCmd m s
  | .groupCfg m => Sys2Proof.Machine.execGroupCfg m s
  | .journalRead m => Sys2Proof.Machine.execJournalRead m s
  | .statusMsg m => Sys2Proof.Machine.execStatusMsg m s
  | .miremReservedOp m => Sys2Proof.Machine.execMiremReservedOp m s
  | .collectiveStagedReport call rank => Sys2Proof.Machine.execCollectiveStagedReport call rank s
  | .collectiveFinish cmd => Sys2Proof.Machine.execCollectiveFinish cmd s
  | .collectiveTimeout cmd => Sys2Proof.Machine.execCollectiveTimeout cmd s
  | .pwrcap xfer => Sys2Proof.Machine.execPwrcap xfer s
  | .gate xfer => Sys2Proof.Machine.execGate xfer s
  | .key xfer => Sys2Proof.Machine.execKey xfer s
  | .hdrres xfer => Sys2Proof.Machine.execHdrres xfer s
  | .update xfer => Sys2Proof.Machine.execUpdate xfer s
  | .bsrc xfer => Sys2Proof.Machine.execBsrc xfer s
  | .mgmtRegWriteOther xfer => Sys2Proof.Machine.execMgmtRegWriteOther xfer s
  | .flrWriteBackDone d => Sys2Proof.Machine.execFlrWriteBackDone d s
  | .plotMigrationMove key plot target => Sys2Proof.Machine.execPlotMigrationMove key plot target s
  | .backingNoSuchPage demand => Sys2Proof.Machine.execBackingNoSuchPage demand s
  | .collectiveReceipt call rank flags count root values => Sys2Proof.Machine.execCollectiveReceipt call rank flags count root values s
  | .gateTransitionEnd cluster => Sys2Proof.Machine.execGateTransitionEnd cluster s

end Sys2Proof.Machine
end

