-- ==== Sys2Proof/WellFormed.lean ====
section
/-!
DEFINITION. Well-formed instructions: every field within its width and every combination of fields that the spec gives a
meaning (R20, R95, R101 to R107). The steps without an encoding carry no such bounds.
-/

namespace Sys2Proof

/-- Elements a source of `cvt` holds in its register (R103, R146): 32 divided by the width, 1 for a 64-bit source. -/
def cvtElements (src : Nat) : Nat :=
  match src with
  | 1 | 2 | 12 | 13 => 2
  | 3 | 4 | 6 | 14 | 15 => 4
  | 5 => 8
  | 7 => 0
  | _ => 1

/-- A well-formed instruction. -/
def Instr.WF : Instr → Prop
  | .add t d a b => t < 2 ∧ d < 128 ∧ a < 128 ∧ b < 128
  | .sub t d a b => t < 2 ∧ d < 128 ∧ a < 128 ∧ b < 128
  | .mul t d a b => t < 2 ∧ d < 128 ∧ a < 128 ∧ b < 128
  | .mulh t d a b => t < 2 ∧ d < 128 ∧ a < 128 ∧ b < 128
  | .min t d a b => t < 2 ∧ d < 128 ∧ a < 128 ∧ b < 128
  | .max t d a b => t < 2 ∧ d < 128 ∧ a < 128 ∧ b < 128
  | .addc d a b => d < 128 ∧ a < 128 ∧ b < 128
  | .subb d a b => d < 128 ∧ a < 128 ∧ b < 128
  | .abs d a => d < 128 ∧ a < 128
  | .neg d a => d < 128 ∧ a < 128
  | .intArith64 f d a b => f < 16 ∧ d < 128 ∧ a < 128 ∧ b < 128 ∧ ((f = 14 ∨ f = 15) → b = 0) ∧ (d % 2 = 0 ∧ a % 2 = 0 ∧ b % 2 = 0)
  | .intArithVs f d a sb => f < 16 ∧ d < 128 ∧ a < 128 ∧ sb < 64 ∧ ((f = 14 ∨ f = 15) → sb = 0)
  | .intArith64Vs f d a sb => f < 16 ∧ d < 128 ∧ a < 128 ∧ sb < 64 ∧ ((f = 14 ∨ f = 15) → sb = 0) ∧ (d % 2 = 0 ∧ a % 2 = 0)
  | .and d a b => d < 128 ∧ a < 128 ∧ b < 128
  | .or d a b => d < 128 ∧ a < 128 ∧ b < 128
  | .xor d a b => d < 128 ∧ a < 128 ∧ b < 128
  | .andn d a b => d < 128 ∧ a < 128 ∧ b < 128
  | .not d a => d < 128 ∧ a < 128
  | .shl d a b => d < 128 ∧ a < 128 ∧ b < 128
  | .shr d a b => d < 128 ∧ a < 128 ∧ b < 128
  | .sra d a b => d < 128 ∧ a < 128 ∧ b < 128
  | .rol d a b => d < 128 ∧ a < 128 ∧ b < 128
  | .popc d a => d < 128 ∧ a < 128
  | .clz d a => d < 128 ∧ a < 128
  | .ctz d a => d < 128 ∧ a < 128
  | .brev d a => d < 128 ∧ a < 128
  | .mov d a => d < 128 ∧ a < 128
  | .logic64 f d a b => f < 16 ∧ d < 128 ∧ a < 128 ∧ b < 128 ∧ (f < 14) ∧ ((f = 4 ∨ 9 ≤ f) → b = 0) ∧ (d % 2 = 0 ∧ a % 2 = 0 ∧ b % 2 = 0)
  | .logicVs f d a sb => f < 16 ∧ d < 128 ∧ a < 128 ∧ sb < 64 ∧ (f < 14) ∧ ((f = 4 ∨ 9 ≤ f) → sb = 0)
  | .logic64Vs f d a sb => f < 16 ∧ d < 128 ∧ a < 128 ∧ sb < 64 ∧ (f < 14) ∧ ((f = 4 ∨ 9 ≤ f) → sb = 0) ∧ (d % 2 = 0 ∧ a % 2 = 0)
  | .mad d a b => d < 128 ∧ a < 128 ∧ b < 128
  | .bfxN32 d a b => d < 128 ∧ a < 128 ∧ b < 128
  | .bfxI32 d a b => d < 128 ∧ a < 128 ∧ b < 128
  | .bfi d a b => d < 128 ∧ a < 128 ∧ b < 128
  | .lea k d a b => k < 4 ∧ d < 128 ∧ a < 128 ∧ b < 128 ∧ (d % 2 = 0 ∧ a % 2 = 0)
  | .cvti c d a => c < 8 ∧ d < 128 ∧ a < 128 ∧ (((c = 4 ∨ c = 5) → d % 2 = 0) ∧ ((c = 6 ∨ c = 7) → a % 2 = 0))
  | .addImm d a imm => d < 128 ∧ a < 128 ∧ imm < 2048
  | .mulImm d a imm => d < 128 ∧ a < 128 ∧ imm < 2048
  | .andImm d a imm => d < 128 ∧ a < 128 ∧ imm < 2048
  | .orImm d a imm => d < 128 ∧ a < 128 ∧ imm < 2048
  | .xorImm d a imm => d < 128 ∧ a < 128 ∧ imm < 2048
  | .shiftImm d a o c => d < 128 ∧ a < 128 ∧ o < 4 ∧ c < 32
  | .ldi d imm => d < 128 ∧ imm < 2048
  | .movk d imm => d < 128 ∧ imm < 2048 ∧ (d % 2 = 0)
  | .cmp t c p a b => t < 8 ∧ c < 16 ∧ p < 16 ∧ a < 128 ∧ b < 128 ∧ (t < 4 ∧ c < 8) ∧ (2 ≤ t → (a % 2 = 0 ∧ b % 2 = 0))
  | .cmpVs t c p a sb => t < 8 ∧ c < 16 ∧ p < 16 ∧ a < 128 ∧ sb < 64 ∧ (t < 4 ∧ c < 8) ∧ (2 ≤ t → a % 2 = 0)
  | .sel n d a b => n < 16 ∧ d < 128 ∧ a < 128 ∧ b < 128
  | .uniformAlu f d a b => f < 128 ∧ d < 64 ∧ a < 64 ∧ b < 64 ∧ (f < 28) ∧ ((f = 16 ∨ 21 ≤ f) → b = 0)
  | .cmpU t c p a b => t < 8 ∧ c < 16 ∧ p < 16 ∧ a < 64 ∧ b < 64 ∧ (t < 4 ∧ c < 8)
  | .addImmU d a imm => d < 64 ∧ a < 64 ∧ imm < 8192
  | .mulImmU d a imm => d < 64 ∧ a < 64 ∧ imm < 8192
  | .andImmU d a imm => d < 64 ∧ a < 64 ∧ imm < 8192
  | .orImmU d a imm => d < 64 ∧ a < 64 ∧ imm < 8192
  | .xorImmU d a imm => d < 64 ∧ a < 64 ∧ imm < 8192
  | .shiftImmU d a o c => d < 64 ∧ a < 64 ∧ o < 4 ∧ c < 64
  | .ldiU d imm => d < 64 ∧ imm < 8192
  | .movkU d imm => d < 64 ∧ imm < 8192
  | .pand d a b => d < 16 ∧ a < 16 ∧ b < 16
  | .por d a b => d < 16 ∧ a < 16 ∧ b < 16
  | .pxor d a b => d < 16 ∧ a < 16 ∧ b < 16
  | .pnot d a => d < 16 ∧ a < 16
  | .pmovPp d a => d < 16 ∧ a < 16
  | .pcnt d a => d < 64 ∧ a < 16
  | .pfirst d a => d < 64 ∧ a < 16
  | .pmovSp d a => d < 64 ∧ a < 16
  | .pmovPs d a => d < 16 ∧ a < 64
  | .bra h n p o => h < 4 ∧ n < 2 ∧ p < 16 ∧ o < 262144
  | .jmp o => o < 262144
  | .call o => o < 262144
  | .rcv o => o < 262144
  | .nop => True
  | .join => True
  | .ret => True
  | .exit => True
  | .yield => True
  | .jmpReg a => a < 64
  | .rdsr d n => d < 64 ∧ n < 64 ∧ (1 ≤ n ∧ n < 19)
  | .wrsr n a => n < 64 ∧ a < 64 ∧ ((13 ≤ n ∧ n < 17) ∨ n = 18)
  | .rdsrV d n => d < 128 ∧ n < 64 ∧ (n < 19)
  | .fadd d a b => d < 128 ∧ a < 128 ∧ b < 128
  | .fsub d a b => d < 128 ∧ a < 128 ∧ b < 128
  | .fmul d a b => d < 128 ∧ a < 128 ∧ b < 128
  | .fma d a b => d < 128 ∧ a < 128 ∧ b < 128
  | .fmin d a b => d < 128 ∧ a < 128 ∧ b < 128
  | .fmax d a b => d < 128 ∧ a < 128 ∧ b < 128
  | .fdiv d a b => d < 128 ∧ a < 128 ∧ b < 128
  | .fsqrt d a => d < 128 ∧ a < 128
  | .frcp d a => d < 128 ∧ a < 128
  | .frsq d a => d < 128 ∧ a < 128
  | .frnd d a => d < 128 ∧ a < 128
  | .fabs d a => d < 128 ∧ a < 128
  | .fneg d a => d < 128 ∧ a < 128
  | .fcpsgn d a b => d < 128 ∧ a < 128 ∧ b < 128
  | .fcls d a => d < 128 ∧ a < 128
  | .fpF16 f d a b => f < 16 ∧ d < 128 ∧ a < 128 ∧ b < 128 ∧ (f < 15) ∧ ((7 ≤ f ∧ f ≤ 12 ∨ f = 14) → b = 0)
  | .fpBf16 f d a b => f < 16 ∧ d < 128 ∧ a < 128 ∧ b < 128 ∧ (f < 15) ∧ ((7 ≤ f ∧ f ≤ 12 ∨ f = 14) → b = 0)
  | .fpVs f d a sb => f < 16 ∧ d < 128 ∧ a < 128 ∧ sb < 64 ∧ (f < 15) ∧ ((7 ≤ f ∧ f ≤ 12 ∨ f = 14) → sb = 0)
  | .fex2 d a => d < 128 ∧ a < 128
  | .flg2 d a => d < 128 ∧ a < 128
  | .fsin d a => d < 128 ∧ a < 128
  | .fcos d a => d < 128 ∧ a < 128
  | .ftanh d a => d < 128 ∧ a < 128
  | .faddImm d a imm => d < 128 ∧ a < 128 ∧ imm < 2048
  | .fmulImm d a imm => d < 128 ∧ a < 128 ∧ imm < 2048
  | .fcmp t c p a b => t < 8 ∧ c < 16 ∧ p < 16 ∧ a < 128 ∧ b < 128 ∧ (t < 3 ∧ c < 8)
  | .cvt f d a e src => f < 16 ∧ d < 128 ∧ a < 128 ∧ e < 8 ∧ src < 16 ∧ (f ≠ 7 ∧ src ≠ 7 ∧ f ≠ src ∧ ¬ (8 ≤ f ∧ 8 ≤ src) ∧ e < cvtElements src) ∧ (((f = 10 ∨ f = 11) → d % 2 = 0) ∧ ((src = 10 ∨ src = 11) → a % 2 = 0))
  | .pk2F16 d a b => d < 128 ∧ a < 128 ∧ b < 128
  | .pk2Bf16 d a b => d < 128 ∧ a < 128 ∧ b < 128
  | .upk2F16 d a => d < 128 ∧ a < 128 ∧ (d % 2 = 0)
  | .upk2Bf16 d a => d < 128 ∧ a < 128 ∧ (d % 2 = 0)
  | .hadd2F16 d a b => d < 128 ∧ a < 128 ∧ b < 128
  | .hmul2F16 d a b => d < 128 ∧ a < 128 ∧ b < 128
  | .hfma2F16 d a b => d < 128 ∧ a < 128 ∧ b < 128
  | .hmin2F16 d a b => d < 128 ∧ a < 128 ∧ b < 128
  | .hmax2F16 d a b => d < 128 ∧ a < 128 ∧ b < 128
  | .hadd2Bf16 d a b => d < 128 ∧ a < 128 ∧ b < 128
  | .hmul2Bf16 d a b => d < 128 ∧ a < 128 ∧ b < 128
  | .hfma2Bf16 d a b => d < 128 ∧ a < 128 ∧ b < 128
  | .hmin2Bf16 d a b => d < 128 ∧ a < 128 ∧ b < 128
  | .hmax2Bf16 d a b => d < 128 ∧ a < 128 ∧ b < 128
  | .iadd2 t d a b => t < 2 ∧ d < 128 ∧ a < 128 ∧ b < 128
  | .imax2 t d a b => t < 2 ∧ d < 128 ∧ a < 128 ∧ b < 128
  | .imin2 t d a b => t < 2 ∧ d < 128 ∧ a < 128 ∧ b < 128
  | .ld o d base v c => o < 8 ∧ d < 128 ∧ base < 64 ∧ v < 128 ∧ c < 4 ∧ (o < 7) ∧ ((o = 5 → d % 2 = 0) ∧ (o = 6 → d % 4 = 0))
  | .st o d base v c => o < 8 ∧ d < 128 ∧ base < 64 ∧ v < 128 ∧ c < 4 ∧ (o = 0 ∨ o = 2 ∨ o = 4 ∨ o = 5 ∨ o = 6) ∧ ((o = 5 → d % 2 = 0) ∧ (o = 6 → d % 4 = 0))
  | .ldu o d base => o < 8 ∧ d < 64 ∧ base < 64 ∧ (o < 7) ∧ (o = 6 → d % 2 = 0)
  | .atom o d base v c => o < 8 ∧ d < 128 ∧ base < 64 ∧ v < 128 ∧ c < 4 ∧ (o < 7)
  | .atomCas d base v c => d < 128 ∧ base < 64 ∧ v < 128 ∧ c < 4
  | .atom64 o d base v c => o < 8 ∧ d < 128 ∧ base < 64 ∧ v < 128 ∧ c < 4 ∧ (o < 7) ∧ (d % 2 = 0)
  | .atom64Cas d base v c => d < 128 ∧ base < 64 ∧ v < 128 ∧ c < 4 ∧ (d % 2 = 0)
  | .red o d base v c => o < 8 ∧ d < 128 ∧ base < 64 ∧ v < 128 ∧ c < 4 ∧ (o < 7) ∧ (o = 6 → d % 2 = 0)
  | .pfL1 base v c => base < 64 ∧ v < 128 ∧ c < 4
  | .pfMc base v c => base < 64 ∧ v < 128 ∧ c < 4
  | .chkBeg o => o < 262144
  | .chkEnd => True
  | .chkAbt c => c < 64
  | .fenceS => True
  | .fenceX => True
  | .flr a b => a < 64 ∧ b < 64
  | .ivr a b => a < 64 ∧ b < 64
  | .drop a b => a < 64 ∧ b < 64
  | .scrGrow d a => d < 64 ∧ a < 64
  | .scrShrk d a => d < 64 ∧ a < 64
  | .scrWait a b => a < 64 ∧ b < 64
  | .plp d a => d < 64 ∧ a < 64
  | .shfl d a b => d < 128 ∧ a < 128 ∧ b < 128
  | .lscanAddI32 d a p => d < 128 ∧ a < 128 ∧ p < 16
  | .lscanAddF32 d a p => d < 128 ∧ a < 128 ∧ p < 16
  | .lscanMaxI32 d a p => d < 128 ∧ a < 128 ∧ p < 16
  | .lscanMinI32 d a p => d < 128 ∧ a < 128 ∧ p < 16
  | .lscanMaxF32 d a p => d < 128 ∧ a < 128 ∧ p < 16
  | .lscanMinF32 d a p => d < 128 ∧ a < 128 ∧ p < 16
  | .lredAddI32 d a p => d < 128 ∧ a < 128 ∧ p < 16
  | .lredAddF32 d a p => d < 128 ∧ a < 128 ∧ p < 16
  | .lredMaxI32 d a p => d < 128 ∧ a < 128 ∧ p < 16
  | .lredMinI32 d a p => d < 128 ∧ a < 128 ∧ p < 16
  | .lredMaxF32 d a p => d < 128 ∧ a < 128 ∧ p < 16
  | .lredMinF32 d a p => d < 128 ∧ a < 128 ∧ p < 16
  | .bcst d a sb => d < 128 ∧ a < 128 ∧ sb < 64
  | .bcstImm d a n => d < 128 ∧ a < 128 ∧ n < 64
  | .lxbLo f d a b => f < 8 ∧ d < 128 ∧ a < 128 ∧ b < 128 ∧ (f < 6)
  | .lxbHi f d a b => f < 8 ∧ d < 128 ∧ a < 128 ∧ b < 128 ∧ (f < 6)
  | .voteAny p a => p < 16 ∧ a < 16
  | .voteAll p a => p < 16 ∧ a < 16
  | .voteUni p a => p < 16 ∧ a < 16
  | .barReg b => b < 16
  | .barArv b => b < 16
  | .barWt b => b < 16
  | .barDrp b => b < 16
  | .trap n => n < 64
  | .tret => True
  | .sleep a => a < 64
  | .fltq d => d < 64
  | .mma f d a b x y => f < 16 ∧ d < 8 ∧ a < 16 ∧ b < 16 ∧ x < 2 ∧ y < 2 ∧ (f < 7)
  | .mmas d a b x y u => d < 8 ∧ a < 16 ∧ b < 16 ∧ x < 2 ∧ y < 2 ∧ u < 64
  | .tld t base v c => t < 16 ∧ base < 64 ∧ v < 128 ∧ c < 4
  | .tst t base v c => t < 16 ∧ base < 64 ∧ v < 128 ∧ c < 4
  | .acld a base v c => a < 8 ∧ base < 64 ∧ v < 128 ∧ c < 4
  | .acst a base v c => a < 8 ∧ base < 64 ∧ v < 128 ∧ c < 4
  | .tmvBf16 t a => t < 16 ∧ a < 128 ∧ (a % 8 = 0)
  | .tmvF16 t a => t < 16 ∧ a < 128 ∧ (a % 8 = 0)
  | .tmvE4m3 t a => t < 16 ∧ a < 128 ∧ (a % 16 = 0)
  | .tmvE5m2 t a => t < 16 ∧ a < 128 ∧ (a % 16 = 0)
  | .tmvE2m1 t a b => t < 16 ∧ a < 128 ∧ b < 128 ∧ (a % 32 = 0)
  | .tmvRaw t a => t < 16 ∧ a < 128 ∧ (a % 4 = 0)
  | .tmvToVec d t => d < 128 ∧ t < 16 ∧ (d % 4 = 0)
  | .acmvToVec d a => d < 128 ∧ a < 8 ∧ (d % 16 = 0)
  | .acmvFromVec c a => c < 8 ∧ a < 128 ∧ (a % 16 = 0)
  | .tzero t => t < 16
  | .acz a => a < 8
  | .exph a sb => a < 8 ∧ sb < 64
  | .adamw d a sb => d < 128 ∧ a < 128 ∧ sb < 64 ∧ (d ≤ 125 ∧ sb ≤ 60)
  | .glzScl run n => run < 64 ∧ n < 2 ∧ (run ≤ 60)
  | .glzOff run n => run < 64 ∧ n < 2 ∧ (run ≤ 60)
  | .glzClp run n => run < 64 ∧ n < 2 ∧ (run ≤ 60)
  | .glzFil run n => run < 64 ∧ n < 2 ∧ (run ≤ 60)
  | .glzPrm run n => run < 64 ∧ n < 2 ∧ (run ≤ 60)
  | .glzMap run n => run < 64 ∧ n < 2 ∧ (run ≤ 58)
  | .glzFire run n => run < 64 ∧ n < 2 ∧ (run ≤ 61)
  | .glzRdh run n => run < 64 ∧ n < 2 ∧ (run ≤ 60)
  | .engCpy run n => run < 64 ∧ n < 2 ∧ (run ≤ 60)
  | .engGth run p n => run < 64 ∧ p < 4 ∧ n < 2 ∧ (p < 3) ∧ (run ≤ 56)
  | .engGrd run p n => run < 64 ∧ p < 4 ∧ n < 2 ∧ (p < 3) ∧ (run ≤ 54)
  | .engSct run p n => run < 64 ∧ p < 4 ∧ n < 2 ∧ (p = 0 ∨ p = 2) ∧ (run ≤ 57)
  | .engCol run f k n => run < 64 ∧ f < 4 ∧ k < 4 ∧ n < 2 ∧ (2 ≤ k → f = 0) ∧ (run ≤ 60)
  | .engWt run d => run < 64 ∧ d < 64 ∧ (run ≤ 62)
  | .engTst run d => run < 64 ∧ d < 64
  | .tapePush run d => run < 64 ∧ d < 64
  | .tapeTurn run d => run < 64 ∧ d < 64
  | .lnch run q => run < 64 ∧ q < 64
  | .illegalInstruction _ _ _ => True
  | .chunkLimitReached _ => True
  | .ageCap _ => True
  | .instructionComplete _ => True
  | .fillReturn _ => True
  | .commitPrepare _ => True
  | .commitRequest _ => True
  | .orderTokenVisit => True
  | .homeApplyCommit _ => True
  | .broadcastApply _ => True
  | .soloGrant _ => True
  | .streamAck _ _ => True
  | .sleepExpiry _ => True
  | .barrierOperation _ => True
  | .commandHandoff _ => True
  | .lnchAppend _ => True
  | .sectorLand _ => True
  | .engineChunkCommit _ => True
  | .engineFail _ _ => True
  | .engWtReturn _ => True
  | .scrGrowComplete _ => True
  | .placeWorkgroup => True
  | .resumeWorkgroup _ => True
  | .preempt _ => True
  | .timeSlice => True
  | .workgroupExit _ => True
  | .workgroupKill _ => True
  | .launchComplete _ => True
  | .tapePop _ => True
  | .homeFillRequest _ => True
  | .walkRestart _ => True
  | .homePrepare _ _ => True
  | .pageFetchComplete _ => True
  | .backingTimeout _ => True
  | .pageWaitTimeout _ => True
  | .frameMove _ _ _ _ => True
  | .residueMismatch _ => True
  | .eccError _ _ _ => True
  | .coreRepair _ => True
  | .bankRetire _ _ => True
  | .portFailure _ => True
  | .portRelinked _ _ => True
  | .bolhornUpdateDone => True
  | .powerAdjust _ => True
  | .moduleReset => True
  | .bringStageDone _ => True
  | .unsupportedPacket _ => True
  | .openMsg _ => True
  | .closeMsg _ => True
  | .dataMsg _ => True
  | .ctxCreate _ => True
  | .ctxDestroy _ => True
  | .launch _ => True
  | .cancel _ => True
  | .tokenRead _ => True
  | .tokenSet _ => True
  | .tokenSignal _ => True
  | .memWrite _ => True
  | .memWriteCommit _ => True
  | .memRead _ => True
  | .plotSet _ => True
  | .pageMap _ => True
  | .pageMakeResident _ => True
  | .pageEvict _ => True
  | .pageUnmap _ => True
  | .tapeTurnCmd _ => True
  | .groupCfg _ => True
  | .journalRead _ => True
  | .statusMsg _ => True
  | .miremReservedOp _ => True
  | .collectiveStagedReport _ _ => True
  | .collectiveFinish _ => True
  | .collectiveTimeout _ => True
  | .pwrcap _ => True
  | .gate _ => True
  | .key _ => True
  | .hdrres _ => True
  | .update _ => True
  | .bsrc _ => True
  | .mgmtRegWriteOther _ => True
  | .flrWriteBackDone _ => True
  | .plotMigrationMove _ _ _ => True
  | .backingNoSuchPage _ => True
  | .collectiveReceipt _ _ _ _ _ _ => True
  | .gateTransitionEnd _ => True

end Sys2Proof
end

