-- ==== Sys2Proof/Decode.lean ====
section
/-!
DEFINITION. Decoding: a word to an instruction or the detail of its trap (06_encoding.md R94 to R109), total on any number; the
hint words before it; the encoder. Fields are read by division and remainder, as R94 places them.
-/

namespace Sys2Proof

/-- Major 0x01 (R101). -/
def decode01 (w : Nat) : Except Nat Instr :=
  if w / 4194304 % 8 = 0 then
    let t := w / 2097152 % 2
    let d := w / 16384 % 128
    let a := w / 128 % 128
    let b := w % 128
    .ok (.add t d a b)
  else
  if w / 4194304 % 8 = 1 then
    let t := w / 2097152 % 2
    let d := w / 16384 % 128
    let a := w / 128 % 128
    let b := w % 128
    .ok (.sub t d a b)
  else
  if w / 4194304 % 8 = 2 then
    let t := w / 2097152 % 2
    let d := w / 16384 % 128
    let a := w / 128 % 128
    let b := w % 128
    .ok (.mul t d a b)
  else
  if w / 4194304 % 8 = 3 then
    let t := w / 2097152 % 2
    let d := w / 16384 % 128
    let a := w / 128 % 128
    let b := w % 128
    .ok (.mulh t d a b)
  else
  if w / 4194304 % 8 = 4 then
    let t := w / 2097152 % 2
    let d := w / 16384 % 128
    let a := w / 128 % 128
    let b := w % 128
    .ok (.min t d a b)
  else
  if w / 4194304 % 8 = 5 then
    let t := w / 2097152 % 2
    let d := w / 16384 % 128
    let a := w / 128 % 128
    let b := w % 128
    .ok (.max t d a b)
  else
  if w / 2097152 % 16 = 12 then
    let d := w / 16384 % 128
    let a := w / 128 % 128
    let b := w % 128
    .ok (.addc d a b)
  else
  if w / 2097152 % 16 = 13 then
    let d := w / 16384 % 128
    let a := w / 128 % 128
    let b := w % 128
    .ok (.subb d a b)
  else
  if w / 2097152 % 16 = 14 then
    let d := w / 16384 % 128
    let a := w / 128 % 128
    if ¬ (w % 128 = 0) then .error 4 else
    .ok (.abs d a)
  else
  if w / 2097152 % 16 = 15 then
    let d := w / 16384 % 128
    let a := w / 128 % 128
    if ¬ (w % 128 = 0) then .error 4 else
    .ok (.neg d a)
  else
  .error 3

/-- Major 0x02 (R101). -/
def decode02 (w : Nat) : Except Nat Instr :=
  let f := w / 2097152 % 16
  let d := w / 16384 % 128
  let a := w / 128 % 128
  let b := w % 128
  if ¬ (((f = 14 ∨ f = 15) → b = 0)) then .error 4 else
  if ¬ ((d % 2 = 0 ∧ a % 2 = 0 ∧ b % 2 = 0)) then .error 6 else
  .ok (.intArith64 f d a b)

/-- Major 0x03 (R101). -/
def decode03 (w : Nat) : Except Nat Instr :=
  if w / 2097152 % 16 = 0 then
    let d := w / 16384 % 128
    let a := w / 128 % 128
    let b := w % 128
    .ok (.and d a b)
  else
  if w / 2097152 % 16 = 1 then
    let d := w / 16384 % 128
    let a := w / 128 % 128
    let b := w % 128
    .ok (.or d a b)
  else
  if w / 2097152 % 16 = 2 then
    let d := w / 16384 % 128
    let a := w / 128 % 128
    let b := w % 128
    .ok (.xor d a b)
  else
  if w / 2097152 % 16 = 3 then
    let d := w / 16384 % 128
    let a := w / 128 % 128
    let b := w % 128
    .ok (.andn d a b)
  else
  if w / 2097152 % 16 = 4 then
    let d := w / 16384 % 128
    let a := w / 128 % 128
    if ¬ (w % 128 = 0) then .error 4 else
    .ok (.not d a)
  else
  if w / 2097152 % 16 = 5 then
    let d := w / 16384 % 128
    let a := w / 128 % 128
    let b := w % 128
    .ok (.shl d a b)
  else
  if w / 2097152 % 16 = 6 then
    let d := w / 16384 % 128
    let a := w / 128 % 128
    let b := w % 128
    .ok (.shr d a b)
  else
  if w / 2097152 % 16 = 7 then
    let d := w / 16384 % 128
    let a := w / 128 % 128
    let b := w % 128
    .ok (.sra d a b)
  else
  if w / 2097152 % 16 = 8 then
    let d := w / 16384 % 128
    let a := w / 128 % 128
    let b := w % 128
    .ok (.rol d a b)
  else
  if w / 2097152 % 16 = 9 then
    let d := w / 16384 % 128
    let a := w / 128 % 128
    if ¬ (w % 128 = 0) then .error 4 else
    .ok (.popc d a)
  else
  if w / 2097152 % 16 = 10 then
    let d := w / 16384 % 128
    let a := w / 128 % 128
    if ¬ (w % 128 = 0) then .error 4 else
    .ok (.clz d a)
  else
  if w / 2097152 % 16 = 11 then
    let d := w / 16384 % 128
    let a := w / 128 % 128
    if ¬ (w % 128 = 0) then .error 4 else
    .ok (.ctz d a)
  else
  if w / 2097152 % 16 = 12 then
    let d := w / 16384 % 128
    let a := w / 128 % 128
    if ¬ (w % 128 = 0) then .error 4 else
    .ok (.brev d a)
  else
  if w / 2097152 % 16 = 13 then
    let d := w / 16384 % 128
    let a := w / 128 % 128
    if ¬ (w % 128 = 0) then .error 4 else
    .ok (.mov d a)
  else
  .error 3

/-- Major 0x04 (R101). -/
def decode04 (w : Nat) : Except Nat Instr :=
  let f := w / 2097152 % 16
  let d := w / 16384 % 128
  let a := w / 128 % 128
  let b := w % 128
  if ¬ ((f < 14)) then .error 3 else
  if ¬ (((f = 4 ∨ 9 ≤ f) → b = 0)) then .error 4 else
  if ¬ ((d % 2 = 0 ∧ a % 2 = 0 ∧ b % 2 = 0)) then .error 6 else
  .ok (.logic64 f d a b)

/-- Major 0x05 (R101). -/
def decode05 (w : Nat) : Except Nat Instr :=
  if w / 2097152 % 16 = 0 then
    let d := w / 16384 % 128
    let a := w / 128 % 128
    let b := w % 128
    .ok (.mad d a b)
  else
  if w / 2097152 % 16 = 1 then
    let d := w / 16384 % 128
    let a := w / 128 % 128
    let b := w % 128
    .ok (.bfxN32 d a b)
  else
  if w / 2097152 % 16 = 2 then
    let d := w / 16384 % 128
    let a := w / 128 % 128
    let b := w % 128
    .ok (.bfxI32 d a b)
  else
  if w / 2097152 % 16 = 3 then
    let d := w / 16384 % 128
    let a := w / 128 % 128
    let b := w % 128
    .ok (.bfi d a b)
  else
  if w / 8388608 % 4 = 1 then
    let k := w / 2097152 % 4
    let d := w / 16384 % 128
    let a := w / 128 % 128
    let b := w % 128
    if ¬ ((d % 2 = 0 ∧ a % 2 = 0)) then .error 6 else
    .ok (.lea k d a b)
  else
  if w / 16777216 % 2 = 1 then
    let c := w / 2097152 % 8
    let d := w / 16384 % 128
    let a := w / 128 % 128
    if ¬ (w % 128 = 0) then .error 4 else
    if ¬ ((((c = 4 ∨ c = 5) → d % 2 = 0) ∧ ((c = 6 ∨ c = 7) → a % 2 = 0))) then .error 6 else
    .ok (.cvti c d a)
  else
  .error 3

/-- Major 0x06 (R101). -/
def decode06 (w : Nat) : Except Nat Instr :=
  let f := w / 2097152 % 16
  let d := w / 16384 % 128
  let a := w / 128 % 128
  let sb := w % 64
  if ¬ (w / 64 % 2 = 0 ∧ ((f = 14 ∨ f = 15) → sb = 0)) then .error 4 else
  .ok (.intArithVs f d a sb)

/-- Major 0x07 (R101). -/
def decode07 (w : Nat) : Except Nat Instr :=
  let f := w / 2097152 % 16
  let d := w / 16384 % 128
  let a := w / 128 % 128
  let sb := w % 64
  if ¬ (w / 64 % 2 = 0 ∧ ((f = 14 ∨ f = 15) → sb = 0)) then .error 4 else
  if ¬ ((d % 2 = 0 ∧ a % 2 = 0)) then .error 6 else
  .ok (.intArith64Vs f d a sb)

/-- Major 0x08 (R101). -/
def decode08 (w : Nat) : Except Nat Instr :=
  let f := w / 2097152 % 16
  let d := w / 16384 % 128
  let a := w / 128 % 128
  let sb := w % 64
  if ¬ ((f < 14)) then .error 3 else
  if ¬ (w / 64 % 2 = 0 ∧ ((f = 4 ∨ 9 ≤ f) → sb = 0)) then .error 4 else
  .ok (.logicVs f d a sb)

/-- Major 0x09 (R101). -/
def decode09 (w : Nat) : Except Nat Instr :=
  let f := w / 2097152 % 16
  let d := w / 16384 % 128
  let a := w / 128 % 128
  let sb := w % 64
  if ¬ ((f < 14)) then .error 3 else
  if ¬ (w / 64 % 2 = 0 ∧ ((f = 4 ∨ 9 ≤ f) → sb = 0)) then .error 4 else
  if ¬ ((d % 2 = 0 ∧ a % 2 = 0)) then .error 6 else
  .ok (.logic64Vs f d a sb)

/-- Major 0x0A (R101). -/
def decode0A (w : Nat) : Except Nat Instr :=
  let d := w / 262144 % 128
  let a := w / 2048 % 128
  let imm := w % 2048
  .ok (.addImm d a imm)

/-- Major 0x0B (R101). -/
def decode0B (w : Nat) : Except Nat Instr :=
  let d := w / 262144 % 128
  let a := w / 2048 % 128
  let imm := w % 2048
  .ok (.mulImm d a imm)

/-- Major 0x0C (R101). -/
def decode0C (w : Nat) : Except Nat Instr :=
  let d := w / 262144 % 128
  let a := w / 2048 % 128
  let imm := w % 2048
  .ok (.andImm d a imm)

/-- Major 0x0D (R101). -/
def decode0D (w : Nat) : Except Nat Instr :=
  let d := w / 262144 % 128
  let a := w / 2048 % 128
  let imm := w % 2048
  .ok (.orImm d a imm)

/-- Major 0x0E (R101). -/
def decode0E (w : Nat) : Except Nat Instr :=
  let d := w / 262144 % 128
  let a := w / 2048 % 128
  let imm := w % 2048
  .ok (.xorImm d a imm)

/-- Major 0x0F (R101). -/
def decode0F (w : Nat) : Except Nat Instr :=
  let d := w / 262144 % 128
  let a := w / 2048 % 128
  let o := w / 256 % 4
  let c := w % 32
  if ¬ (w / 1024 % 2 = 0) then .error 3 else
  if ¬ (w / 32 % 8 = 0) then .error 4 else
  .ok (.shiftImm d a o c)

/-- Major 0x10 (R101). -/
def decode10 (w : Nat) : Except Nat Instr :=
  let d := w / 262144 % 128
  let imm := w % 2048
  if ¬ (w / 2048 % 128 = 0) then .error 4 else
  .ok (.ldi d imm)

/-- Major 0x11 (R101). -/
def decode11 (w : Nat) : Except Nat Instr :=
  let d := w / 262144 % 128
  let imm := w % 2048
  if ¬ (w / 2048 % 128 = 0) then .error 4 else
  if ¬ ((d % 2 = 0)) then .error 6 else
  .ok (.movk d imm)

/-- Major 0x12 (R101). -/
def decode12 (w : Nat) : Except Nat Instr :=
  let t := w / 4194304 % 8
  let c := w / 262144 % 16
  let p := w / 16384 % 16
  let a := w / 128 % 128
  let b := w % 128
  if ¬ ((t < 4 ∧ c < 8)) then .error 3 else
  if ¬ ((2 ≤ t → (a % 2 = 0 ∧ b % 2 = 0))) then .error 6 else
  .ok (.cmp t c p a b)

/-- Major 0x13 (R101). -/
def decode13 (w : Nat) : Except Nat Instr :=
  let t := w / 4194304 % 8
  let c := w / 262144 % 16
  let p := w / 16384 % 16
  let a := w / 128 % 128
  let sb := w % 64
  if ¬ ((t < 4 ∧ c < 8)) then .error 3 else
  if ¬ (w / 64 % 2 = 0) then .error 4 else
  if ¬ ((2 ≤ t → a % 2 = 0)) then .error 6 else
  .ok (.cmpVs t c p a sb)

/-- Major 0x14 (R101). -/
def decode14 (w : Nat) : Except Nat Instr :=
  let n := w / 2097152 % 16
  let d := w / 16384 % 128
  let a := w / 128 % 128
  let b := w % 128
  .ok (.sel n d a b)

/-- Major 0x20 (R101). -/
def decode20 (w : Nat) : Except Nat Instr :=
  let f := w / 262144 % 128
  let d := w / 4096 % 64
  let a := w / 64 % 64
  let b := w % 64
  if ¬ ((f < 28)) then .error 3 else
  if ¬ (((f = 16 ∨ 21 ≤ f) → b = 0)) then .error 4 else
  .ok (.uniformAlu f d a b)

/-- Major 0x21 (R101). -/
def decode21 (w : Nat) : Except Nat Instr :=
  let t := w / 4194304 % 8
  let c := w / 262144 % 16
  let p := w / 16384 % 16
  let a := w / 128 % 64
  let b := w % 64
  if ¬ ((t < 4 ∧ c < 8)) then .error 3 else
  if ¬ (w / 64 % 2 = 0 ∧ w / 8192 % 2 = 0) then .error 4 else
  .ok (.cmpU t c p a b)

/-- Major 0x22 (R101). -/
def decode22 (w : Nat) : Except Nat Instr :=
  let d := w / 524288 % 64
  let a := w / 8192 % 64
  let imm := w % 8192
  .ok (.addImmU d a imm)

/-- Major 0x23 (R101). -/
def decode23 (w : Nat) : Except Nat Instr :=
  let d := w / 524288 % 64
  let a := w / 8192 % 64
  let imm := w % 8192
  .ok (.mulImmU d a imm)

/-- Major 0x24 (R101). -/
def decode24 (w : Nat) : Except Nat Instr :=
  let d := w / 524288 % 64
  let a := w / 8192 % 64
  let imm := w % 8192
  .ok (.andImmU d a imm)

/-- Major 0x25 (R101). -/
def decode25 (w : Nat) : Except Nat Instr :=
  let d := w / 524288 % 64
  let a := w / 8192 % 64
  let imm := w % 8192
  .ok (.orImmU d a imm)

/-- Major 0x26 (R101). -/
def decode26 (w : Nat) : Except Nat Instr :=
  let d := w / 524288 % 64
  let a := w / 8192 % 64
  let imm := w % 8192
  .ok (.xorImmU d a imm)

/-- Major 0x27 (R101). A reserved op code is illegal, detail 3, under a LIMM hint too, which R96 refuses whatever that code is: R109's order of
traps decides. DEDUCED (log 73). -/
def decode27 (w : Nat) : Except Nat Instr :=
  let d := w / 524288 % 64
  let a := w / 8192 % 64
  let o := w / 1024 % 4
  let c := w % 64
  if ¬ (w / 4096 % 2 = 0) then .error 3 else
  if ¬ (w / 64 % 16 = 0) then .error 4 else
  .ok (.shiftImmU d a o c)

/-- Major 0x28 (R101). -/
def decode28 (w : Nat) : Except Nat Instr :=
  let d := w / 524288 % 64
  let imm := w % 8192
  if ¬ (w / 8192 % 64 = 0) then .error 4 else
  .ok (.ldiU d imm)

/-- Major 0x29 (R101). -/
def decode29 (w : Nat) : Except Nat Instr :=
  let d := w / 524288 % 64
  let imm := w % 8192
  if ¬ (w / 8192 % 64 = 0) then .error 4 else
  .ok (.movkU d imm)

/-- Major 0x30 (R101). "cond zero" is a zero field, detail 4: DESIGN CHOICE (log 104). -/
def decode30 (w : Nat) : Except Nat Instr :=
  if w / 4194304 % 8 = 0 then
    let d := w / 16384 % 16
    let a := w / 128 % 16
    let b := w % 16
    if ¬ (w / 16 % 8 = 0 ∧ w / 2048 % 8 = 0 ∧ w / 262144 % 16 = 0) then .error 4 else
    .ok (.pand d a b)
  else
  if w / 4194304 % 8 = 1 then
    let d := w / 16384 % 16
    let a := w / 128 % 16
    let b := w % 16
    if ¬ (w / 16 % 8 = 0 ∧ w / 2048 % 8 = 0 ∧ w / 262144 % 16 = 0) then .error 4 else
    .ok (.por d a b)
  else
  if w / 4194304 % 8 = 2 then
    let d := w / 16384 % 16
    let a := w / 128 % 16
    let b := w % 16
    if ¬ (w / 16 % 8 = 0 ∧ w / 2048 % 8 = 0 ∧ w / 262144 % 16 = 0) then .error 4 else
    .ok (.pxor d a b)
  else
  if w / 4194304 % 8 = 3 then
    let d := w / 16384 % 16
    let a := w / 128 % 16
    if ¬ (w % 128 = 0 ∧ w / 2048 % 8 = 0 ∧ w / 262144 % 16 = 0) then .error 4 else
    .ok (.pnot d a)
  else
  if w / 4194304 % 8 = 4 then
    let d := w / 16384 % 16
    let a := w / 128 % 16
    if ¬ (w % 128 = 0 ∧ w / 2048 % 8 = 0 ∧ w / 262144 % 16 = 0) then .error 4 else
    .ok (.pmovPp d a)
  else
  .error 3

/-- Major 0x31 (R101). -/
def decode31 (w : Nat) : Except Nat Instr :=
  if w / 262144 % 128 = 0 then
    let d := w / 4096 % 64
    let a := w / 64 % 16
    if ¬ (w % 64 = 0 ∧ w / 1024 % 4 = 0) then .error 4 else
    .ok (.pcnt d a)
  else
  if w / 262144 % 128 = 1 then
    let d := w / 4096 % 64
    let a := w / 64 % 16
    if ¬ (w % 64 = 0 ∧ w / 1024 % 4 = 0) then .error 4 else
    .ok (.pfirst d a)
  else
  if w / 262144 % 128 = 2 then
    let d := w / 4096 % 64
    let a := w / 64 % 16
    if ¬ (w % 64 = 0 ∧ w / 1024 % 4 = 0) then .error 4 else
    .ok (.pmovSp d a)
  else
  if w / 262144 % 128 = 3 then
    let d := w / 4096 % 16
    let a := w / 64 % 64
    if ¬ (w % 64 = 0 ∧ w / 65536 % 4 = 0) then .error 4 else
    .ok (.pmovPs d a)
  else
  .error 3

/-- Major 0x32 (R101). -/
def decode32 (w : Nat) : Except Nat Instr :=
  let h := w / 8388608 % 4
  let n := w / 4194304 % 2
  let p := w / 262144 % 16
  let o := w % 262144
  .ok (.bra h n p o)

/-- Major 0x33 (R101). -/
def decode33 (w : Nat) : Except Nat Instr :=
  if w / 262144 % 128 = 15 then
    let o := w % 262144
    .ok (.jmp o)
  else
  .error 3

/-- Major 0x34 (R101). -/
def decode34 (w : Nat) : Except Nat Instr :=
  if w / 262144 % 128 = 15 then
    let o := w % 262144
    .ok (.call o)
  else
  .error 3

/-- Major 0x35 (R101). -/
def decode35 (w : Nat) : Except Nat Instr :=
  if w / 262144 % 128 = 15 then
    let o := w % 262144
    .ok (.rcv o)
  else
  .error 3

/-- Major 0x36 (R101). -/
def decode36 (w : Nat) : Except Nat Instr :=
  if w / 262144 % 128 = 0 then
    if ¬ (w % 262144 = 0) then .error 4 else
    .ok (.nop)
  else
  if w / 262144 % 128 = 1 then
    if ¬ (w % 262144 = 0) then .error 4 else
    .ok (.join)
  else
  if w / 262144 % 128 = 2 then
    if ¬ (w % 262144 = 0) then .error 4 else
    .ok (.ret)
  else
  if w / 262144 % 128 = 3 then
    if ¬ (w % 262144 = 0) then .error 4 else
    .ok (.exit)
  else
  if w / 262144 % 128 = 4 then
    if ¬ (w % 262144 = 0) then .error 4 else
    .ok (.yield)
  else
  if w / 262144 % 128 = 5 then
    let a := w / 64 % 64
    if ¬ (w % 64 = 0 ∧ w / 4096 % 64 = 0) then .error 4 else
    .ok (.jmpReg a)
  else
  .error 3

/-- Major 0x37 (R101). -/
def decode37 (w : Nat) : Except Nat Instr :=
  if w / 262144 % 128 = 0 then
    let d := w / 4096 % 64
    let n := w / 64 % 64
    if ¬ ((1 ≤ n ∧ n < 19)) then .error 3 else
    if ¬ (w % 64 = 0) then .error 4 else
    .ok (.rdsr d n)
  else
  if w / 262144 % 128 = 1 then
    let n := w / 4096 % 64
    let a := w / 64 % 64
    if ¬ (((13 ≤ n ∧ n < 17) ∨ n = 18)) then .error 3 else
    if ¬ (w % 64 = 0) then .error 4 else
    .ok (.wrsr n a)
  else
  .error 3

/-- Major 0x38 (R101). A non-zero fn is an unassigned code, detail 3: DESIGN CHOICE (log 104). -/
def decode38 (w : Nat) : Except Nat Instr :=
  if w / 2097152 % 16 = 0 then
    let d := w / 16384 % 128
    let n := w / 128 % 64
    if ¬ ((n < 19)) then .error 3 else
    if ¬ (w % 128 = 0 ∧ w / 8192 % 2 = 0) then .error 4 else
    .ok (.rdsrV d n)
  else
  .error 3

/-- Major 0x40 (R101). -/
def decode40 (w : Nat) : Except Nat Instr :=
  if w / 2097152 % 16 = 0 then
    let d := w / 16384 % 128
    let a := w / 128 % 128
    let b := w % 128
    .ok (.fadd d a b)
  else
  if w / 2097152 % 16 = 1 then
    let d := w / 16384 % 128
    let a := w / 128 % 128
    let b := w % 128
    .ok (.fsub d a b)
  else
  if w / 2097152 % 16 = 2 then
    let d := w / 16384 % 128
    let a := w / 128 % 128
    let b := w % 128
    .ok (.fmul d a b)
  else
  if w / 2097152 % 16 = 3 then
    let d := w / 16384 % 128
    let a := w / 128 % 128
    let b := w % 128
    .ok (.fma d a b)
  else
  if w / 2097152 % 16 = 4 then
    let d := w / 16384 % 128
    let a := w / 128 % 128
    let b := w % 128
    .ok (.fmin d a b)
  else
  if w / 2097152 % 16 = 5 then
    let d := w / 16384 % 128
    let a := w / 128 % 128
    let b := w % 128
    .ok (.fmax d a b)
  else
  if w / 2097152 % 16 = 6 then
    let d := w / 16384 % 128
    let a := w / 128 % 128
    let b := w % 128
    .ok (.fdiv d a b)
  else
  if w / 2097152 % 16 = 7 then
    let d := w / 16384 % 128
    let a := w / 128 % 128
    if ¬ (w % 128 = 0) then .error 4 else
    .ok (.fsqrt d a)
  else
  if w / 2097152 % 16 = 8 then
    let d := w / 16384 % 128
    let a := w / 128 % 128
    if ¬ (w % 128 = 0) then .error 4 else
    .ok (.frcp d a)
  else
  if w / 2097152 % 16 = 9 then
    let d := w / 16384 % 128
    let a := w / 128 % 128
    if ¬ (w % 128 = 0) then .error 4 else
    .ok (.frsq d a)
  else
  if w / 2097152 % 16 = 10 then
    let d := w / 16384 % 128
    let a := w / 128 % 128
    if ¬ (w % 128 = 0) then .error 4 else
    .ok (.frnd d a)
  else
  if w / 2097152 % 16 = 11 then
    let d := w / 16384 % 128
    let a := w / 128 % 128
    if ¬ (w % 128 = 0) then .error 4 else
    .ok (.fabs d a)
  else
  if w / 2097152 % 16 = 12 then
    let d := w / 16384 % 128
    let a := w / 128 % 128
    if ¬ (w % 128 = 0) then .error 4 else
    .ok (.fneg d a)
  else
  if w / 2097152 % 16 = 13 then
    let d := w / 16384 % 128
    let a := w / 128 % 128
    let b := w % 128
    .ok (.fcpsgn d a b)
  else
  if w / 2097152 % 16 = 14 then
    let d := w / 16384 % 128
    let a := w / 128 % 128
    if ¬ (w % 128 = 0) then .error 4 else
    .ok (.fcls d a)
  else
  .error 3

/-- Major 0x41 (R101). -/
def decode41 (w : Nat) : Except Nat Instr :=
  let f := w / 2097152 % 16
  let d := w / 16384 % 128
  let a := w / 128 % 128
  let b := w % 128
  if ¬ ((f < 15)) then .error 3 else
  if ¬ (((7 ≤ f ∧ f ≤ 12 ∨ f = 14) → b = 0)) then .error 4 else
  .ok (.fpF16 f d a b)

/-- Major 0x42 (R101). -/
def decode42 (w : Nat) : Except Nat Instr :=
  let f := w / 2097152 % 16
  let d := w / 16384 % 128
  let a := w / 128 % 128
  let b := w % 128
  if ¬ ((f < 15)) then .error 3 else
  if ¬ (((7 ≤ f ∧ f ≤ 12 ∨ f = 14) → b = 0)) then .error 4 else
  .ok (.fpBf16 f d a b)

/-- Major 0x43 (R101). -/
def decode43 (w : Nat) : Except Nat Instr :=
  let f := w / 2097152 % 16
  let d := w / 16384 % 128
  let a := w / 128 % 128
  let sb := w % 64
  if ¬ ((f < 15)) then .error 3 else
  if ¬ (w / 64 % 2 = 0 ∧ ((7 ≤ f ∧ f ≤ 12 ∨ f = 14) → sb = 0)) then .error 4 else
  .ok (.fpVs f d a sb)

/-- Major 0x44 (R101). -/
def decode44 (w : Nat) : Except Nat Instr :=
  if w / 2097152 % 16 = 0 then
    let d := w / 16384 % 128
    let a := w / 128 % 128
    if ¬ (w % 128 = 0) then .error 4 else
    .ok (.fex2 d a)
  else
  if w / 2097152 % 16 = 1 then
    let d := w / 16384 % 128
    let a := w / 128 % 128
    if ¬ (w % 128 = 0) then .error 4 else
    .ok (.flg2 d a)
  else
  if w / 2097152 % 16 = 2 then
    let d := w / 16384 % 128
    let a := w / 128 % 128
    if ¬ (w % 128 = 0) then .error 4 else
    .ok (.fsin d a)
  else
  if w / 2097152 % 16 = 3 then
    let d := w / 16384 % 128
    let a := w / 128 % 128
    if ¬ (w % 128 = 0) then .error 4 else
    .ok (.fcos d a)
  else
  if w / 2097152 % 16 = 4 then
    let d := w / 16384 % 128
    let a := w / 128 % 128
    if ¬ (w % 128 = 0) then .error 4 else
    .ok (.ftanh d a)
  else
  .error 3

/-- Major 0x45 (R101). -/
def decode45 (w : Nat) : Except Nat Instr :=
  let d := w / 262144 % 128
  let a := w / 2048 % 128
  let imm := w % 2048
  .ok (.faddImm d a imm)

/-- Major 0x46 (R101). -/
def decode46 (w : Nat) : Except Nat Instr :=
  let d := w / 262144 % 128
  let a := w / 2048 % 128
  let imm := w % 2048
  .ok (.fmulImm d a imm)

/-- Major 0x47 (R101). -/
def decode47 (w : Nat) : Except Nat Instr :=
  let t := w / 4194304 % 8
  let c := w / 262144 % 16
  let p := w / 16384 % 16
  let a := w / 128 % 128
  let b := w % 128
  if ¬ ((t < 3 ∧ c < 8)) then .error 3 else
  .ok (.fcmp t c p a b)

/-- Major 0x48 (R101). -/
def decode48 (w : Nat) : Except Nat Instr :=
  let f := w / 2097152 % 16
  let d := w / 16384 % 128
  let a := w / 128 % 128
  let e := w / 16 % 8
  let src := w % 16
  if ¬ ((f ≠ 7 ∧ src ≠ 7 ∧ f ≠ src ∧ ¬ (8 ≤ f ∧ 8 ≤ src) ∧ e < cvtElements src)) then .error 3 else
  if ¬ ((((f = 10 ∨ f = 11) → d % 2 = 0) ∧ ((src = 10 ∨ src = 11) → a % 2 = 0))) then .error 6 else
  .ok (.cvt f d a e src)

/-- Major 0x49 (R101). -/
def decode49 (w : Nat) : Except Nat Instr :=
  if w / 2097152 % 16 = 0 then
    let d := w / 16384 % 128
    let a := w / 128 % 128
    let b := w % 128
    .ok (.pk2F16 d a b)
  else
  if w / 2097152 % 16 = 1 then
    let d := w / 16384 % 128
    let a := w / 128 % 128
    let b := w % 128
    .ok (.pk2Bf16 d a b)
  else
  if w / 2097152 % 16 = 2 then
    let d := w / 16384 % 128
    let a := w / 128 % 128
    if ¬ (w % 128 = 0) then .error 4 else
    if ¬ ((d % 2 = 0)) then .error 6 else
    .ok (.upk2F16 d a)
  else
  if w / 2097152 % 16 = 3 then
    let d := w / 16384 % 128
    let a := w / 128 % 128
    if ¬ (w % 128 = 0) then .error 4 else
    if ¬ ((d % 2 = 0)) then .error 6 else
    .ok (.upk2Bf16 d a)
  else
  .error 3

/-- Major 0x4A (R101). -/
def decode4A (w : Nat) : Except Nat Instr :=
  if w / 2097152 % 16 = 0 then
    let d := w / 16384 % 128
    let a := w / 128 % 128
    let b := w % 128
    .ok (.hadd2F16 d a b)
  else
  if w / 2097152 % 16 = 1 then
    let d := w / 16384 % 128
    let a := w / 128 % 128
    let b := w % 128
    .ok (.hmul2F16 d a b)
  else
  if w / 2097152 % 16 = 2 then
    let d := w / 16384 % 128
    let a := w / 128 % 128
    let b := w % 128
    .ok (.hfma2F16 d a b)
  else
  if w / 2097152 % 16 = 3 then
    let d := w / 16384 % 128
    let a := w / 128 % 128
    let b := w % 128
    .ok (.hmin2F16 d a b)
  else
  if w / 2097152 % 16 = 4 then
    let d := w / 16384 % 128
    let a := w / 128 % 128
    let b := w % 128
    .ok (.hmax2F16 d a b)
  else
  if w / 2097152 % 16 = 5 then
    let d := w / 16384 % 128
    let a := w / 128 % 128
    let b := w % 128
    .ok (.hadd2Bf16 d a b)
  else
  if w / 2097152 % 16 = 6 then
    let d := w / 16384 % 128
    let a := w / 128 % 128
    let b := w % 128
    .ok (.hmul2Bf16 d a b)
  else
  if w / 2097152 % 16 = 7 then
    let d := w / 16384 % 128
    let a := w / 128 % 128
    let b := w % 128
    .ok (.hfma2Bf16 d a b)
  else
  if w / 2097152 % 16 = 8 then
    let d := w / 16384 % 128
    let a := w / 128 % 128
    let b := w % 128
    .ok (.hmin2Bf16 d a b)
  else
  if w / 2097152 % 16 = 9 then
    let d := w / 16384 % 128
    let a := w / 128 % 128
    let b := w % 128
    .ok (.hmax2Bf16 d a b)
  else
  .error 3

/-- Major 0x4B (R101). -/
def decode4B (w : Nat) : Except Nat Instr :=
  if w / 4194304 % 8 = 0 then
    let t := w / 2097152 % 2
    let d := w / 16384 % 128
    let a := w / 128 % 128
    let b := w % 128
    .ok (.iadd2 t d a b)
  else
  if w / 4194304 % 8 = 1 then
    let t := w / 2097152 % 2
    let d := w / 16384 % 128
    let a := w / 128 % 128
    let b := w % 128
    .ok (.imax2 t d a b)
  else
  if w / 4194304 % 8 = 2 then
    let t := w / 2097152 % 2
    let d := w / 16384 % 128
    let a := w / 128 % 128
    let b := w % 128
    .ok (.imin2 t d a b)
  else
  .error 3

/-- Major 0x58 (R101). -/
def decode58 (w : Nat) : Except Nat Instr :=
  let o := w / 4194304 % 8
  let d := w / 32768 % 128
  let base := w / 512 % 64
  let v := w / 4 % 128
  let c := w % 4
  if ¬ ((o < 7)) then .error 3 else
  if ¬ (((o = 5 → d % 2 = 0) ∧ (o = 6 → d % 4 = 0))) then .error 6 else
  .ok (.ld o d base v c)

/-- Major 0x59 (R101). -/
def decode59 (w : Nat) : Except Nat Instr :=
  let o := w / 4194304 % 8
  let d := w / 32768 % 128
  let base := w / 512 % 64
  let v := w / 4 % 128
  let c := w % 4
  if ¬ ((o = 0 ∨ o = 2 ∨ o = 4 ∨ o = 5 ∨ o = 6)) then .error 3 else
  if ¬ (((o = 5 → d % 2 = 0) ∧ (o = 6 → d % 4 = 0))) then .error 6 else
  .ok (.st o d base v c)

/-- Major 0x5A (R101). -/
def decode5A (w : Nat) : Except Nat Instr :=
  let o := w / 4194304 % 8
  let d := w / 32768 % 64
  let base := w / 512 % 64
  if ¬ ((o < 7)) then .error 3 else
  if ¬ (w % 512 = 0 ∧ w / 2097152 % 2 = 0) then .error 4 else
  if ¬ ((o = 6 → d % 2 = 0)) then .error 6 else
  .ok (.ldu o d base)

/-- Major 0x5B (R101). -/
def decode5B (w : Nat) : Except Nat Instr :=
  if w / 4194304 % 8 = 7 then
    let d := w / 32768 % 128
    let base := w / 512 % 64
    let v := w / 4 % 128
    let c := w % 4
    .ok (.atomCas d base v c)
  else
  -- ATOM
  let o := w / 4194304 % 8
  let d := w / 32768 % 128
  let base := w / 512 % 64
  let v := w / 4 % 128
  let c := w % 4
  if ¬ ((o < 7)) then .error 3 else
  .ok (.atom o d base v c)

/-- Major 0x5C (R101). -/
def decode5C (w : Nat) : Except Nat Instr :=
  if w / 4194304 % 8 = 7 then
    let d := w / 32768 % 128
    let base := w / 512 % 64
    let v := w / 4 % 128
    let c := w % 4
    if ¬ ((d % 2 = 0)) then .error 6 else
    .ok (.atom64Cas d base v c)
  else
  -- ATOM64
  let o := w / 4194304 % 8
  let d := w / 32768 % 128
  let base := w / 512 % 64
  let v := w / 4 % 128
  let c := w % 4
  if ¬ ((o < 7)) then .error 3 else
  if ¬ ((d % 2 = 0)) then .error 6 else
  .ok (.atom64 o d base v c)

/-- Major 0x5D (R101). -/
def decode5D (w : Nat) : Except Nat Instr :=
  let o := w / 4194304 % 8
  let d := w / 32768 % 128
  let base := w / 512 % 64
  let v := w / 4 % 128
  let c := w % 4
  if ¬ ((o < 7)) then .error 3 else
  if ¬ ((o = 6 → d % 2 = 0)) then .error 6 else
  .ok (.red o d base v c)

/-- Major 0x5E (R101). -/
def decode5E (w : Nat) : Except Nat Instr :=
  if w / 4194304 % 8 = 0 then
    let base := w / 512 % 64
    let v := w / 4 % 128
    let c := w % 4
    if ¬ (w / 32768 % 128 = 0) then .error 4 else
    .ok (.pfL1 base v c)
  else
  if w / 4194304 % 8 = 1 then
    let base := w / 512 % 64
    let v := w / 4 % 128
    let c := w % 4
    if ¬ (w / 32768 % 128 = 0) then .error 4 else
    .ok (.pfMc base v c)
  else
  .error 3

/-- Major 0x5F (R101). -/
def decode5F (w : Nat) : Except Nat Instr :=
  if w / 262144 % 128 = 15 then
    let o := w % 262144
    .ok (.chkBeg o)
  else
  .error 3

/-- Major 0x60 (R101). -/
def decode60 (w : Nat) : Except Nat Instr :=
  if w / 262144 % 128 = 0 then
    if ¬ (w % 262144 = 0) then .error 4 else
    .ok (.chkEnd)
  else
  if w / 262144 % 128 = 1 then
    let c := w % 64
    if ¬ (w / 64 % 4096 = 0) then .error 4 else
    .ok (.chkAbt c)
  else
  if w / 262144 % 128 = 2 then
    if ¬ (w % 262144 = 0) then .error 4 else
    .ok (.fenceS)
  else
  if w / 262144 % 128 = 3 then
    if ¬ (w % 262144 = 0) then .error 4 else
    .ok (.fenceX)
  else
  .error 3

/-- Major 0x61 (R101). -/
def decode61 (w : Nat) : Except Nat Instr :=
  if w / 262144 % 128 = 0 then
    let a := w / 64 % 64
    let b := w % 64
    if ¬ (w / 4096 % 64 = 0) then .error 4 else
    .ok (.flr a b)
  else
  if w / 262144 % 128 = 1 then
    let a := w / 64 % 64
    let b := w % 64
    if ¬ (w / 4096 % 64 = 0) then .error 4 else
    .ok (.ivr a b)
  else
  if w / 262144 % 128 = 2 then
    let a := w / 64 % 64
    let b := w % 64
    if ¬ (w / 4096 % 64 = 0) then .error 4 else
    .ok (.drop a b)
  else
  if w / 262144 % 128 = 3 then
    let d := w / 4096 % 64
    let a := w / 64 % 64
    if ¬ (w % 64 = 0) then .error 4 else
    .ok (.scrGrow d a)
  else
  if w / 262144 % 128 = 4 then
    let d := w / 4096 % 64
    let a := w / 64 % 64
    if ¬ (w % 64 = 0) then .error 4 else
    .ok (.scrShrk d a)
  else
  if w / 262144 % 128 = 5 then
    let a := w / 64 % 64
    let b := w % 64
    if ¬ (w / 4096 % 64 = 0) then .error 4 else
    .ok (.scrWait a b)
  else
  if w / 262144 % 128 = 6 then
    let d := w / 4096 % 64
    let a := w / 64 % 64
    if ¬ (w % 64 = 0) then .error 4 else
    .ok (.plp d a)
  else
  .error 3

/-- Major 0x68 (R101). -/
def decode68 (w : Nat) : Except Nat Instr :=
  if w / 2097152 % 16 = 0 then
    let d := w / 16384 % 128
    let a := w / 128 % 128
    let b := w % 128
    .ok (.shfl d a b)
  else
  if w / 2097152 % 16 = 1 then
    let d := w / 16384 % 128
    let a := w / 128 % 128
    let p := w % 16
    if ¬ (w / 16 % 8 = 0) then .error 4 else
    .ok (.lscanAddI32 d a p)
  else
  if w / 2097152 % 16 = 2 then
    let d := w / 16384 % 128
    let a := w / 128 % 128
    let p := w % 16
    if ¬ (w / 16 % 8 = 0) then .error 4 else
    .ok (.lscanAddF32 d a p)
  else
  if w / 2097152 % 16 = 3 then
    let d := w / 16384 % 128
    let a := w / 128 % 128
    let p := w % 16
    if ¬ (w / 16 % 8 = 0) then .error 4 else
    .ok (.lscanMaxI32 d a p)
  else
  if w / 2097152 % 16 = 4 then
    let d := w / 16384 % 128
    let a := w / 128 % 128
    let p := w % 16
    if ¬ (w / 16 % 8 = 0) then .error 4 else
    .ok (.lscanMinI32 d a p)
  else
  if w / 2097152 % 16 = 5 then
    let d := w / 16384 % 128
    let a := w / 128 % 128
    let p := w % 16
    if ¬ (w / 16 % 8 = 0) then .error 4 else
    .ok (.lscanMaxF32 d a p)
  else
  if w / 2097152 % 16 = 6 then
    let d := w / 16384 % 128
    let a := w / 128 % 128
    let p := w % 16
    if ¬ (w / 16 % 8 = 0) then .error 4 else
    .ok (.lscanMinF32 d a p)
  else
  if w / 2097152 % 16 = 7 then
    let d := w / 16384 % 128
    let a := w / 128 % 128
    let p := w % 16
    if ¬ (w / 16 % 8 = 0) then .error 4 else
    .ok (.lredAddI32 d a p)
  else
  if w / 2097152 % 16 = 8 then
    let d := w / 16384 % 128
    let a := w / 128 % 128
    let p := w % 16
    if ¬ (w / 16 % 8 = 0) then .error 4 else
    .ok (.lredAddF32 d a p)
  else
  if w / 2097152 % 16 = 9 then
    let d := w / 16384 % 128
    let a := w / 128 % 128
    let p := w % 16
    if ¬ (w / 16 % 8 = 0) then .error 4 else
    .ok (.lredMaxI32 d a p)
  else
  if w / 2097152 % 16 = 10 then
    let d := w / 16384 % 128
    let a := w / 128 % 128
    let p := w % 16
    if ¬ (w / 16 % 8 = 0) then .error 4 else
    .ok (.lredMinI32 d a p)
  else
  if w / 2097152 % 16 = 11 then
    let d := w / 16384 % 128
    let a := w / 128 % 128
    let p := w % 16
    if ¬ (w / 16 % 8 = 0) then .error 4 else
    .ok (.lredMaxF32 d a p)
  else
  if w / 2097152 % 16 = 12 then
    let d := w / 16384 % 128
    let a := w / 128 % 128
    let p := w % 16
    if ¬ (w / 16 % 8 = 0) then .error 4 else
    .ok (.lredMinF32 d a p)
  else
  .error 3

/-- Major 0x69 (R101). -/
def decode69 (w : Nat) : Except Nat Instr :=
  if w / 2097152 % 16 = 0 then
    let d := w / 16384 % 128
    let a := w / 128 % 128
    let sb := w % 64
    if ¬ (w / 64 % 2 = 0) then .error 4 else
    .ok (.bcst d a sb)
  else
  if w / 2097152 % 16 = 1 then
    let d := w / 16384 % 128
    let a := w / 128 % 128
    let n := w % 64
    if ¬ (w / 64 % 2 = 0) then .error 4 else
    .ok (.bcstImm d a n)
  else
  .error 3

/-- Major 0x6A (R101). -/
def decode6A (w : Nat) : Except Nat Instr :=
  if w / 16777216 % 2 = 0 then
    let f := w / 2097152 % 8
    let d := w / 16384 % 128
    let a := w / 128 % 128
    let b := w % 128
    if ¬ ((f < 6)) then .error 3 else
    .ok (.lxbLo f d a b)
  else
  if w / 16777216 % 2 = 1 then
    let f := w / 2097152 % 8
    let d := w / 16384 % 128
    let a := w / 128 % 128
    let b := w % 128
    if ¬ ((f < 6)) then .error 3 else
    .ok (.lxbHi f d a b)
  else
  .error 3

/-- Major 0x6B (R101). A non-zero cond is a bit in a zero field, detail 4: DESIGN CHOICE (log 104). -/
def decode6B (w : Nat) : Except Nat Instr :=
  if w / 4194304 % 8 = 0 then
    let p := w / 16384 % 16
    let a := w / 128 % 16
    if ¬ (w % 128 = 0 ∧ w / 2048 % 8 = 0 ∧ w / 262144 % 16 = 0) then .error 4 else
    .ok (.voteAny p a)
  else
  if w / 4194304 % 8 = 1 then
    let p := w / 16384 % 16
    let a := w / 128 % 16
    if ¬ (w % 128 = 0 ∧ w / 2048 % 8 = 0 ∧ w / 262144 % 16 = 0) then .error 4 else
    .ok (.voteAll p a)
  else
  if w / 4194304 % 8 = 2 then
    let p := w / 16384 % 16
    let a := w / 128 % 16
    if ¬ (w % 128 = 0 ∧ w / 2048 % 8 = 0 ∧ w / 262144 % 16 = 0) then .error 4 else
    .ok (.voteUni p a)
  else
  .error 3

/-- Major 0x6C (R101). -/
def decode6C (w : Nat) : Except Nat Instr :=
  if w / 262144 % 128 = 0 then
    let b := w % 16
    if ¬ (w / 16 % 16384 = 0) then .error 4 else
    .ok (.barReg b)
  else
  if w / 262144 % 128 = 1 then
    let b := w % 16
    if ¬ (w / 16 % 16384 = 0) then .error 4 else
    .ok (.barArv b)
  else
  if w / 262144 % 128 = 2 then
    let b := w % 16
    if ¬ (w / 16 % 16384 = 0) then .error 4 else
    .ok (.barWt b)
  else
  if w / 262144 % 128 = 3 then
    let b := w % 16
    if ¬ (w / 16 % 16384 = 0) then .error 4 else
    .ok (.barDrp b)
  else
  .error 3

/-- Major 0x6D (R101). -/
def decode6D (w : Nat) : Except Nat Instr :=
  if w / 262144 % 128 = 0 then
    let n := w % 64
    if ¬ (w / 64 % 4096 = 0) then .error 4 else
    .ok (.trap n)
  else
  if w / 262144 % 128 = 1 then
    if ¬ (w % 262144 = 0) then .error 4 else
    .ok (.tret)
  else
  if w / 262144 % 128 = 2 then
    let a := w / 64 % 64
    if ¬ (w % 64 = 0 ∧ w / 4096 % 64 = 0) then .error 4 else
    .ok (.sleep a)
  else
  if w / 262144 % 128 = 3 then
    let d := w / 4096 % 64
    if ¬ (w % 4096 = 0) then .error 4 else
    .ok (.fltq d)
  else
  .error 3

/-- Major 0x70 (R101). -/
def decode70 (w : Nat) : Except Nat Instr :=
  if w / 128 % 2 = 0 then
    let f := w / 2097152 % 16
    let d := w / 262144 % 8
    let a := w / 16384 % 16
    let b := w / 1024 % 16
    let x := w / 512 % 2
    let y := w / 256 % 2
    if ¬ (w % 64 = 0 ∧ (f < 7)) then .error 3 else
    if ¬ (w / 64 % 2 = 0) then .error 4 else
    .ok (.mma f d a b x y)
  else
  if w / 128 % 2 = 1 then
    let d := w / 262144 % 8
    let a := w / 16384 % 16
    let b := w / 1024 % 16
    let x := w / 512 % 2
    let y := w / 256 % 2
    let u := w % 64
    if ¬ (w / 2097152 % 16 = 6) then .error 3 else
    if ¬ (w / 64 % 2 = 0) then .error 4 else
    .ok (.mmas d a b x y u)
  else
  .error 3

/-- Major 0x71 (R101). -/
def decode71 (w : Nat) : Except Nat Instr :=
  if w / 4194304 % 8 = 0 then
    let t := w / 32768 % 16
    let base := w / 512 % 64
    let v := w / 4 % 128
    let c := w % 4
    if ¬ (w / 524288 % 8 = 0) then .error 4 else
    .ok (.tld t base v c)
  else
  .error 3

/-- Major 0x72 (R101). -/
def decode72 (w : Nat) : Except Nat Instr :=
  if w / 4194304 % 8 = 0 then
    let t := w / 32768 % 16
    let base := w / 512 % 64
    let v := w / 4 % 128
    let c := w % 4
    if ¬ (w / 524288 % 8 = 0) then .error 4 else
    .ok (.tst t base v c)
  else
  .error 3

/-- Major 0x73 (R101). -/
def decode73 (w : Nat) : Except Nat Instr :=
  if w / 4194304 % 8 = 0 then
    let a := w / 32768 % 8
    let base := w / 512 % 64
    let v := w / 4 % 128
    let c := w % 4
    if ¬ (w / 262144 % 16 = 0) then .error 4 else
    .ok (.acld a base v c)
  else
  if w / 4194304 % 8 = 1 then
    let a := w / 32768 % 8
    let base := w / 512 % 64
    let v := w / 4 % 128
    let c := w % 4
    if ¬ (w / 262144 % 16 = 0) then .error 4 else
    .ok (.acst a base v c)
  else
  .error 3

/-- Major 0x74 (R101). -/
def decode74 (w : Nat) : Except Nat Instr :=
  if w / 2097152 % 16 = 0 then
    let t := w / 16384 % 16
    let a := w / 128 % 128
    if ¬ (w % 128 = 0 ∧ w / 262144 % 8 = 0) then .error 4 else
    if ¬ ((a % 8 = 0)) then .error 6 else
    .ok (.tmvBf16 t a)
  else
  if w / 2097152 % 16 = 1 then
    let t := w / 16384 % 16
    let a := w / 128 % 128
    if ¬ (w % 128 = 0 ∧ w / 262144 % 8 = 0) then .error 4 else
    if ¬ ((a % 8 = 0)) then .error 6 else
    .ok (.tmvF16 t a)
  else
  if w / 2097152 % 16 = 2 then
    let t := w / 16384 % 16
    let a := w / 128 % 128
    if ¬ (w % 128 = 0 ∧ w / 262144 % 8 = 0) then .error 4 else
    if ¬ ((a % 16 = 0)) then .error 6 else
    .ok (.tmvE4m3 t a)
  else
  if w / 2097152 % 16 = 3 then
    let t := w / 16384 % 16
    let a := w / 128 % 128
    if ¬ (w % 128 = 0 ∧ w / 262144 % 8 = 0) then .error 4 else
    if ¬ ((a % 16 = 0)) then .error 6 else
    .ok (.tmvE5m2 t a)
  else
  if w / 2097152 % 16 = 4 then
    let t := w / 16384 % 16
    let a := w / 128 % 128
    let b := w % 128
    if ¬ (w / 262144 % 8 = 0) then .error 4 else
    if ¬ ((a % 32 = 0)) then .error 6 else
    .ok (.tmvE2m1 t a b)
  else
  if w / 2097152 % 16 = 5 then
    let t := w / 16384 % 16
    let a := w / 128 % 128
    if ¬ (w % 128 = 0 ∧ w / 262144 % 8 = 0) then .error 4 else
    if ¬ ((a % 4 = 0)) then .error 6 else
    .ok (.tmvRaw t a)
  else
  if w / 2097152 % 16 = 6 then
    let d := w / 16384 % 128
    let t := w / 128 % 16
    if ¬ (w % 128 = 0 ∧ w / 2048 % 8 = 0) then .error 4 else
    if ¬ ((d % 4 = 0)) then .error 6 else
    .ok (.tmvToVec d t)
  else
  .error 3

/-- Major 0x75 (R101). -/
def decode75 (w : Nat) : Except Nat Instr :=
  if w / 2097152 % 16 = 0 then
    let d := w / 16384 % 128
    let a := w / 128 % 8
    if ¬ (w % 128 = 0 ∧ w / 1024 % 16 = 0) then .error 4 else
    if ¬ ((d % 16 = 0)) then .error 6 else
    .ok (.acmvToVec d a)
  else
  if w / 2097152 % 16 = 1 then
    let c := w / 16384 % 8
    let a := w / 128 % 128
    if ¬ (w % 128 = 0 ∧ w / 131072 % 16 = 0) then .error 4 else
    if ¬ ((a % 16 = 0)) then .error 6 else
    .ok (.acmvFromVec c a)
  else
  .error 3

/-- Major 0x76 (R101). -/
def decode76 (w : Nat) : Except Nat Instr :=
  if w / 262144 % 128 = 0 then
    let t := w / 4096 % 16
    if ¬ (w % 4096 = 0 ∧ w / 65536 % 4 = 0) then .error 4 else
    .ok (.tzero t)
  else
  if w / 262144 % 128 = 1 then
    let a := w / 4096 % 8
    if ¬ (w % 4096 = 0 ∧ w / 32768 % 8 = 0) then .error 4 else
    .ok (.acz a)
  else
  if w / 262144 % 128 = 2 then
    let a := w / 4096 % 8
    let sb := w / 64 % 64
    if ¬ (w % 64 = 0 ∧ w / 32768 % 8 = 0) then .error 4 else
    .ok (.exph a sb)
  else
  .error 3

/-- Major 0x77 (R101). A non-zero fn is an unassigned code, detail 3: DESIGN CHOICE (log 104). -/
def decode77 (w : Nat) : Except Nat Instr :=
  if w / 2097152 % 16 = 0 then
    let d := w / 16384 % 128
    let a := w / 128 % 128
    let sb := w % 64
    if ¬ (w / 64 % 2 = 0) then .error 4 else
    if ¬ ((d ≤ 125 ∧ sb ≤ 60)) then .error 7 else
    .ok (.adamw d a sb)
  else
  .error 3

/-- Major 0x78 (R101). -/
def decode78 (w : Nat) : Except Nat Instr :=
  if w / 1048576 % 32 = 0 then
    let run := w / 16384 % 64
    let n := w % 2
    if ¬ (w / 2 % 8192 = 0) then .error 4 else
    if ¬ ((run ≤ 60)) then .error 7 else
    .ok (.glzScl run n)
  else
  if w / 1048576 % 32 = 1 then
    let run := w / 16384 % 64
    let n := w % 2
    if ¬ (w / 2 % 8192 = 0) then .error 4 else
    if ¬ ((run ≤ 60)) then .error 7 else
    .ok (.glzOff run n)
  else
  if w / 1048576 % 32 = 2 then
    let run := w / 16384 % 64
    let n := w % 2
    if ¬ (w / 2 % 8192 = 0) then .error 4 else
    if ¬ ((run ≤ 60)) then .error 7 else
    .ok (.glzClp run n)
  else
  if w / 1048576 % 32 = 3 then
    let run := w / 16384 % 64
    let n := w % 2
    if ¬ (w / 2 % 8192 = 0) then .error 4 else
    if ¬ ((run ≤ 60)) then .error 7 else
    .ok (.glzFil run n)
  else
  if w / 1048576 % 32 = 4 then
    let run := w / 16384 % 64
    let n := w % 2
    if ¬ (w / 2 % 8192 = 0) then .error 4 else
    if ¬ ((run ≤ 60)) then .error 7 else
    .ok (.glzPrm run n)
  else
  if w / 1048576 % 32 = 5 then
    let run := w / 16384 % 64
    let n := w % 2
    if ¬ (w / 2 % 8192 = 0) then .error 4 else
    if ¬ ((run ≤ 58)) then .error 7 else
    .ok (.glzMap run n)
  else
  if w / 1048576 % 32 = 6 then
    let run := w / 16384 % 64
    let n := w % 2
    if ¬ (w / 2 % 8192 = 0) then .error 4 else
    if ¬ ((run ≤ 61)) then .error 7 else
    .ok (.glzFire run n)
  else
  if w / 1048576 % 32 = 7 then
    let run := w / 16384 % 64
    let n := w % 2
    if ¬ (w / 2 % 8192 = 0) then .error 4 else
    if ¬ ((run ≤ 60)) then .error 7 else
    .ok (.glzRdh run n)
  else
  .error 3

/-- Major 0x79 (R101). -/
def decode79 (w : Nat) : Except Nat Instr :=
  if w / 1048576 % 32 = 0 then
    let run := w / 16384 % 64
    let n := w % 2
    if ¬ (w / 2 % 8192 = 0) then .error 4 else
    if ¬ ((run ≤ 60)) then .error 7 else
    .ok (.engCpy run n)
  else
  if w / 1048576 % 32 = 1 then
    let run := w / 16384 % 64
    let p := w / 2 % 4
    let n := w % 2
    if ¬ ((p < 3)) then .error 3 else
    if ¬ (w / 8 % 2048 = 0) then .error 4 else
    if ¬ ((run ≤ 56)) then .error 7 else
    .ok (.engGth run p n)
  else
  if w / 1048576 % 32 = 2 then
    let run := w / 16384 % 64
    let p := w / 2 % 4
    let n := w % 2
    if ¬ ((p < 3)) then .error 3 else
    if ¬ (w / 8 % 2048 = 0) then .error 4 else
    if ¬ ((run ≤ 54)) then .error 7 else
    .ok (.engGrd run p n)
  else
  if w / 1048576 % 32 = 3 then
    let run := w / 16384 % 64
    let p := w / 2 % 4
    let n := w % 2
    if ¬ ((p = 0 ∨ p = 2)) then .error 3 else
    if ¬ (w / 8 % 2048 = 0) then .error 4 else
    if ¬ ((run ≤ 57)) then .error 7 else
    .ok (.engSct run p n)
  else
  if w / 1048576 % 32 = 4 then
    let run := w / 16384 % 64
    let f := w / 8 % 4
    let k := w / 2 % 4
    let n := w % 2
    if ¬ ((2 ≤ k → f = 0)) then .error 3 else
    if ¬ (w / 32 % 512 = 0) then .error 4 else
    if ¬ ((run ≤ 60)) then .error 7 else
    .ok (.engCol run f k n)
  else
  if w / 1048576 % 32 = 5 then
    let run := w / 16384 % 64
    let d := w / 256 % 64
    if ¬ (w % 256 = 0) then .error 4 else
    if ¬ ((run ≤ 62)) then .error 7 else
    .ok (.engWt run d)
  else
  if w / 1048576 % 32 = 6 then
    let run := w / 16384 % 64
    let d := w / 256 % 64
    if ¬ (w % 256 = 0) then .error 4 else
    .ok (.engTst run d)
  else
  .error 3

/-- Major 0x7A (R101). -/
def decode7A (w : Nat) : Except Nat Instr :=
  if w / 1048576 % 32 = 0 then
    let run := w / 16384 % 64
    let d := w / 256 % 64
    if ¬ (w % 256 = 0) then .error 4 else
    .ok (.tapePush run d)
  else
  if w / 1048576 % 32 = 1 then
    let run := w / 16384 % 64
    let d := w / 256 % 64
    if ¬ (w % 256 = 0) then .error 4 else
    .ok (.tapeTurn run d)
  else
  if w / 1048576 % 32 = 2 then
    let run := w / 16384 % 64
    let q := w / 256 % 64
    if ¬ (w % 256 = 0) then .error 4 else
    .ok (.lnch run q)
  else
  .error 3

/-- The instruction a word encodes, or the detail of the illegal-instruction trap (R109, order 3): 1 an illegal major, 2 a
reserved major, 3 an unassigned code, 4 a bit set in a zero field, 6 a misaligned pair, quad or run, 7 a run past the last register.
A hint word (major 0x7F) is no instruction; the caller never passes one. -/
def decodeWord (w : Nat) : Except Nat Instr :=
  match w / 33554432 % 128 with
  | 0x00 => .error 1
  | 0x7E => .error 1
  | 0x01 => decode01 w
  | 0x02 => decode02 w
  | 0x03 => decode03 w
  | 0x04 => decode04 w
  | 0x05 => decode05 w
  | 0x06 => decode06 w
  | 0x07 => decode07 w
  | 0x08 => decode08 w
  | 0x09 => decode09 w
  | 0x0A => decode0A w
  | 0x0B => decode0B w
  | 0x0C => decode0C w
  | 0x0D => decode0D w
  | 0x0E => decode0E w
  | 0x0F => decode0F w
  | 0x10 => decode10 w
  | 0x11 => decode11 w
  | 0x12 => decode12 w
  | 0x13 => decode13 w
  | 0x14 => decode14 w
  | 0x20 => decode20 w
  | 0x21 => decode21 w
  | 0x22 => decode22 w
  | 0x23 => decode23 w
  | 0x24 => decode24 w
  | 0x25 => decode25 w
  | 0x26 => decode26 w
  | 0x27 => decode27 w
  | 0x28 => decode28 w
  | 0x29 => decode29 w
  | 0x30 => decode30 w
  | 0x31 => decode31 w
  | 0x32 => decode32 w
  | 0x33 => decode33 w
  | 0x34 => decode34 w
  | 0x35 => decode35 w
  | 0x36 => decode36 w
  | 0x37 => decode37 w
  | 0x38 => decode38 w
  | 0x40 => decode40 w
  | 0x41 => decode41 w
  | 0x42 => decode42 w
  | 0x43 => decode43 w
  | 0x44 => decode44 w
  | 0x45 => decode45 w
  | 0x46 => decode46 w
  | 0x47 => decode47 w
  | 0x48 => decode48 w
  | 0x49 => decode49 w
  | 0x4A => decode4A w
  | 0x4B => decode4B w
  | 0x58 => decode58 w
  | 0x59 => decode59 w
  | 0x5A => decode5A w
  | 0x5B => decode5B w
  | 0x5C => decode5C w
  | 0x5D => decode5D w
  | 0x5E => decode5E w
  | 0x5F => decode5F w
  | 0x60 => decode60 w
  | 0x61 => decode61 w
  | 0x68 => decode68 w
  | 0x69 => decode69 w
  | 0x6A => decode6A w
  | 0x6B => decode6B w
  | 0x6C => decode6C w
  | 0x6D => decode6D w
  | 0x70 => decode70 w
  | 0x71 => decode71 w
  | 0x72 => decode72 w
  | 0x73 => decode73 w
  | 0x74 => decode74 w
  | 0x75 => decode75 w
  | 0x76 => decode76 w
  | 0x77 => decode77 w
  | 0x78 => decode78 w
  | 0x79 => decode79 w
  | 0x7A => decode7A w
  | _ => .error 2

/-! ### Hint words (R97, R98) -/

/-- Whether a word is a hint: major 0x7F. -/
def isHint (w : Nat) : Bool := w / 33554432 % 128 == 0x7F

/-- The kind of a hint word, bits [24:21]. -/
def hintKind (w : Nat) : Nat := w / 2097152 % 16

/-- The payload of a hint word, bits [20:0]. -/
def hintPayload (w : Nat) : Nat := w % 2097152

/-- The lowest detail of order 2 that one hint word meets by itself (R109): 1 a reserved kind, 2 a bit set in a zero field of
its payload, 3 a ROUND with MD = 1 and code 110 or 111. -/
def hintDetail (w : Nat) : Option Nat :=
  let p := hintPayload w
  match hintKind w with
  | 0 => none
  | 1 => if p / 32 = 0 then none else some 2
  | 2 => if p / 32 ≠ 0 then some 2
         else if p / 8 % 2 = 0 then (if p % 8 = 0 then none else some 2)
         else if p % 8 ≥ 6 then some 3 else none
  | 3 => if p / 8 = 0 then none else some 2
  | 4 => if p / 128 = 0 then none else some 2
  | 5 => none
  | _ => some 1

/-- The lower of two details, none standing for no condition. -/
def lowerDetail : Option Nat → Option Nat → Option Nat
  | none, y => y
  | x, none => x
  | some x, some y => some (if x ≤ y then x else y)

/-- Whether two hints of a run are of one kind. -/
def repeatsKind : List Nat → Bool
  | [] => false
  | w :: ws => ws.any (fun x => hintKind x == hintKind w) || repeatsKind ws

/-- The detail of the illegal-hint trap of order 2 for the hint words of a unit, the lowest first (R109): 4 a kind twice,
5 a fourth hint word. -/
def runDetail (ws : List Nat) : Option Nat :=
  let own := (ws.map hintDetail).foldl lowerDetail none
  let twice := if repeatsKind ws then some 4 else none
  let four := if ws.length ≥ 4 then some 5 else none
  lowerDetail own (lowerDetail twice four)

open Machine in
/-- The run with one more hint applied (R97). -/
def addHint (h : Hints) (w : Nat) : Hints :=
  let p := hintPayload w
  match hintKind w with
  | 0 => { h with limm := some p }
  | 1 => { h with guard := some (p / 16 % 2 == 1, p % 16) }
  | 2 => { h with round := some { sat := p / 16 % 2 == 1, md := p / 8 % 2 == 1, mode := p % 8 } }
  | 3 => { h with cache := some (p / 4 % 2 == 1, p % 4) }
  | 4 => { h with opc := some (p % 128) }
  | 5 => { h with offset := some (if p < 1048576 then (p : Int) else (p : Int) - 2097152) }
  | _ => h

open Machine in
/-- The hints of a run, in any order (R98). -/
def readRun (ws : List Nat) : Hints := ws.foldl addHint Hints.empty

/-- A word read from four bytes, little-endian (R94). -/
def wordOfBytes (b0 b1 b2 b3 : Byte) : Nat :=
  b0.toNat + 256 * b1.toNat + 65536 * b2.toNat + 16777216 * b3.toNat

/-- The four bytes of a word, lowest address first (R94). -/
def bytesOfWord (w : Nat) : List Byte :=
  [BitVec.ofNat 8 w, BitVec.ofNat 8 (w / 256), BitVec.ofNat 8 (w / 65536), BitVec.ofNat 8 (w / 16777216)]

open Machine in
/-- What decoding a unit gives: a trap of order 2 or 3 (kind, detail), or the run, the instruction and how many words. -/
inductive Decoded where
  | trap (kind detail : Nat)
  | unit (hints : Hints) (i : Instr) (words : Nat)
  deriving DecidableEq, Repr

/-- Whether a word is a 64-bit `cas`. -/
def isCas64 (w : Nat) : Bool := w / 33554432 == 0x5C && w / 4194304 % 8 == 7

/-- The detail of a word that does not decode under a run: a 64-bit `cas` without its OPC reports that before its register (R109). -/
def wordDetail (hs : List Nat) (w d : Nat) : Nat := if isCas64 w && (readRun hs).opc.isNone && d == 6 then 5 else d

/-- Decoding the words of a unit: its hint words, then its instruction word (none where a fourth hint ended it) (R98, R109). -/
def decodeUnit (hs : List Nat) (w : Option Nat) : Decoded :=
  match runDetail hs, w with
  | some d, _ => .trap 2 d
  | none, none => .trap 2 5
  | none, some w =>
    match decodeWord w with
    | .error d => .trap 3 (wordDetail hs w d)
    | .ok i => .unit (readRun hs) i (hs.length + 1)

/-- The word of an instruction, from the same tables (R94, R101, R102); a step that is no instruction word has none. -/
def encode : Instr → Option Nat
  | .add t d a b => some (0x02000000 + 2097152 * t + 16384 * d + 128 * a + b)
  | .sub t d a b => some (0x02400000 + 2097152 * t + 16384 * d + 128 * a + b)
  | .mul t d a b => some (0x02800000 + 2097152 * t + 16384 * d + 128 * a + b)
  | .mulh t d a b => some (0x02C00000 + 2097152 * t + 16384 * d + 128 * a + b)
  | .min t d a b => some (0x03000000 + 2097152 * t + 16384 * d + 128 * a + b)
  | .max t d a b => some (0x03400000 + 2097152 * t + 16384 * d + 128 * a + b)
  | .addc d a b => some (0x03800000 + 16384 * d + 128 * a + b)
  | .subb d a b => some (0x03A00000 + 16384 * d + 128 * a + b)
  | .abs d a => some (0x03C00000 + 16384 * d + 128 * a)
  | .neg d a => some (0x03E00000 + 16384 * d + 128 * a)
  | .intArith64 f d a b => some (0x04000000 + 2097152 * f + 16384 * d + 128 * a + b)
  | .intArithVs f d a sb => some (0x0C000000 + 2097152 * f + 16384 * d + 128 * a + sb)
  | .intArith64Vs f d a sb => some (0x0E000000 + 2097152 * f + 16384 * d + 128 * a + sb)
  | .and d a b => some (0x06000000 + 16384 * d + 128 * a + b)
  | .or d a b => some (0x06200000 + 16384 * d + 128 * a + b)
  | .xor d a b => some (0x06400000 + 16384 * d + 128 * a + b)
  | .andn d a b => some (0x06600000 + 16384 * d + 128 * a + b)
  | .not d a => some (0x06800000 + 16384 * d + 128 * a)
  | .shl d a b => some (0x06A00000 + 16384 * d + 128 * a + b)
  | .shr d a b => some (0x06C00000 + 16384 * d + 128 * a + b)
  | .sra d a b => some (0x06E00000 + 16384 * d + 128 * a + b)
  | .rol d a b => some (0x07000000 + 16384 * d + 128 * a + b)
  | .popc d a => some (0x07200000 + 16384 * d + 128 * a)
  | .clz d a => some (0x07400000 + 16384 * d + 128 * a)
  | .ctz d a => some (0x07600000 + 16384 * d + 128 * a)
  | .brev d a => some (0x07800000 + 16384 * d + 128 * a)
  | .mov d a => some (0x07A00000 + 16384 * d + 128 * a)
  | .logic64 f d a b => some (0x08000000 + 2097152 * f + 16384 * d + 128 * a + b)
  | .logicVs f d a sb => some (0x10000000 + 2097152 * f + 16384 * d + 128 * a + sb)
  | .logic64Vs f d a sb => some (0x12000000 + 2097152 * f + 16384 * d + 128 * a + sb)
  | .mad d a b => some (0x0A000000 + 16384 * d + 128 * a + b)
  | .bfxN32 d a b => some (0x0A200000 + 16384 * d + 128 * a + b)
  | .bfxI32 d a b => some (0x0A400000 + 16384 * d + 128 * a + b)
  | .bfi d a b => some (0x0A600000 + 16384 * d + 128 * a + b)
  | .lea k d a b => some (0x0A800000 + 2097152 * k + 16384 * d + 128 * a + b)
  | .cvti c d a => some (0x0B000000 + 2097152 * c + 16384 * d + 128 * a)
  | .addImm d a imm => some (0x14000000 + 262144 * d + 2048 * a + imm)
  | .mulImm d a imm => some (0x16000000 + 262144 * d + 2048 * a + imm)
  | .andImm d a imm => some (0x18000000 + 262144 * d + 2048 * a + imm)
  | .orImm d a imm => some (0x1A000000 + 262144 * d + 2048 * a + imm)
  | .xorImm d a imm => some (0x1C000000 + 262144 * d + 2048 * a + imm)
  | .shiftImm d a o c => some (0x1E000000 + 262144 * d + 2048 * a + 256 * o + c)
  | .ldi d imm => some (0x20000000 + 262144 * d + imm)
  | .movk d imm => some (0x22000000 + 262144 * d + imm)
  | .cmp t c p a b => some (0x24000000 + 4194304 * t + 262144 * c + 16384 * p + 128 * a + b)
  | .cmpVs t c p a sb => some (0x26000000 + 4194304 * t + 262144 * c + 16384 * p + 128 * a + sb)
  | .sel n d a b => some (0x28000000 + 2097152 * n + 16384 * d + 128 * a + b)
  | .uniformAlu f d a b => some (0x40000000 + 262144 * f + 4096 * d + 64 * a + b)
  | .cmpU t c p a b => some (0x42000000 + 4194304 * t + 262144 * c + 16384 * p + 128 * a + b)
  | .addImmU d a imm => some (0x44000000 + 524288 * d + 8192 * a + imm)
  | .mulImmU d a imm => some (0x46000000 + 524288 * d + 8192 * a + imm)
  | .andImmU d a imm => some (0x48000000 + 524288 * d + 8192 * a + imm)
  | .orImmU d a imm => some (0x4A000000 + 524288 * d + 8192 * a + imm)
  | .xorImmU d a imm => some (0x4C000000 + 524288 * d + 8192 * a + imm)
  | .shiftImmU d a o c => some (0x4E000000 + 524288 * d + 8192 * a + 1024 * o + c)
  | .ldiU d imm => some (0x50000000 + 524288 * d + imm)
  | .movkU d imm => some (0x52000000 + 524288 * d + imm)
  | .pand d a b => some (0x60000000 + 16384 * d + 128 * a + b)
  | .por d a b => some (0x60400000 + 16384 * d + 128 * a + b)
  | .pxor d a b => some (0x60800000 + 16384 * d + 128 * a + b)
  | .pnot d a => some (0x60C00000 + 16384 * d + 128 * a)
  | .pmovPp d a => some (0x61000000 + 16384 * d + 128 * a)
  | .pcnt d a => some (0x62000000 + 4096 * d + 64 * a)
  | .pfirst d a => some (0x62040000 + 4096 * d + 64 * a)
  | .pmovSp d a => some (0x62080000 + 4096 * d + 64 * a)
  | .pmovPs d a => some (0x620C0000 + 4096 * d + 64 * a)
  | .bra h n p o => some (0x64000000 + 8388608 * h + 4194304 * n + 262144 * p + o)
  | .jmp o => some (0x663C0000 + o)
  | .call o => some (0x683C0000 + o)
  | .rcv o => some (0x6A3C0000 + o)
  | .nop => some (0x6C000000)
  | .join => some (0x6C040000)
  | .ret => some (0x6C080000)
  | .exit => some (0x6C0C0000)
  | .yield => some (0x6C100000)
  | .jmpReg a => some (0x6C140000 + 64 * a)
  | .rdsr d n => some (0x6E000000 + 4096 * d + 64 * n)
  | .wrsr n a => some (0x6E040000 + 4096 * n + 64 * a)
  | .rdsrV d n => some (0x70000000 + 16384 * d + 128 * n)
  | .fadd d a b => some (0x80000000 + 16384 * d + 128 * a + b)
  | .fsub d a b => some (0x80200000 + 16384 * d + 128 * a + b)
  | .fmul d a b => some (0x80400000 + 16384 * d + 128 * a + b)
  | .fma d a b => some (0x80600000 + 16384 * d + 128 * a + b)
  | .fmin d a b => some (0x80800000 + 16384 * d + 128 * a + b)
  | .fmax d a b => some (0x80A00000 + 16384 * d + 128 * a + b)
  | .fdiv d a b => some (0x80C00000 + 16384 * d + 128 * a + b)
  | .fsqrt d a => some (0x80E00000 + 16384 * d + 128 * a)
  | .frcp d a => some (0x81000000 + 16384 * d + 128 * a)
  | .frsq d a => some (0x81200000 + 16384 * d + 128 * a)
  | .frnd d a => some (0x81400000 + 16384 * d + 128 * a)
  | .fabs d a => some (0x81600000 + 16384 * d + 128 * a)
  | .fneg d a => some (0x81800000 + 16384 * d + 128 * a)
  | .fcpsgn d a b => some (0x81A00000 + 16384 * d + 128 * a + b)
  | .fcls d a => some (0x81C00000 + 16384 * d + 128 * a)
  | .fpF16 f d a b => some (0x82000000 + 2097152 * f + 16384 * d + 128 * a + b)
  | .fpBf16 f d a b => some (0x84000000 + 2097152 * f + 16384 * d + 128 * a + b)
  | .fpVs f d a sb => some (0x86000000 + 2097152 * f + 16384 * d + 128 * a + sb)
  | .fex2 d a => some (0x88000000 + 16384 * d + 128 * a)
  | .flg2 d a => some (0x88200000 + 16384 * d + 128 * a)
  | .fsin d a => some (0x88400000 + 16384 * d + 128 * a)
  | .fcos d a => some (0x88600000 + 16384 * d + 128 * a)
  | .ftanh d a => some (0x88800000 + 16384 * d + 128 * a)
  | .faddImm d a imm => some (0x8A000000 + 262144 * d + 2048 * a + imm)
  | .fmulImm d a imm => some (0x8C000000 + 262144 * d + 2048 * a + imm)
  | .fcmp t c p a b => some (0x8E000000 + 4194304 * t + 262144 * c + 16384 * p + 128 * a + b)
  | .cvt f d a e src => some (0x90000000 + 2097152 * f + 16384 * d + 128 * a + 16 * e + src)
  | .pk2F16 d a b => some (0x92000000 + 16384 * d + 128 * a + b)
  | .pk2Bf16 d a b => some (0x92200000 + 16384 * d + 128 * a + b)
  | .upk2F16 d a => some (0x92400000 + 16384 * d + 128 * a)
  | .upk2Bf16 d a => some (0x92600000 + 16384 * d + 128 * a)
  | .hadd2F16 d a b => some (0x94000000 + 16384 * d + 128 * a + b)
  | .hmul2F16 d a b => some (0x94200000 + 16384 * d + 128 * a + b)
  | .hfma2F16 d a b => some (0x94400000 + 16384 * d + 128 * a + b)
  | .hmin2F16 d a b => some (0x94600000 + 16384 * d + 128 * a + b)
  | .hmax2F16 d a b => some (0x94800000 + 16384 * d + 128 * a + b)
  | .hadd2Bf16 d a b => some (0x94A00000 + 16384 * d + 128 * a + b)
  | .hmul2Bf16 d a b => some (0x94C00000 + 16384 * d + 128 * a + b)
  | .hfma2Bf16 d a b => some (0x94E00000 + 16384 * d + 128 * a + b)
  | .hmin2Bf16 d a b => some (0x95000000 + 16384 * d + 128 * a + b)
  | .hmax2Bf16 d a b => some (0x95200000 + 16384 * d + 128 * a + b)
  | .iadd2 t d a b => some (0x96000000 + 2097152 * t + 16384 * d + 128 * a + b)
  | .imax2 t d a b => some (0x96400000 + 2097152 * t + 16384 * d + 128 * a + b)
  | .imin2 t d a b => some (0x96800000 + 2097152 * t + 16384 * d + 128 * a + b)
  | .ld o d base v c => some (0xB0000000 + 4194304 * o + 32768 * d + 512 * base + 4 * v + c)
  | .st o d base v c => some (0xB2000000 + 4194304 * o + 32768 * d + 512 * base + 4 * v + c)
  | .ldu o d base => some (0xB4000000 + 4194304 * o + 32768 * d + 512 * base)
  | .atom o d base v c => some (0xB6000000 + 4194304 * o + 32768 * d + 512 * base + 4 * v + c)
  | .atomCas d base v c => some (0xB7C00000 + 32768 * d + 512 * base + 4 * v + c)
  | .atom64 o d base v c => some (0xB8000000 + 4194304 * o + 32768 * d + 512 * base + 4 * v + c)
  | .atom64Cas d base v c => some (0xB9C00000 + 32768 * d + 512 * base + 4 * v + c)
  | .red o d base v c => some (0xBA000000 + 4194304 * o + 32768 * d + 512 * base + 4 * v + c)
  | .pfL1 base v c => some (0xBC000000 + 512 * base + 4 * v + c)
  | .pfMc base v c => some (0xBC400000 + 512 * base + 4 * v + c)
  | .chkBeg o => some (0xBE3C0000 + o)
  | .chkEnd => some (0xC0000000)
  | .chkAbt c => some (0xC0040000 + c)
  | .fenceS => some (0xC0080000)
  | .fenceX => some (0xC00C0000)
  | .flr a b => some (0xC2000000 + 64 * a + b)
  | .ivr a b => some (0xC2040000 + 64 * a + b)
  | .drop a b => some (0xC2080000 + 64 * a + b)
  | .scrGrow d a => some (0xC20C0000 + 4096 * d + 64 * a)
  | .scrShrk d a => some (0xC2100000 + 4096 * d + 64 * a)
  | .scrWait a b => some (0xC2140000 + 64 * a + b)
  | .plp d a => some (0xC2180000 + 4096 * d + 64 * a)
  | .shfl d a b => some (0xD0000000 + 16384 * d + 128 * a + b)
  | .lscanAddI32 d a p => some (0xD0200000 + 16384 * d + 128 * a + p)
  | .lscanAddF32 d a p => some (0xD0400000 + 16384 * d + 128 * a + p)
  | .lscanMaxI32 d a p => some (0xD0600000 + 16384 * d + 128 * a + p)
  | .lscanMinI32 d a p => some (0xD0800000 + 16384 * d + 128 * a + p)
  | .lscanMaxF32 d a p => some (0xD0A00000 + 16384 * d + 128 * a + p)
  | .lscanMinF32 d a p => some (0xD0C00000 + 16384 * d + 128 * a + p)
  | .lredAddI32 d a p => some (0xD0E00000 + 16384 * d + 128 * a + p)
  | .lredAddF32 d a p => some (0xD1000000 + 16384 * d + 128 * a + p)
  | .lredMaxI32 d a p => some (0xD1200000 + 16384 * d + 128 * a + p)
  | .lredMinI32 d a p => some (0xD1400000 + 16384 * d + 128 * a + p)
  | .lredMaxF32 d a p => some (0xD1600000 + 16384 * d + 128 * a + p)
  | .lredMinF32 d a p => some (0xD1800000 + 16384 * d + 128 * a + p)
  | .bcst d a sb => some (0xD2000000 + 16384 * d + 128 * a + sb)
  | .bcstImm d a n => some (0xD2200000 + 16384 * d + 128 * a + n)
  | .lxbLo f d a b => some (0xD4000000 + 2097152 * f + 16384 * d + 128 * a + b)
  | .lxbHi f d a b => some (0xD5000000 + 2097152 * f + 16384 * d + 128 * a + b)
  | .voteAny p a => some (0xD6000000 + 16384 * p + 128 * a)
  | .voteAll p a => some (0xD6400000 + 16384 * p + 128 * a)
  | .voteUni p a => some (0xD6800000 + 16384 * p + 128 * a)
  | .barReg b => some (0xD8000000 + b)
  | .barArv b => some (0xD8040000 + b)
  | .barWt b => some (0xD8080000 + b)
  | .barDrp b => some (0xD80C0000 + b)
  | .trap n => some (0xDA000000 + n)
  | .tret => some (0xDA040000)
  | .sleep a => some (0xDA080000 + 64 * a)
  | .fltq d => some (0xDA0C0000 + 4096 * d)
  | .mma f d a b x y => some (0xE0000000 + 2097152 * f + 262144 * d + 16384 * a + 1024 * b + 512 * x + 256 * y)
  | .mmas d a b x y u => some (0xE0C00080 + 262144 * d + 16384 * a + 1024 * b + 512 * x + 256 * y + u)
  | .tld t base v c => some (0xE2000000 + 32768 * t + 512 * base + 4 * v + c)
  | .tst t base v c => some (0xE4000000 + 32768 * t + 512 * base + 4 * v + c)
  | .acld a base v c => some (0xE6000000 + 32768 * a + 512 * base + 4 * v + c)
  | .acst a base v c => some (0xE6400000 + 32768 * a + 512 * base + 4 * v + c)
  | .tmvBf16 t a => some (0xE8000000 + 16384 * t + 128 * a)
  | .tmvF16 t a => some (0xE8200000 + 16384 * t + 128 * a)
  | .tmvE4m3 t a => some (0xE8400000 + 16384 * t + 128 * a)
  | .tmvE5m2 t a => some (0xE8600000 + 16384 * t + 128 * a)
  | .tmvE2m1 t a b => some (0xE8800000 + 16384 * t + 128 * a + b)
  | .tmvRaw t a => some (0xE8A00000 + 16384 * t + 128 * a)
  | .tmvToVec d t => some (0xE8C00000 + 16384 * d + 128 * t)
  | .acmvToVec d a => some (0xEA000000 + 16384 * d + 128 * a)
  | .acmvFromVec c a => some (0xEA200000 + 16384 * c + 128 * a)
  | .tzero t => some (0xEC000000 + 4096 * t)
  | .acz a => some (0xEC040000 + 4096 * a)
  | .exph a sb => some (0xEC080000 + 4096 * a + 64 * sb)
  | .adamw d a sb => some (0xEE000000 + 16384 * d + 128 * a + sb)
  | .glzScl run n => some (0xF0000000 + 16384 * run + n)
  | .glzOff run n => some (0xF0100000 + 16384 * run + n)
  | .glzClp run n => some (0xF0200000 + 16384 * run + n)
  | .glzFil run n => some (0xF0300000 + 16384 * run + n)
  | .glzPrm run n => some (0xF0400000 + 16384 * run + n)
  | .glzMap run n => some (0xF0500000 + 16384 * run + n)
  | .glzFire run n => some (0xF0600000 + 16384 * run + n)
  | .glzRdh run n => some (0xF0700000 + 16384 * run + n)
  | .engCpy run n => some (0xF2000000 + 16384 * run + n)
  | .engGth run p n => some (0xF2100000 + 16384 * run + 2 * p + n)
  | .engGrd run p n => some (0xF2200000 + 16384 * run + 2 * p + n)
  | .engSct run p n => some (0xF2300000 + 16384 * run + 2 * p + n)
  | .engCol run f k n => some (0xF2400000 + 16384 * run + 8 * f + 2 * k + n)
  | .engWt run d => some (0xF2500000 + 16384 * run + 256 * d)
  | .engTst run d => some (0xF2600000 + 16384 * run + 256 * d)
  | .tapePush run d => some (0xF4000000 + 16384 * run + 256 * d)
  | .tapeTurn run d => some (0xF4100000 + 16384 * run + 256 * d)
  | .lnch run q => some (0xF4200000 + 16384 * run + 256 * q)
  | .illegalInstruction _ _ _ => none
  | .chunkLimitReached _ => none
  | .ageCap _ => none
  | .instructionComplete _ => none
  | .fillReturn _ => none
  | .commitPrepare _ => none
  | .commitRequest _ => none
  | .orderTokenVisit => none
  | .homeApplyCommit _ => none
  | .broadcastApply _ => none
  | .soloGrant _ => none
  | .streamAck _ _ => none
  | .sleepExpiry _ => none
  | .barrierOperation _ => none
  | .commandHandoff _ => none
  | .lnchAppend _ => none
  | .sectorLand _ => none
  | .engineChunkCommit _ => none
  | .engineFail _ _ => none
  | .engWtReturn _ => none
  | .scrGrowComplete _ => none
  | .placeWorkgroup => none
  | .resumeWorkgroup _ => none
  | .preempt _ => none
  | .timeSlice => none
  | .workgroupExit _ => none
  | .workgroupKill _ => none
  | .launchComplete _ => none
  | .tapePop _ => none
  | .homeFillRequest _ => none
  | .walkRestart _ => none
  | .homePrepare _ _ => none
  | .pageFetchComplete _ => none
  | .backingTimeout _ => none
  | .pageWaitTimeout _ => none
  | .frameMove _ _ _ _ => none
  | .residueMismatch _ => none
  | .eccError _ _ _ => none
  | .coreRepair _ => none
  | .bankRetire _ _ => none
  | .portFailure _ => none
  | .portRelinked _ _ => none
  | .bolhornUpdateDone => none
  | .powerAdjust _ => none
  | .moduleReset => none
  | .bringStageDone _ => none
  | .unsupportedPacket _ => none
  | .openMsg _ => none
  | .closeMsg _ => none
  | .dataMsg _ => none
  | .ctxCreate _ => none
  | .ctxDestroy _ => none
  | .launch _ => none
  | .cancel _ => none
  | .tokenRead _ => none
  | .tokenSet _ => none
  | .tokenSignal _ => none
  | .memWrite _ => none
  | .memWriteCommit _ => none
  | .memRead _ => none
  | .plotSet _ => none
  | .pageMap _ => none
  | .pageMakeResident _ => none
  | .pageEvict _ => none
  | .pageUnmap _ => none
  | .tapeTurnCmd _ => none
  | .groupCfg _ => none
  | .journalRead _ => none
  | .statusMsg _ => none
  | .miremReservedOp _ => none
  | .collectiveStagedReport _ _ => none
  | .collectiveFinish _ => none
  | .collectiveTimeout _ => none
  | .pwrcap _ => none
  | .gate _ => none
  | .key _ => none
  | .hdrres _ => none
  | .update _ => none
  | .bsrc _ => none
  | .mgmtRegWriteOther _ => none
  | .flrWriteBackDone _ => none
  | .plotMigrationMove _ _ _ => none
  | .backingNoSuchPage _ => none
  | .collectiveReceipt _ _ _ _ _ _ => none
  | .gateTransitionEnd _ => none

/-- The instruction the decoder reads from `nbits` bits `w`: every word of this hardware has 32 bits and lies little-endian in
memory, so the word's four bytes are laid out, read back and decoded. A hint word is no instruction. -/
def decodeTableWord (nbits w : Nat) : Option Instr :=
  let w := w % 2 ^ nbits
  match bytesOfWord w with
  | [b0, b1, b2, b3] =>
    let x := wordOfBytes b0 b1 b2 b3
    if isHint x then none
    else match decodeWord x with
      | .ok i => some i
      | .error _ => none
  | _ => none

end Sys2Proof
end

