-- ==== Sys2Proof/Machine/Fetch.lean ====
section
/-!
DEFINITION. What a step does next: events enabled, then a unit of a ready drill (R237), fetched word by word (R98, R100, R319);
and the state in which a word stands where the next unit is fetched.
-/

namespace Sys2Proof.Machine

open Sys2Proof

/-! ### Fetching (R98, R100, R319) -/

/-- What fetching comes to. -/
inductive Fetched where
  /-- the unit: its hints, its instruction, its words -/
  | unit (s : State) (h : Hints) (i : Instr) (words : Nat)
  /-- a trap of fetching or decoding, after so many words -/
  | trap (s : State) (kind detail addr words : Nat)
  /-- the drill waits -/
  | wait (s : State) (w : Wait)
  /-- a fatal walk: the context dies (R313) -/
  | dies (x : Death)

/-- What fetching one word comes to: the word, or one of the other outcomes. -/
inductive FetchedWord where
  | word (s : State) (w : Nat)
  | stop (f : Nat → Fetched)

/-- Four bytes as a word. -/
def wordAt (f : Nat → Byte) : Nat := wordOfBytes (f 0) (f 1) (f 2) (f 3)

/-- A word of a valid, executable plot, as committed memory holds it (R100, R173); a tracked line the core holds clean is used, any other fill
asks the home. `w` attributes the fetch. -/
def State.fetchFrom (s : State) (w : Attr) (core asid va : Nat) (x : DWord) : FetchedWord :=
  let key := keyOf asid va
  let base := va / grainSize x * grainSize x
  let a := locate x key base
  let word := wordAt (fun j => s.seen x (locate x key (va + j)))
  if descTreat x = 0 && !s.pendingAt a (grainSize x) && !s.deferredAt a (grainSize x) && s.holdsClean core key va then
    .word (s.setCore core ((s.core core).useLines key false ((fillLines x base).map (fun f => f.1)) (descPrio x))) word
  else match s.homeReady w asid a (grainSize x) with
    | .stop (.wait s w) => .stop (fun _ => .wait s w)
    | .stop (.dies y) => .stop (fun _ => .dies y)
    | .stop _ => .stop (fun _ => .wait s .order)
    | .ok =>
      if s.dataError x (locate x key va) 4 then .stop (fun n => .trap s 1 4 va n)
      else
        let s := s.touch a (grainSize x) (descPrio x)
        .word (if descTreat x = 2 then s else s.install core x key base (descPrio x)) word

/-- The word a drill executes of one it fetches: the committed one, or, until a `fence.x`, one it has fetched there before or that stood there
before a store. Which of two that differ is a free value (R100; log 3). -/
def State.heldWord (s : State) (d : Drill) (va w : Nat) : Nat :=
  match Map.find d.fetched va with
  | some x => if x.toNat ≠ w ∧ Config.holdsOldWord s.tick va = true then x.toNat else w
  | none => w

/-- The attribution of a drill's fetch (R357). -/
def fetchAttr (k : Nat) (d : Drill) : Attr :=
  { off := 0, pc := d.regs.pc, who := whoOf k, kind := 1, token := 0, launch := d.launch }

/-- One word of a drill's unit, with the checks of R319. -/
def State.fetchWord (s : State) (k : Nat) (d : Drill) (va : Nat) : FetchedWord :=
  let core := coreOf k
  match s.plotFor core d.asid va with
  | .page p =>
    let r := s.nodeWait p
    .stop (fun _ => .wait r.1 r.2)
  | .fatal p level => .stop (fun _ => .dies { asid := d.asid, kind := 4, detail := level, page := p, attr := fetchAttr k d, csn := 0 })
  | .bad => .stop (fun n => .trap s 9 1 va n)
  | .desc x =>
    let s := s.cachePlot core d.asid va x
    if !descValid x then .stop (fun n => .trap s 1 1 va n)
    else if !descX x then .stop (fun n => .trap s 1 2 va n)
    else if descS x && !s.supOf d.asid then .stop (fun n => .trap s 1 3 va n)
    else if descM x then .stop (fun _ => .wait s .migrating)
    else match s.fetchFrom (fetchAttr k d) core d.asid va x with
      | .word s w =>
        let w := s.heldWord d va w
        .word (s.updDrill k (fun d => { d with fetched := Map.set d.fetched va (BitVec.ofNat 32 w) })) w
      | r => r

/-- The words of a unit: `n` more may be fetched, `hs` are the hint words before. A fourth hint word ends it (R98). -/
def fetchUnit (k : Nat) (d : Drill) : Nat → State → Nat → List Nat → Fetched
  | 0, s, _, hs =>
    match decodeUnit hs none with
    | .trap kind detail => .trap s kind detail 0 hs.length
    | .unit h i n => .unit s h i n
  | n + 1, s, va, hs =>
    match s.fetchWord k d va with
    | .stop f => f (hs.length + 1)
    | .word s w =>
      if isHint w then fetchUnit k d n s ((va + 4) % 2 ^ 48) (hs ++ [w])
      else match decodeUnit hs (some w) with
        | .trap kind detail => .trap s kind detail 0 (hs.length + 1)
        | .unit h i n => .unit s h i n

/-- The unit at a drill's PC. -/
def State.fetch (s : State) (k : Nat) (d : Drill) : Fetched := fetchUnit k d 4 s d.regs.pc.toNat []

/-! ### The ready drill that issues (R237) -/

/-- Whether an ended chunk lets its drill issue: its request is sent, and no operation follows its stamp (R197, R245). -/
def Older.letsIssue (o : Older) : Bool := o.phase == .requested && o.chunk.after.isNone

/-- Whether a drill is ready. -/
def State.ready (s : State) (k : Nat) (d : Drill) : Bool :=
  d.wait == .none && d.chunk.after.isNone
    && (match d.older with | some o => o.letsIssue | none => true)
    && !(d.chunk.sq == 4 && !d.chunk.solo)
    && (match Map.find s.wgs d.wg with | some w => w.state == .resident | none => false)
    && (match Map.find s.ctxs d.asid with | some c => !c.dead | none => false)
    && (s.core (coreOf k)).repair != 2

/-- A partition among all, in order of cores. -/
def partKey (k : Nat) : Nat := coreOf k * 4 + partOf k

/-- Partitions of the device. -/
def partitions : Nat := 4 * Config.cores

/-- Of two drills the one placed or resumed earlier, the lower slot on a tie. -/
def olderOf (a b : Nat × Drill) : Nat × Drill := if b.2.order < a.2.order then b else a

/-- Of two drills the one that has waited longer, the first of them on a tie. -/
def longerOf (a b : Nat × Drill) : Nat × Drill := if a.2.waited < b.2.waited then b else a

/-- The first of a list by a choice between two. -/
def bestOf (f : Nat × Drill → Nat × Drill → Nat × Drill) : List (Nat × Drill) → Option Nat
  | [] => none
  | c :: cs => some (cs.foldl f c).1

/-- The choice of a partition among its ready drills, in slot order: of those at the age cap the one that has waited longest; else the one
that issued last; else the oldest. One that has yielded is passed over for the others (R131, R237). -/
def State.chooseIn (s : State) (l : List (Nat × Drill)) : Option Nat :=
  let greedy := l.find? (fun x => Map.find (s.core (coreOf x.1)).last (partOf x.1) == some x.1 && !x.2.yielded)
  match bestOf longerOf (l.filter (fun x => x.2.aged)), greedy, bestOf olderOf (l.filter (fun x => !x.2.yielded)) with
  | some k, _, _ => some k
  | none, some x, _ => some x.1
  | none, none, some k => some k
  | none, none, none => bestOf olderOf l

/-- How far a partition lies from the one whose turn it is. -/
def State.turnsTo (s : State) (part : Nat) : Nat := (part + partitions - s.turn % partitions) % partitions

/-- The partition with a ready drill that comes first from the turn on. DESIGN CHOICE (log 1): partitions issue one after another. -/
def State.partToIssue (s : State) : List (Nat × Drill) → Option Nat
  | [] => none
  | c :: cs => some (cs.foldl (fun p x => if s.turnsTo (partKey x.1) < s.turnsTo p then partKey x.1 else p) (partKey c.1))

/-- The drill that issues next. -/
def State.pick (s : State) : Option Nat :=
  let ready := s.drills.filter (fun c => s.ready c.1 c.2)
  match s.partToIssue ready with
  | none => none
  | some p => s.chooseIn (ready.filter (fun c => partKey c.1 == p))

/-! ### The next turn -/

/-- What a step does: one instruction or event carried out by `exec` from a state, or a state reached without one. -/
inductive Turn where
  | run (i : Instr) (s : State)
  | over (s : State)

/-- Time passes (log 2). -/
def State.pass (s : State) : State := { s with tick := s.tick + 1, clock := s.clock + Config.elapsed s.tick }

/-- A drill whose sleep is over (R193). -/
def State.dueSleeper (s : State) : Option Nat :=
  (s.drills.find? (fun c => match c.2.wait with | .sleep ns => decide (ns ≤ s.time) | _ => false)).map (fun c => c.1)

/-- The drill in slot k fetches its unit; where its explicit chunk has issued as many units as it may, the next would be one too many (R239). -/
def State.issueFrom (s : State) (k : Nat) (d : Drill) : Turn :=
  let unit := fun (h : Hints) (n : Nat) => ({ hints := h, first := d.regs.pc, words := n } : UnitCtx)
  if d.chunk.expl.isSome && decide (d.chunk.units ≥ d.chunk.limit) then .run (.chunkLimitReached k) s
  else match s.fetch k d with
  | .unit s h i n => .run i { s with cur := k, unit := unit h n }
  | .trap s kind detail addr n => .run (.illegalInstruction kind detail addr) { s with cur := k, unit := unit Hints.empty n }
  | .wait s w => .over (s.updDrill k (fun d => { d with wait := w }))
  | .dies x => .over (s.die x)

/-- Of `e` clocks from clock `c` on, those in which a partition may issue at share N: N of every 16, spread evenly (R378). DESIGN CHOICE
(log 29): which of 16 they are. -/
def issueClocks (share c e : Nat) : Nat := (c + e) * share / 16 - c * share / 16

/-- The other ready drills of the partition of slot k have waited for those of the `e` clocks this step takes in which it may issue; those that
come to the age cap are announced (R237, R378). -/
def State.waitOthers (s : State) (k e : Nat) : State :=
  let clocks := issueClocks s.mgmt.share (s.clock - e) e
  let held := fun (c : Nat × Drill) => c.1 != k && partKey c.1 == partKey k && s.ready c.1 c.2
  let capped := s.drills.filter (fun c => held c && !c.2.aged && decide (c.2.waited + clocks ≥ Config.ageCap))
  { s with drills := s.drills.map (fun (c : Nat × Drill) => if held c then (c.1, { c.2 with waited := c.2.waited + clocks }) else c)
           agenda := s.agenda ++ capped.map (fun c => Instr.ageCap c.1) }

/-- A ready drill's unit, where there is one. The step's clocks are those of `State.pass`, whose counter has moved on. -/
def State.issueTurn (s : State) : Turn :=
  match s.pick with
  | none => .over s
  | some k =>
    match Map.find s.drills k with
    | none => .over s
    | some d => ({ s.waitOthers k (Config.elapsed (s.tick - 1)) with turn := partKey k + 1 } : State).issueFrom k d

/-- An event enabled comes first; then a command of the host to be tried again; then a sleeper whose time has come; then a unit. -/
def State.nextTurn (s : State) : Turn :=
  let s := s.pass
  match s.agenda with
  | i :: rest => .run i { s with agenda := rest }
  | [] =>
    match s.retry with
    | n :: rest => .over ({ s with retry := rest }.tryCommand n)
    | [] =>
      match s.dueSleeper with
      | some k => .run (.sleepExpiry k) s
      | none => s.issueTurn

/-! ### A word where the next unit is fetched -/

/-- Where the words are placed: a plot of key 1. -/
def codeBase : Nat := 0x400000

/-- The descriptor of that plot: valid, readable, writable, executable, tracked, grains of 32 bytes, home 0 (R307). -/
def codeDesc : DWord := 0xF

/-- Bytes stored from an address on. -/
def putAll (m : Memory) (a : Nat) : List Byte → Memory
  | [] => m
  | b :: bs => putAll (Memory.put m a b) (a + 1) bs

/-- First bytes of the root, middle and leaf node of the plot table; its nodes lie in one page of the shared window (R306). -/
def rootNode : Nat := 0xF00000000000
def middleNode : Nat := 0xF00000004000
def leafNode : Nat := 0xF00000008000

/-- The plot table of the code's plot, in the memory of home 0. -/
def tableBytes (m : Memory) : Memory :=
  let at0 := fun (va : Nat) => addrCode 0 0 0 va
  putAll (putAll (putAll m (at0 rootNode) (toBytes 8 (middleNode + 1))) (at0 middleNode) (toBytes 8 (leafNode + 1)))
    (at0 (leafNode + 8 * (codeBase / 65536))) (toBytes 8 codeDesc.toNat)

/-- The launch record of the one drill placed: every register it can have. -/
def oneRecord : LaunchRec :=
  { entry := codeBase, drills := 1, nosig := true, vregs := 128, args := 0, tiles := 16, accs := 8, cooperative := false, placemap := false
    turn := false, conc := false, nx := 1, ny := 1, nz := 1, scratch := 0, barriers := 0, nwait := 0, signal := 0, waits := []
    reservedSet := false }

/-- The launch it belongs to. -/
def oneLaunch : Launch :=
  { asid := 1, queue := 0, record := oneRecord, map := none, mapAt := 0, turnOf := none, next := 1, ended := 0, eligible := true
    started := true, failed := none }

/-- Its context: a supervisor context, whose plot table is that of the code. -/
def oneContext : Context :=
  { sup := true, policy := 0, qexist := 1, qpri := 0, queues := [], lastQueue := [], tape := [], replay := none, replayWait := none
    tokens := [], mask := 1, root := rootNode, rootHome := 0, privBase := 0, privLen := 0, poolBase := 0, poolLen := 0, pointer := 0
    faultq := 0, faultCount := 0, dead := false, cause := 0, waiting := 0 }

/-- Its workgroup. -/
def oneWorkgroup : Workgroup :=
  { launch := 1, asid := 1, index := 0, core := 0, state := .resident, slots := [(0, 0)], ndrills := 1, privs := [0], nbar := 0
    barriers := [], size := 0, base := 0, scratch := [], sectors := [], nextSeq := 0, preempts := 0, area := 0, areaLen := 0, kept := []
    since := 0, waitsFor := none, spoiled := false }

/-- The state with one drill alone, in slot 0 of core 0, whose PC is at words placed in mapped memory. -/
def State.loaded (s : State) (ws : List Nat) : State :=
  let s := { s with
    agenda := [], retry := [], commits := [], requests := [], solos := [], turn := 0
    drills := [(0, Drill.placed oneRecord 0 0 1 1 0 0)], wgs := [(0, oneWorkgroup)], launches := [(1, oneLaunch)], ctxs := [(1, oneContext)]
    cores := [], homes := [], pt := [], owners := [], headers := [], newer := [], bad := [], bulk := [], nextId := max s.nextId 1 }
  let s := (s.mapPage { a := addrCode 0 0 0 rootNode, large := false } (some 0) 0).mapPage { a := addrCode 0 0 1 codeBase, large := false }
    (some 1) 0
  { s with bulk := putAll (tableBytes s.bulk) (addrCode 0 0 1 codeBase) (ws.flatMap bytesOfWord) }

/-- The words in which a table word stands: the instruction decoded from it may need an OPC hint before it (R108). -/
def wordsFor (w : Nat) : List Nat :=
  match decodeWord w with
  | .ok i => if illegalDetail i Hints.empty = some 5 then [0xFE800000, w] else [w]
  | .error _ => [w]

end Sys2Proof.Machine
end

