-- ==== Sys2Proof/Machine/Step.lean ====
section
/-!
DEFINITION. The step of the machine, and a state in which a given word is the next one fetched.
-/

namespace Sys2Proof.Machine

open Sys2Proof

/-- One step: what `State.nextTurn` finds to be next, carried out. -/
def step (s : State) : Host.Outcome State Fault Refusal :=
  match s.nextTurn with
  | .run i t => exec i t
  | .over t => .next t

/-- The state with an instruction word where the next unit is fetched. Every instruction word has 32 bits. -/
def State.withFetchWord (s : State) (nbits w : Nat) : State := s.loaded (wordsFor (w % 2 ^ nbits))

end Sys2Proof.Machine
end

