-- ==== Sys2Proof/Safety.lean ====
section
/-!
DEFINITION. What counts as a safe run, and the terms claims use: a unit that executes, the room it needs, what it leaves as it was,
and the forms of memory every step keeps.
-/

namespace Sys2Proof.Machine

open Sys2Proof

/-! ### Safe runs -/

/-- A step that ends in a next state. -/
def Goes (s : State) : Prop := ∃ t, step s = .next t

/-- A run of any length that never stops: what a safe run is on a device that only powering off ends. -/
def SafeRun (s : State) : Prop := ∀ n, ∃ t, Host.Core.run Sys2Proof.core n s = .next t

/-! ### A unit that executes -/

/-- The drill of the current slot is d, and its unit i passes the checks of R109. -/
structure Executes (s : State) (d : Drill) (i : Instr) : Prop where
  here : Map.find s.drills s.cur = some d
  passes : unitTrap i s.unit.hints d (s.supOf d.asid) = none

/-- Room for a unit that notes at most n bytes in the checkpoint log and adds no speculative line (R34, R239, R268, R325). -/
structure HasRoom (s : State) (d : Drill) (n : Nat) : Prop where
  log : d.logHeld + s.logOthers s.cur + n ≤ Config.logBytes
  lines : d.chunk.lines.length ≤ Config.specLines
  ways : s.noVictim s.cur d = false
  heads : s.glazeFull s.cur d = false
  sigs : d.chunk.expl.isSome ∨ (d.chunk.rsig.full = false ∧ d.chunk.wsig.full = false)

/-- A drill but for the mark of its `yield`, which another drill's issue ends (R131). -/
def Drill.settled (d : Drill) : Drill := { d with yielded := false }

/-- What a unit that changes no memory leaves as it was: every field of the device but the drill, the choice of its partition and
the event of an implicit chunk at its limit (R239); every other drill; of its own drill all but registers, log, count of units, wait and marks; every
byte of every home. -/
structure UnitStep (s t : State) (d d' : Drill) : Prop where
  drill : Map.find t.drills s.cur = some d'
  own : d' = { d with regs := d'.regs, wait := d'.wait, waited := 0, yielded := d'.yielded
                      chunk := { d.chunk with units := d.chunk.units + 1, logged := d'.chunk.logged } }
  others : ∀ k, k ≠ s.cur → (Map.find t.drills k).map Drill.settled = (Map.find s.drills k).map Drill.settled
  cores : ∀ c, t.core c = { s.core c with last := (t.core c).last }
  agenda : t.agenda = s.agenda ++ (if d.chunk.units + 1 ≥ d.chunk.limit ∧ d.chunk.expl = none then [.chunkLimitReached s.cur] else [])
  rest : t = { s with drills := t.drills, cores := t.cores, agenda := t.agenda }
  memory : ∀ a, t.byteAt a = s.byteAt a

/-- The registers r' are those of r but for what is named: the PC, each element of each vector register, each uniform register and
predicate, the flags, the seed. -/
structure RegsAre (r r' : Regs) (pc : DWord) (v : Nat → Nat → Word) (u p : Nat → DWord) (status seed : DWord) : Prop where
  rest : r' = { r with pc := pc, v := r'.v, u := r'.u, p := r'.p, status := status, seed := seed }
  vec : ∀ n l, l < 64 → r'.vec n l = v n l
  uni : ∀ n, r'.uni n = u n
  pred : ∀ n, r'.pred n = p n

/-- Vector registers with vdst, or the pair that begins with it, holding f of a lane in the lanes written, all others as before. -/
def lanesWith (r : Regs) (h : Hints) (wide : Bool) (dst : Nat) (f : Nat → Nat) (n l : Nat) : Word :=
  if n = dst ∧ l ∈ written r h then BitVec.ofNat 32 (f l)
  else if wide ∧ n = dst + 1 ∧ l ∈ written r h then BitVec.ofNat 32 (f l / 2 ^ 32)
  else r.vec n l

/-- Uniform registers with sdst holding x. -/
def uniWith (r : Regs) (dst x n : Nat) : DWord := if n = dst then BitVec.ofNat 64 x else r.uni n

/-- Predicates with pdst holding m; p15 reads as all ones whatever is written (R22). -/
def predWith (r : Regs) (dst : Nat) (m : DWord) (n : Nat) : DWord := if n = dst ∧ n ≠ 15 then m else r.pred n

/-- Predicates with bit L of pdst being f L in the lanes written, all else as before; p15 discards (R22, R121). -/
def predLanesWith (r : Regs) (h : Hints) (dst : Nat) (f : Nat → Bool) (n : Nat) : DWord :=
  predWith r dst (BitVec.ofFnLE (fun (l : Fin 64) => if l.val ∈ written r h then f l.val else bitAt (r.pred dst) l.val)) n

/-- The unit i, given room for n bytes of log, ends in a next state in which only its drill has changed, and that as `post` says. -/
def Effect (i : Instr) (n : Nat) (post : State → Drill → Drill → Prop) : Prop :=
  ∀ s d, Executes s d i → HasRoom s d n →
    ∃ t d', exec i s = .next t ∧ UnitStep s t d d' ∧ d'.wait = .none ∧ d'.yielded = d.yielded ∧ post s d d'

/-- i writes f of each lane written into vdst or its pair, raises the flags fl, and changes nothing else. -/
def WritesLanes (i : Instr) (wide : Bool) (dst : Nat) (f : Hints → Regs → Nat → Nat) (fl : Hints → Regs → Flags) : Prop :=
  Effect i 520 (fun s d d' => RegsAre d.regs d'.regs s.unit.after
    (lanesWith d.regs s.unit.hints wide dst (f s.unit.hints d.regs)) d.regs.uni d.regs.pred
    (d.regs.status ||| fl s.unit.hints d.regs) d.regs.seed)

/-- As `WritesLanes`, raising no flag. -/
def WritesPlain (i : Instr) (wide : Bool) (dst : Nat) (f : Hints → Regs → Nat → Nat) : Prop :=
  WritesLanes i wide dst f (fun _ _ => 0)

/-- `Sat(x, T)` under `.sat` and `Wrap(x, T)` otherwise, and whether saturation changed x (R40, R112). -/
def narrowed (sat sgn : Bool) (w : Nat) (x : Int) : Nat × Bool := if sat then saturate sgn w x else (wrap w x, false)

/-- i writes the narrowed exact result x of each lane written, and sets SA where some lane saturated (R40, R112). -/
def WritesExact (i : Instr) (wide : Bool) (dst : Nat) (sgn : Bool) (x : Regs → Nat → Int) : Prop :=
  WritesLanes i wide dst (fun h r l => (narrowed (wantsSat h) sgn (formBits wide) (x r l)).1)
    (fun h r => if (written r h).any (fun l => (narrowed (wantsSat h) sgn (formBits wide) (x r l)).2) then flagSA else 0)

/-- i writes x into sdst and changes nothing else. -/
def WritesUni (i : Instr) (dst : Nat) (x : Hints → Regs → Nat) : Prop :=
  Effect i 8 (fun s d d' => RegsAre d.regs d'.regs s.unit.after d.regs.vec (uniWith d.regs dst (x s.unit.hints d.regs)) d.regs.pred
    d.regs.status d.regs.seed)

/-- i writes m into pdst, all 64 bits, and changes nothing else. -/
def WritesPred (i : Instr) (dst : Nat) (m : Regs → DWord) : Prop :=
  Effect i 8 (fun s d d' => RegsAre d.regs d'.regs s.unit.after d.regs.vec d.regs.uni (predWith d.regs dst (m d.regs))
    d.regs.status d.regs.seed)

/-- i writes a bit per lane written into pdst and changes nothing else. -/
def WritesPredLanes (i : Instr) (dst : Nat) (f : Regs → Nat → Bool) : Prop :=
  Effect i 8 (fun s d d' => RegsAre d.regs d'.regs s.unit.after d.regs.vec d.regs.uni
    (predLanesWith d.regs s.unit.hints dst (f d.regs)) d.regs.status d.regs.seed)


/-! ### The integer tables, as chapter 07 words them -/

/-- The exact result of a function of table A but `addc` and `subb`, by its code (R102, R112). -/
def exactA (f w : Nat) (x y : Int) : Int :=
  match f / 2 with
  | 0 => x + y
  | 1 => x - y
  | 2 => x * y
  | 3 => x * y / 2 ^ w
  | 4 => min x y
  | 5 => max x y
  | _ => if f = 14 then |x| else -x

/-- Whether a code of table A admits `.sat` (R112). -/
def admitsSat (f : Nat) : Bool := decide (f < 6) || decide (f = 14) || decide (f = 15)

/-- Whether a code of table A reads its operands as signed: the lower code of a pair, and both of `abs` and `neg` (R112). -/
def signedA (f : Nat) : Bool := decide (f % 2 = 0) || decide (f = 15)

/-- Table A on lanes: the exact result, narrowed under `.sat` where the function admits it, SA where that changed a lane (R112). -/
def WritesTableA (i : Instr) (f : Nat) (wide : Bool) (dst : Nat) (a b : Regs → Nat → Nat) : Prop :=
  let w := formBits wide
  let x := fun (h : Hints) (r : Regs) l => narrowed (wantsSat h && admitsSat f) (signedA f) w
    (exactA f w (valueOf (signedA f) w (a r l)) (valueOf (signedA f) w (b r l)))
  WritesLanes i wide dst (fun h r l => (x h r l).1)
    (fun h r => if (written r h).any (fun l => (x h r l).2) then flagSA else 0)

/-- `addc` and `subb` on lanes: the wrapped result, and the carry or borrow of each lane written in p14 (R113). -/
def WritesCarry (i : Instr) (sub wide : Bool) (dst : Nat) (a b : Regs → Nat → Nat) : Prop :=
  let w := formBits wide
  let x := fun (r : Regs) l => let c : Int := if bitAt (r.pred 14) l then 1 else 0
    if sub then (a r l : Int) - b r l - c else (a r l : Int) + b r l + c
  Effect i 520 (fun s d d' => RegsAre d.regs d'.regs s.unit.after
    (lanesWith d.regs s.unit.hints wide dst (fun l => wrap w (x d.regs l))) d.regs.uni
    (predLanesWith d.regs s.unit.hints 14 (fun l => if sub then decide (x d.regs l < 0) else decide (x d.regs l ≥ 2 ^ w)))
    d.regs.status d.regs.seed)

/-- The result of a function of table B on patterns of w bits, by its code (R114). -/
def bitsB (f w a b : Nat) : Nat :=
  let c := b % 256
  match f with
  | 0 => a &&& b
  | 1 => a ||| b
  | 2 => a ^^^ b
  | 3 => a &&& (2 ^ w - 1 - b)
  | 4 => 2 ^ w - 1 - a
  | 5 => if c ≥ w then 0 else a * 2 ^ c % 2 ^ w
  | 6 => if c ≥ w then 0 else a / 2 ^ c
  | 7 => wrap w (signed w a / 2 ^ (min c w))
  | 8 => (a * 2 ^ (c % w) + a / 2 ^ (w - c % w)) % 2 ^ w
  | 9 => ((List.range w).filter (fun k => a.testBit k)).length
  | 10 => ((List.range w).takeWhile (fun k => !a.testBit (w - 1 - k))).length
  | 11 => ((List.range w).takeWhile (fun k => !a.testBit k)).length
  | 12 => ((List.range w).filter (fun k => a.testBit (w - 1 - k))).foldl (fun r k => r + 2 ^ k) 0
  | _ => a

/-- Table B on lanes (R114). -/
def WritesTableB (i : Instr) (f : Nat) (wide : Bool) (dst : Nat) (a b : Regs → Nat → Nat) : Prop :=
  WritesPlain i wide dst (fun _ r l => bitsB f (formBits wide) (a r l) (b r l))

/-- A relation of table P on values of a type of w bits (R121). -/
def relation (sgn : Bool) (w cond a b : Nat) : Bool :=
  let x := valueOf sgn w a
  let y := valueOf sgn w b
  match cond with
  | 0 => x == y
  | 1 => x != y
  | 2 => decide (x < y)
  | 3 => decide (x ≤ y)
  | 4 => decide (y < x)
  | 5 => decide (y ≤ x)
  | 6 => (a &&& b) != 0
  | _ => (a &&& b) == 0

/-- A single vector register's element as an operand. -/
def lane32 (n : Nat) (r : Regs) (l : Nat) : Nat := r.vecN n l
/-- A pair's element as an operand (R20). -/
def lane64 (n : Nat) (r : Regs) (l : Nat) : Nat := r.pair n l
/-- The low 32 bits of a uniform operand (R111). -/
def uni32 (n : Nat) (r : Regs) (_ : Nat) : Nat := r.uniN n % 2 ^ 32
/-- All bits of a uniform operand (R111). -/
def uni64 (n : Nat) (r : Regs) (_ : Nat) : Nat := r.uniN n
/-- The operand a unary function does not read. -/
def noOperand (_ : Regs) (_ : Nat) : Nat := 0

/-- The bit field of a field operand: pos = bits [4:0], len = min(bits [13:8], 32 - pos) (R117). -/
def fieldPos (x : Nat) : Nat := x % 32
def fieldLen (x : Nat) : Nat := min (x / 256 % 64) (32 - x % 32)

/-! ### Transfers, traps and ends of chunks -/

/-- Where `cond` holds, i ends in a next state in which only its drill has changed, and of that the registers, which are as `regs`
says. -/
def Transfers (i : Instr) (cond : State → Drill → Prop) (regs : State → Drill → Regs) : Prop :=
  ∀ s d, Executes s d i → HasRoom s d 48 → cond s d →
    ∃ t d', exec i s = .next t ∧ UnitStep s t d d' ∧ d'.wait = .none ∧ d'.yielded = d.yielded ∧ d'.regs = regs s d

/-- The drill takes a trap at once: no older chunk, no unit before it in a chunk that is implicit, no trap being handled, and a
handler named (R189, R191). -/
structure Deliverable (d : Drill) : Prop where
  implicit : d.chunk.expl = none
  first : d.chunk.units = 0
  alone : d.older = none
  handler : d.regs.trapvec ≠ 0
  free : d.regs.h = false

/-- The trap frame (R189, R190): s60 the address to resume at, s61 the information, s62 the address, s63 `em`; H set, the PC at the
handler; `em`, the stack and everything else of the drill and of the device as they were. -/
structure Delivered (s t : State) (d : Drill) (resume info addr : Nat) : Prop where
  drill : ∃ d', Map.find t.drills s.cur = some d' ∧
    d' = { d with regs := d'.regs, wait := .none, chunk := { d.chunk with logged := d'.chunk.logged } } ∧
    d'.regs = { d.regs with pc := d.regs.trapvec, h := true, u := d'.regs.u } ∧
    ∀ n, d'.regs.uni n = if n = 60 then BitVec.ofNat 64 resume else if n = 61 then BitVec.ofNat 64 info
      else if n = 62 then BitVec.ofNat 64 addr else if n = 63 then d.regs.em else d.regs.uni n
  others : ∀ k, k ≠ s.cur → Map.find t.drills k = Map.find s.drills k
  rest : t = { s with drills := t.drills }

/-- Where `cond` holds, i traps with a kind and detail and an address, and the trap is delivered at once if it can be (R189). -/
def Traps (i : Instr) (cond : State → Drill → Prop) (kind detail : Nat) (addr : State → Drill → Nat) : Prop :=
  ∀ s d, Executes s d i → Deliverable d → cond s d →
    ∃ t, exec i s = .next t ∧ Delivered s t d s.unit.first.toNat (kind + 256 * detail) (addr s d)

/-- The explicit chunk of slot k's drill aborted with a cause and code (R169): the state of its start restored, the cause in s63, the PC at
the fallback, everything speculative discarded, no byte changed; a fresh chunk begins. -/
def Aborted (s t : State) (k : Nat) (d : Drill) (e : Expl) (cause code : Nat) : Prop :=
  ∃ d', Map.find t.drills k = some d' ∧ d'.regs = { d.chunk.start with pc := e.fallback, u := d'.regs.u } ∧
    (∀ n, d'.regs.uni n = if n = 63 then BitVec.ofNat 64 (cause + 256 * code) else d.chunk.start.uni n) ∧
    (d'.chunk.sq = 0 ∧ d'.chunk.limit = 4096 ∧ d'.chunk.solo = false ∧ d'.chunk.units = 0) ∧
    d'.chunk.expl = none ∧ d'.chunk.spec = [] ∧ d'.chunk.scratch = [] ∧ d'.chunk.reds = [] ∧ d'.wait = .none ∧
    ∀ x, t.byteAt x = s.byteAt x

/-- A chunk ended by its nature: its last unit counted, and the operation that follows its stamp, if it has one (R197). -/
def endedBy (d : Drill) (u : UnitCtx) (op : Option Instr) : Older :=
  { chunk := { d.chunk with units := d.chunk.units + 1, after := op, afterUnit := u }, phase := .ended }

/-- The explicit chunk an instruction opens: `chk.beg` one that goes on at its fallback, no other any (R168). -/
def opened (u : UnitCtx) : Instr → Option Expl
  | .chkBeg o => some { beg := u.first, fallback := branchTarget u.first o }
  | _ => none

/-- What an instruction that is the last of its chunk leaves: the chunk older and on its way to its commit, a fresh chunk begun at
the next unit, implicit but after `chk.beg`, and all else as it was but for the choice of the partition and the plots looked up (R168, R197, R242). -/
structure ChunkEnds (i : Instr) (s t : State) (d d' : Drill) (op : Option Instr) : Prop where
  drill : Map.find t.drills s.cur = some d'
  older : d'.older = some (endedBy d s.unit op)
  regs : d'.regs = { d.regs with pc := s.unit.after }
  chunk : d'.chunk = Chunk.fresh d'.regs 0 4096 (opened s.unit i)
  own : d' = { d with regs := d'.regs, chunk := d'.chunk, older := d'.older, wait := .none, waited := 0 }
  others : ∀ k, k ≠ s.cur → (Map.find t.drills k).map Drill.settled = (Map.find s.drills k).map Drill.settled
  cores : ∀ c, t.core c = { s.core c with last := (t.core c).last, plots := (t.core c).plots }
  agenda : t.agenda = s.agenda ++ [.commitPrepare s.cur]
  rest : t = { s with drills := t.drills, cores := t.cores, agenda := t.agenda }
  memory : ∀ a, t.byteAt a = s.byteAt a

/-- Where `cond` holds and the drill has no chunk older than the running one, i is the last unit of its chunk; `op` says whether an
operation follows the stamp. -/
def EndsItsChunk (i : Instr) (op : Bool) (cond : State → Drill → Prop) : Prop :=
  ∀ s d, Executes s d i → HasRoom s d 0 → d.older = none → cond s d →
    ∃ t d', exec i s = .next t ∧ ChunkEnds i s t d d' (if op then some i else none)

/-! ### Floating point, tiles and accumulators -/

/-- The rounding an instruction takes that accepts a direction alone: the ROUND hint's mode or `sr.round`'s, `rn` where that is not
one of the first four (R30, R134). -/
def direction (h : Hints) (r : Regs) : RoundCtx :=
  let code := match h.round with
    | some x => if x.md then x.mode else r.round.toNat % 8
    | none => r.round.toNat % 8
  { mode := if code = 1 then .rz else if code = 2 then .rp else if code = 3 then .rm else .rn
    sat := (match h.round with | some x => x.sat | none => false), r := 0 }

/-- i writes the result of g of each lane written into vdst, and raises the flags of all of them (R133). -/
def WritesFp (i : Instr) (dst : Nat) (g : RoundCtx → Hints → Regs → Nat → Nat × Flags) : Prop :=
  WritesLanes i false dst (fun h r l => (g (direction h r) h r l).1)
    (fun h r => flagsOf (written r h) (fun l => (g (direction h r) h r l).2))

/-- Element l of vn, read in a format. -/
def Regs.value (r : Regs) (t : Fmt) (n l : Nat) : FVal := unpack t (r.vecN n l)

/-- The count in `sr.seed` after an instruction that rounds in a mode: advanced by one where that is `sr` (R50). -/
def seedAfter (m : Mode) (seed : DWord) : DWord :=
  if m = .sr then BitVec.ofNat 64 (seed.toNat % 2 ^ 32 + (seed.toNat / 2 ^ 32 + 1) % 2 ^ 32 * 2 ^ 32) else seed

/-- i writes whole tiles, side-bands and accumulators, and changes nothing else but flags and the seed. -/
def WritesTiles (i : Instr) (n : Nat) (tile side : State → Drill → Nat → Nat → Byte) (acc : State → Drill → Nat → Nat → Word)
    (status seed : State → Drill → DWord) : Prop :=
  Effect i n (fun s d d' =>
    d'.regs = { d.regs with pc := s.unit.after, tile := d'.regs.tile, side := d'.regs.side, acc := d'.regs.acc
                            status := status s d, seed := seed s d } ∧
    (∀ m b, b < 1024 → d'.regs.tileByte m b = tile s d m b) ∧
    (∀ m b, b < 256 → d'.regs.sideByte m b = side s d m b) ∧
    (∀ m e, e < 1024 → d'.regs.accElem m e = acc s d m e))

/-- i writes f into the whole payload of tile t; `side` is the side-band it leaves there, if it writes one. -/
def WritesTile (i : Instr) (t : Nat) (f : State → Drill → Nat → Nat) (side : Option (State → Drill → Nat → Nat))
    (status seed : State → Drill → DWord) : Prop :=
  WritesTiles i 1296
    (fun s d m b => if m = t then BitVec.ofNat 8 (f s d b) else d.regs.tileByte m b)
    (fun s d m b => match side with
      | some g => if m = t then BitVec.ofNat 8 (g s d b) else d.regs.sideByte m b
      | none => d.regs.sideByte m b)
    (fun _ d m e => d.regs.accElem m e) status seed

/-! ### Values as numbers (R41, R45) -/

/-- The number a finite value with nothing sticky stands for. -/
def Ex.toRat (x : Ex) : ℚ := (if x.neg then -1 else 1) * x.m * (2 : ℚ) ^ x.e

/-- The number a bit pattern of a format stands for, if it is finite. -/
def Fmt.number (f : Fmt) (bits : Nat) : Option ℚ :=
  match unpack f bits with
  | .fin x => some x.toRat
  | _ => none

/-- The f32 pattern of a whole number below 2^24. -/
def intBits (k : Nat) : Nat := if k = 0 then 0 else (Nat.log2 k + 127) * 2 ^ 23 + (k - 2 ^ Nat.log2 k) * 2 ^ (23 - Nat.log2 k)

/-- The f32 pattern of 2^k. -/
def powBits (k : Int) : Nat := if k < -126 then 2 ^ (k + 149).toNat else (k + 127).toNat * 2 ^ 23

/-- Whether v is what R45 chooses for x in a mode among the values a format has: x itself where that is one, else a neighbour that brackets
it. `odd` tells of a pattern whether its lowest mantissa bit is 1. -/
def Chosen (f : Fmt) (mode : Mode) (x v : ℚ) (odd : Bool) : Prop :=
  let vs := fun (z : ℚ) => ∃ b, b < 2 ^ f.width ∧ f.number b = some z
  (vs x → v = x) ∧
  match mode with
  | .rn => ∀ z, vs z → |v - x| < |z - x| ∨ z = v ∨ (|v - x| = |z - x| ∧ odd = false)
  | .rna => ∀ z, vs z → |v - x| < |z - x| ∨ z = v ∨ (|v - x| = |z - x| ∧ |z| < |v|)
  | .rz => |v| ≤ |x| ∧ 0 ≤ v * x ∧ ∀ z, vs z → ¬(0 ≤ z * x ∧ |v| < |z| ∧ |z| ≤ |x|)
  | .rp => x ≤ v ∧ ∀ z, vs z → ¬(x ≤ z ∧ z < v)
  | .rm => v ≤ x ∧ ∀ z, vs z → ¬(v < z ∧ z ≤ x)
  | .sr => ∀ z, vs z → ¬(min v x < z ∧ z < max v x)

/-- Whether Round carries a magnitude a beyond the largest value of a format, as if its exponent were unbounded above: l is the largest, n the value
after it (R45, R46, R51). -/
def carriesOver (f : Fmt) (c : RoundCtx) (neg : Bool) (l n a : ℚ) : Prop :=
  n ≤ a ∨ (l < a ∧ match c.mode with
    | .rn => l + n < 2 * a ∨ (l + n = 2 * a ∧ f.largest % 2 = 1)
    | .rna => l + n ≤ 2 * a
    | .rz => False
    | .rp => neg = false
    | .rm => neg = true
    | .sr => (c.r : ℤ) < ⌊(a - l) / (n - l) * 2 ^ 32⌋)

/-- y is what `Round` delivers of an exact x that is not zero and has the sign `neg`, and its flags: the table of R46 where the rounded value is beyond
the largest; else the neighbour that R45 chooses, under `sr` the one of larger magnitude where the fraction's 32 bits exceed the random ones (R51), the
sign kept where that is zero, NX where it differs, UF where it then is smaller than the smallest normal (R47). -/
def Rounds (f : Fmt) (c : RoundCtx) (x : ℚ) (neg : Bool) (y : Nat × Flags) : Prop :=
  let sign := if neg then f.signBit else 0
  ∀ l l', f.number f.largest = some l → f.number (f.largest - 1) = some l' →
    (carriesOver f c neg l (2 * l - l') |x| →
      y = if c.sat ∨ f = .e2m1 ∨ f = .e3m5 then (sign + f.largest, flagOF ||| flagNX ||| flagSA)
        else (if c.mode = .rn ∨ c.mode = .rna ∨ (c.mode = .rp ∧ neg = false) ∨ (c.mode = .rm ∧ neg = true) then
            (if f.hasInf then sign + f.inf else f.nan) else sign + f.largest, flagOF ||| flagNX)) ∧
    (¬carriesOver f c neg l (2 * l - l') |x| → l < |x| → y = (sign + f.largest, flagNX)) ∧
    (|x| ≤ l → ∃ v, f.number y.1 = some v ∧ Chosen f c.mode x v (y.1 % 2 == 1) ∧ (v = 0 → y.1 = sign) ∧
      y.2 = (if v = x then 0 else flagNX ||| (if |v| < (2 : ℚ) ^ (1 - (f.bias : Int)) then flagUF else 0)) ∧
      (c.mode = .sr → ∀ b lo hi, b < f.largest → f.number b = some lo → f.number (b + 1) = some hi → lo ≤ |x| → |x| < hi →
        y.1 = sign + if (c.r : ℤ) < ⌊(|x| - lo) / (hi - lo) * 2 ^ 32⌋ then b + 1 else b))

/-- What a bound of a map stands for, infinities included: the order of R63 and R67. -/
def boundValue (w : Word) : WithBot (WithTop ℚ) :=
  if w = 0xFF800000 then ⊥ else if w = 0x7F800000 then ⊤
  else match Fmt.number .f32 w.toNat with
    | some q => ((q : WithTop ℚ) : WithBot (WithTop ℚ))
    | none => ⊥

/-- y is Round to f32, nearest even, of the exact value q, with its flags. -/
def roundsTo (q : ℚ) (y : Nat × Flags) : Prop := ∃ e : Ex, e.sticky = false ∧ e.toRat = q ∧ y = roundTo .f32 .rn false 0 e

/-- y is the image of a bound under a map with a = A and b = B: rounded, or the infinity that it is, of the other sign where A is negative (R67). -/
structure BoundMaps (A B : ℚ) (w : Word) (y : Nat × Flags) : Prop where
  finite : ∀ q, Fmt.number .f32 w.toNat = some q → roundsTo (A * q + B) y
  low : w = 0xFF800000 → y = (if A < 0 then 0x7F800000 else 0xFF800000, 0)
  high : w = 0x7F800000 → y = (if A < 0 then 0xFF800000 else 0x7F800000, 0)

/-- One step of the generator of R50. -/
def galoisStep (x : Nat) : Nat := if x % 2 = 1 then (x / 2) ^^^ 0x80200003 else x / 2

/-- The random bits of element k of a lane under a seed (R50). -/
def drawn (seed : DWord) (lane k : Nat) : Nat :=
  let x := (seed.toNat % 2 ^ 32) ^^^ ((lane + 1) * 0x9E3779B9 % 2 ^ 32) ^^^ (seed.toNat / 2 ^ 32 * 0x85EBCA6B % 2 ^ 32)
  (galoisStep^[32 * (k + 1)]) (if x = 0 then 1 else x)

/-- What an atomic writes, by the table of R165: v the drill's operand, n the value `cas` writes. -/
def atomicNew (op w old v n : Nat) : Nat :=
  match op with
  | 0 => wrap w ((old : Int) + v)
  | 1 => wrap w (min (signed w old) (signed w v))
  | 2 => wrap w (max (signed w old) (signed w v))
  | 3 => old &&& v
  | 4 => old ||| v
  | 5 => old ^^^ v
  | 6 => v
  | _ => if old = v then n else old

/-- What a reduction leaves at its target, by the table of R166. -/
def reducedTo (op old v : Nat) : Nat :=
  match op with
  | 0 => wrap 32 ((old : Int) + v)
  | 1 => (fadd .f32 RoundCtx.rn (unpack .f32 old) (unpack .f32 v)).1
  | 2 => wrap 32 (min (signed 32 old) (signed 32 v))
  | 3 => wrap 32 (max (signed 32 old) (signed 32 v))
  | 4 => old &&& v
  | 5 => old ||| v
  | _ => wrap 64 ((old : Int) + v)

/-- A memory with bytes put at an address. -/
def putAt (m : Nat → Byte) (a : Nat) (bs : List Byte) (x : Nat) : Byte := if a ≤ x ∧ x < a + bs.length then bs.getD (x - a) 0 else m x

/-- The number in n bytes of a memory, little-endian. -/
def numberIn (m : Nat → Byte) (a n : Nat) : Nat := ofBytes ((upto n).map (fun k => m (a + k)))

/-- A memory with a grain's bytes written under their mask (R242). -/
def GrainWrite.bytesLeave (g : GrainWrite) (m : Nat → Byte) (x : Nat) : Byte :=
  match (if g.addr ≤ x then Map.find g.bytes (x - g.addr) else none) with
  | some b => b
  | none => m x

/-- What a grain's commit leaves of a memory: its bytes, then its reductions in order, then its atomics in order (R163, R242, R259). -/
def GrainWrite.leaves (g : GrainWrite) (m : Nat → Byte) : Nat → Byte :=
  g.atoms.foldl (fun m x => putAt m x.addr (toBytes x.bytes (atomicNew x.op (8 * x.bytes) (numberIn m x.addr x.bytes) x.v x.vn)))
    (g.reds.foldl (fun m r => putAt m r.addr (toBytes (redBytes r.op) (reducedTo r.op (numberIn m r.addr (redBytes r.op)) r.value.toNat)))
      (g.bytesLeave m))

/-! ### Engines (R217, R220, R221) -/

/-- A command of a major and op that its engine has still to carry out, no reserved bit of its run set. -/
structure Running (s : State) (n : Nat) (c : Command) (major op : Nat) : Prop where
  here : Map.find s.cmds n = some c
  kind : c.major = major ∧ c.op = op
  fresh : c.staged = false
  legal : c.reservedBits = false

/-- The engine chunk of a command's work can be stamped now: every plot it writes can be written, its homes have room, and no reservation
holds it back (R161, R247, R353). -/
structure Stampable (s : State) (c : Command) (x : Work) : Prop where
  plots : s.writesHeld c.asid (x.writes.map (fun w => (w.1, w.2.length))) (s.workGrains c x) = false
  room : s.chunkRoom (s.workGrains c x) = true
  free : s.soloHolds (fun _ => true) c.asid (engineSig (s.workGrains c x)) = false

/-- A command's stores alone. -/
def storesOf (ws : List (Nat × List Byte)) : Work := { writes := ws, lands := [], grains := [] }

/-- The byte the last of some stores leaves at an address, if one names it. -/
def lastByte (ws : List (Nat × List Byte)) (a : Nat) : Option Byte :=
  ws.foldl (fun o w => if w.1 ≤ a ∧ a < w.1 + w.2.length then some (w.2.getD (a - w.1) 0) else o) none

/-- The bytes of a context's memory from an address on, as a reader sees them (R221). -/
def seenRange (s : State) (asid va n : Nat) : List Byte :=
  (upto n).map (fun k => match s.plotOf asid (va + k) with
    | .desc d => s.seen d (locate d (keyOf asid (va + k)) (va + k))
    | _ => 0)

/-- A commit holds the stores ws of a context's bytes: at each address the byte of the last store that names it, and no other byte. -/
def Carries (s : State) (asid : Nat) (ws : List (Nat × List Byte)) (y : Commit) : Prop :=
  (∀ a b d, lastByte ws a = some b → s.plotOf asid a = .desc d → descValid d = true →
    ∃ g ∈ y.grains, g.addr ≤ locate d (keyOf asid a) a ∧ Map.find g.bytes (locate d (keyOf asid a) a - g.addr) = some b) ∧
  ∀ g ∈ y.grains, ∀ x ∈ g.bytes, ∃ a d, lastByte ws a = some x.2 ∧ s.plotOf asid a = .desc d ∧ g.addr + x.1 = locate d (keyOf asid a) a

/-- A command is done with the stores ws: they are one commit of the next CSN (R220). -/
structure Puts (s t : State) (n : Nat) (c : Command) (ws : List (Nat × List Byte)) : Prop where
  csn : t.nextCsn = s.nextCsn + 1
  gone : Map.find t.cmds n = none
  commit : ∃ y ∈ t.commits, y.csn = s.nextCsn ∧ Carries s c.asid ws y

/-- The row an index of a row command names, by R229: T rows of z bytes from a base, `dflt` the default row; none where it is padding, or
skipped. -/
def rowAt (policy t z base dflt i : Nat) : Option Nat :=
  if i = 2 ^ 32 - 1 then none else if i < t then some (base + i * z) else if policy = 1 then some dflt else none

/-- The ranges of rows named, an empty one where none is. -/
def rowRanges (z : Nat) (l : List (Option Nat)) : List (Nat × Nat) := l.map (fun r => match r with | some a => (a, z) | none => (0, 0))

/-- The count of a row command stored where it is asked for (R229). -/
def countStore (at0 : Nat) (t : Nat) (idx : List Nat) : List (Nat × List Byte) :=
  if at0 = 0 then [] else [(at0, toBytes 4 ((idx.filter (fun i => i ≠ 2 ^ 32 - 1 ∧ t ≤ i)).length))]

/-- One pass of the canonical tree: neighbours combined two by two, an odd last one carried on (R233). -/
def pairUp (F : Nat → Nat → Nat) (l : List Nat) : List Nat :=
  (upto ((l.length + 1) / 2)).map (fun i => if 2 * i + 1 < l.length then F (l.getD (2 * i) 0) (l.getD (2 * i + 1) 0) else l.getD (2 * i) 0)

/-- y is what the canonical tree makes of the ranks' values (R233). -/
inductive TreeOf (F : Nat → Nat → Nat) : List Nat → Nat → Prop
  | one (x : Nat) : TreeOf F [x] x
  | more (l : List Nat) (y : Nat) : 1 < l.length → TreeOf F (pairUp F l) y → TreeOf F l y

/-- The operation of a reduction over ranks, by its code (R232, R233). -/
def rankCombine (f x y : Nat) : Nat :=
  match f with
  | 0 => (fadd .f32 RoundCtx.rn (unpack .f32 x) (unpack .f32 y)).1
  | 1 => (fminmax .f32 false x y).1
  | 2 => (fminmax .f32 true x y).1
  | _ => wrap 32 ((x : Int) + y)

/-! ### Fault records (R351, R357) -/

/-- Whether a grain's write names a byte of its sector q: by its mask, a reduction or an atomic. -/
def GrainWrite.names (g : GrainWrite) (q k : Nat) : Bool :=
  (Map.find g.bytes (q * 32 + k)).isSome
    || g.reds.any (fun r => decide (r.addr ≤ g.addr + q * 32 + k ∧ g.addr + q * 32 + k < r.addr + redBytes r.op))
    || g.atoms.any (fun r => decide (r.addr ≤ g.addr + q * 32 + k ∧ g.addr + q * 32 + k < r.addr + r.bytes))

/-- The bytes of sector q that a grain's write names, as a mask. -/
def GrainWrite.mask (g : GrainWrite) (q : Nat) : Nat := ((upto 32).filter (g.names q)).foldl (fun m k => m + 2 ^ k) 0

/-- The records of R351 and R352 for a grain's write that fires no tile: one for each sector it writes, with the fields of R357. -/
def GrainWrite.records (g : GrainWrite) (kind csn loc : Nat) : List FaultRec :=
  ((upto (g.size / 32)).filter (fun q => g.mask q ≠ 0)).map (fun q =>
    let w := (g.attrs.find? (fun a => a.off == q)).getD Attr.device
    { asid := g.asid, key := g.key, kind := kind, detail := w.kind, mask := g.mask q, va := g.va + 32 * q, who := w.who, pc := w.pc.toNat
      token := w.token, csn := csn, launch := w.launch, plot := g.desc.toNat, loc := loc })

/-- A write of an unglazed grain that has its bytes inside the grain, in order, and an attribution for each of its sectors. -/
structure GrainWrite.Plain (g : GrainWrite) : Prop where
  payload : g.writes = true ∧ g.edit = none
  unglazed : descG g.desc = false
  size : g.size = grainSize g.desc
  bytes : Map.sorted g.bytes = true ∧ ∀ b ∈ g.bytes, b.1 < g.size
  attrs : ∀ q, q < g.size / 32 → (g.attrs.find? (fun a => a.off == q)).isSome = true

/-- n bytes of a context's memory from a VA hold bs, under the descriptors that s gives (R309). -/
def HoldsAt (s t : State) (asid va : Nat) (bs : List Byte) : Prop :=
  ∀ k d, k < bs.length → s.plotOf asid (va + k) = .desc d → t.byteAt (locate d (keyOf asid (va + k)) (va + k)) = bs.getD k 0

/-- n bytes of a context's memory from a VA on read as bs, under the descriptors that s gives: a tile as its view (R63, R309). -/
def SeenAt (s t : State) (asid va : Nat) (bs : List Byte) : Prop :=
  ∀ k d, k < bs.length → s.plotOf asid (va + k) = .desc d → descValid d = true →
    t.seen d (locate d (keyOf asid (va + k)) (va + k)) = bs.getD k 0

/-- The drill part at offset o of a save image holds a PC, registers and a CSN where R300 and R302 lay them out: the header's 8-byte fields, then the
vector registers, the uniform ones and p0 to p14. -/
structure InPart (l : LaunchRec) (bs : List Byte) (o pc csn : Nat) (r : Regs) : Prop where
  header : ∀ i x, [pc, r.em.toNat, r.status.toNat, r.seed.toNat, r.round.toNat, r.trapvec.toNat, csn][i]? = some x → imageField bs (o + 8 * i) 8 = x
  vec : ∀ n e, n < l.nv → e < 64 → imageField bs (o + 256 + 256 * n + 4 * e) 4 = (r.vec n e).toNat
  uni : ∀ n, n < 64 → imageField bs (o + 256 + 256 * l.nv + 8 * n) 8 = (r.uni n).toNat
  pred : ∀ n, n < 15 → imageField bs (o + 768 + 256 * l.nv + 8 * n) 8 = (r.pred n).toNat

/-! ### Special registers -/

/-- R28 to R32: what a special register reads as, by its number, for a drill that has a workgroup and a launch. -/
def srReads (s : State) (d : Drill) (w : Workgroup) (l : Launch) (n : Nat) : Nat :=
  match n with
  | 1 => d.index + (w.ndrills - 1) * 256 + s.cur % 64 * 65536
  | 2 => w.index % l.record.nx
  | 3 => w.index / l.record.nx % l.record.ny
  | 4 => w.index / l.record.nx / l.record.ny
  | 5 => l.record.nx
  | 6 => l.record.ny
  | 7 => l.record.nz
  | 8 => d.launch
  | 9 => s.cur / 64
  | 10 => s.clock - (s.core (s.cur / 64)).epoch
  | 11 => s.clock / 3
  | 12 => d.csn
  | 13 => d.regs.status.toNat
  | 14 => d.regs.round.toNat
  | 15 => d.regs.seed.toNat
  | 16 => d.regs.trapvec.toNat
  | 17 => d.chunk.limit + d.chunk.sq * 8192 + (if d.chunk.solo then 65536 else 0) + (if d.chunk.expl.isSome then 131072 else 0)
  | _ => 0

/-- What `sr.fault` reads as: the drill's own latest write that is not committed, or the context's register (R28). -/
def faultReads (d : Drill) (c : Context) : DWord :=
  match d.chunk.fault, d.older.bind (fun o => o.chunk.fault) with
  | some v, _ => v
  | none, some v => v
  | none, none => c.faultq

/-! ### Units that reach memory -/

/-- The grains a solo chunk registers with its reservation before it reads them (R247). -/
def registers (s : State) (d : Drill) (kind : Access) (sites : List Site) : List DWord :=
  if d.chunk.solo then s.newGrains s.cur kind sites else []

/-- Every check of R156 passes for the accesses l of a kind, and nothing holds them up, nor, in a solo chunk, a broadcast up to the CSN it receives
with the grains it registers: their places are `sites`, none of them uncached, and s' is the state with the plots looked up (R155, R161, R163, R164,
R247). -/
structure Reaches (s : State) (d : Drill) (kind : Access) (priv : Bool) (l : List Acc) (s' : State) (sites : List Site) : Prop where
  addresses : s.addrTrap d kind priv l = none
  plots : ∃ ds, lookPlots s.cur d l s [] [] = .all s' ds [] ∧ plotTrap kind (s.supOf d.asid) ds = none ∧ sites = l.map (siteOf d ds)
  locks : s.lockTrap (coreOf s.cur) d.asid kind l = none
  free : s'.holdUp s.cur d kind sites = none
  caughtUp : (s'.register s.cur (registers s' d kind sites)).soloBehind s.cur = false
  ready : kind.reads = true → s'.readsReady (s'.unitAttr s.cur d) (coreOf s.cur) d.asid (sites.map (Site.reader kind)) = .ok
  good : kind.reads = true → ∀ x ∈ sites, s'.siteBad (coreOf s.cur) d (x.reader kind) = false
  cached : ∀ x ∈ sites, x.kind ≠ .uncached

/-- Every check of R156 passes for the accesses l of a kind, all of them in uncached plots, and nothing holds them up; the drill begins a
chunk with them, and nothing else is to be applied or recorded. Their places are `sites` (R155, R161, R163, R247). -/
structure ReachesOwn (s : State) (d : Drill) (kind : Access) (priv : Bool) (l : List Acc) (s' : State) (sites : List Site) : Prop where
  addresses : s.addrTrap d kind priv l = none
  plots : ∃ ds, lookPlots s.cur d l s [] [] = .all s' ds [] ∧ plotTrap kind (s.supOf d.asid) ds = none ∧ sites = l.map (siteOf d ds)
  locks : s.lockTrap (coreOf s.cur) d.asid kind l = none
  free : s'.holdUp s.cur d kind sites = none
  caughtUp : (s'.register s.cur (registers s' d kind sites)).soloBehind s.cur = false
  uncached : ∀ x ∈ sites, x.kind = .uncached
  nonempty : sites ≠ []
  begins : ∃ sq limit, d.chunk = Chunk.fresh d.regs sq limit none
  quiet : s.commits = [] ∧ s.records = [] ∧ s.bad = []

/-- A clean line of L1 that is the one of a fill's grain at its address b (R266). -/
def Fill.lineAt (f : Fill) (b : Nat) (x : L1Line) : Prop := x.key = f.key ∧ x.streaming = (descTreat f.desc == 1) ∧ x.va = b / 128 * 128

/-- A fill's grain stands in its core's L1, each of its lines once, at the fill's priority, the grain's sectors valid beside those that the line had
before, a streaming line with the fill's data; every other line that is kept is as it was, and none is new (R266). -/
structure Fill.Installed (f : Fill) (s t : State) (data : List Byte) (kept : L1Line → Prop) : Prop where
  lines : ∀ b, f.va ≤ b → b < f.va + grainSize f.desc → ∃ x ∈ (t.core f.core).l1, f.lineAt b x ∧
    (∀ y ∈ (t.core f.core).l1, f.lineAt b y → y = x) ∧ x.prio = f.prio ∧
    (∀ q, q < 4 → (x.sectors.getLsbD q = true ↔ (f.va ≤ x.va + 32 * q ∧ x.va + 32 * q < f.va + grainSize f.desc) ∨
      ∃ y, (s.core f.core).l1.find? (fun y => y.key == f.key && y.streaming == (descTreat f.desc == 1) && y.va == b / 128 * 128) = some y ∧
        y.sectors.getLsbD q = true)) ∧
    (x.streaming = true → Map.get 0 x.data (b % 128) = data.getD (b - f.va) 0)
  rest : ∀ x, (∀ b, f.va ≤ b → b < f.va + grainSize f.desc → ¬f.lineAt b x) →
    (x ∈ (t.core f.core).l1 ↔ x ∈ (s.core f.core).l1 ∧ kept x)
  others : ∀ c, c ≠ f.core → t.core c = s.core c
  device : t = { s with cores := t.cores, fills := t.fills }

/-- Sites in one plot share its descriptor. -/
def oneDesc (sites : List Site) : Prop := ∀ x ∈ sites, ∀ y ∈ sites, x.acc.ea / 65536 = y.acc.ea / 65536 → x.desc = y.desc

/-- The address code of a site's first byte. -/
def Site.at0 (x : Site) : Nat := x.code (x.vas.headD 0)

/-- Reductions of n bytes carried out at memory in the order of their sites (R166). -/
def reducedRun (op n : Nat) (v : Nat → Nat) (sites : List Site) (m : Nat → Byte) : Nat → Byte :=
  sites.foldl (fun m x => putAt m x.at0 (toBytes n (reducedTo op (numberIn m x.at0 n) (v x.acc.lane)))) m

/-- Atomics of n bytes carried out at memory in the order of their sites: what they leave, and each lane's old value (R165). -/
def atomRun (op n : Nat) (v vn : Nat → Nat) (sites : List Site) (m : Nat → Byte) : (Nat → Byte) × List (Nat × Nat) :=
  sites.foldl (fun r x =>
    let old := numberIn r.1 x.at0 n
    (putAt r.1 x.at0 (toBytes n (atomicNew op (8 * n) old (v x.acc.lane) (vn x.acc.lane))), r.2 ++ [(x.acc.lane, old)])) (m, [])

/-- A site's grain stands at its home with no deferred entry, its plot not glazed: a commit to it changes payload at once. -/
structure AtHome (s : State) (x : Site) : Prop where
  plain : descG x.desc = false
  here : ∀ b ∈ x.bases, (∃ large loc, s.walk (x.code b) = .page true large loc) ∧
    ∀ e ∈ (s.home (codeHome (x.code b))).dsb, overlap e.write.addr e.write.size (x.code b) (grainSize x.desc) = false

/-- The unit was a chunk of its own: it received one CSN, and the drill goes on with a fresh chunk (R163). -/
structure OwnChunk (s t : State) (d d' : Drill) : Prop where
  drill : Map.find t.drills s.cur = some d'
  csn : d'.csn = s.nextCsn ∧ t.nextCsn = s.nextCsn + 1
  chunk : d'.chunk = Chunk.fresh d'.regs 0 4096 none
  wait : d'.wait = .none ∧ d'.older = none

/-- The number the sites' drill sees at one of them (R158). -/
def sees (s' : State) (s : State) (d : Drill) (x : Site) : Nat := ofBytes (x.vas.map (s'.siteByte (coreOf s.cur) d x))

/-- The drill's own latest byte at an offset of its scratchpad, or at an address code: the running chunk's, else the older's (R158, R159). -/
def ownLatest (d : Drill) (scr : Bool) (a : Nat) : Option Byte :=
  match Map.find (if scr then d.chunk.scratch else d.chunk.spec) a with
  | some b => some b
  | none => d.older.bind (fun o => Map.find (if scr then o.chunk.scratch else o.chunk.spec) a)

/-- The number an atomic of the sites' drill finds at one of them: in a streaming plot the drill's own latest bytes, else the committed ones (R165). -/
def finds (s' : State) (s : State) (d : Drill) (x : Site) : Nat :=
  if x.kind = .streaming then ofBytes (x.vas.map (fun v => (ownLatest d false (x.code v)).getD (s'.seen x.desc (x.code v)))) else sees s' s d x

/-- Byte b of the rows the sites hold, one after another (R204). -/
def rowByte (s' : State) (s : State) (d : Drill) (sites : List Site) (b : Nat) : Byte :=
  (sites.flatMap (fun x => x.vas.map (s'.siteByte (coreOf s.cur) d x))).getD b 0

/-- Committed memory and every other drill as they were: what a unit that reaches memory leaves until its chunk commits. -/
structure Unseen (s t : State) : Prop where
  memory : ∀ a, t.byteAt a = s.byteAt a
  others : ∀ k, k ≠ s.cur → (Map.find t.drills k).map Drill.settled = (Map.find s.drills k).map Drill.settled
  scratch : t.wgs = s.wgs
  headers : ∀ a, t.headerAt a = s.headerAt a
  contexts : t.ctxs = s.ctxs
  order : t.nextCsn = s.nextCsn ∧ t.commits = s.commits

/-- A chunk with a unit's reads in its signatures, and the lines of its last-use hint (R162, R163). -/
def Chunk.readBy (c : Chunk) (h : Hints) (sites : List Site) : Chunk :=
  if lastUseHint h then (c.enter .read sites).lastUsed sites else c.enter .read sites

/-- Speculative bytes after the sites are stored to, in order, each later one prevailing (R159). -/
def storedBytes (scr : Bool) (bytes : Site → List Byte) (sites : List Site) (m : Map Byte) : Map Byte :=
  (sites.filter (fun x => (x.kind == .scratch) == scr)).foldl (fun m x =>
    (x.vas.zip (bytes x)).foldl (fun m b => Map.set m (if scr then b.1 else x.code b.1) b.2) m) m

/-- The drill's own bytes after a store are those of before but for the bytes the sites name (R159). -/
structure Stores (d d' : Drill) (bytes : Site → List Byte) (sites : List Site) : Prop where
  spec : d'.chunk.spec = storedBytes false bytes sites d.chunk.spec
  scratch : d'.chunk.scratch = storedBytes true bytes sites d.chunk.scratch
  outside : ∀ a, (∀ x ∈ sites, x.kind ≠ .scratch → ∀ v ∈ x.vas, x.code v ≠ a) → Map.find d'.chunk.spec a = Map.find d.chunk.spec a
  outsideScratch : ∀ a, (∀ x ∈ sites, x.kind = .scratch → ∀ v ∈ x.vas, v ≠ a) →
    Map.find d'.chunk.scratch a = Map.find d.chunk.scratch a

/-- A memory-side cache that lists no byte twice and no line twice; a line stands at its home, and carries headers of its own tiles alone,
none twice. -/
structure CacheSorted (s : State) : Prop where
  newer : Map.sorted s.newer = true
  lines : ∀ h, ((s.home h).lines.map (fun x => x.line)).Nodup
  places : ∀ h, ∀ x ∈ (s.home h).lines, codeHome (512 * x.line) = h
  carried : ∀ h, ∀ x ∈ (s.home h).lines, Map.sorted x.headers = true ∧ ∀ e ∈ x.headers, e.1 / 512 = x.line

/-! ### Events -/

/-- Only the drill of slot k has changed, into d', and the events es are enabled besides. -/
structure OnlyDrill (s t : State) (k : Nat) (d' : Drill) (es : List Instr) : Prop where
  drill : Map.find t.drills k = some d'
  others : ∀ j, j ≠ k → Map.find t.drills j = Map.find s.drills j
  rest : t = { s with drills := t.drills, agenda := s.agenda ++ es }

/-- The event i turns s into t. -/
def Becomes (i : Instr) (s t : State) : Prop := exec i s = .next t

/-! ### Commands of the host -/

/-- A command of an opcode that the device takes and performs at once: its port is linked, its tag holds under its session's key, its
CMDID is new, the device is ready, no command of its session waits before it, and its header is plain (R338 to R344). -/
structure Taken (s : State) (m : Msg) (op : Nat) (x : Session) : Prop where
  linked : s.linked = true
  session : Map.find s.sessions m.session = some x
  tag : tagHolds x.key m = true
  fresh : ∀ e ∈ x.done, e.1 ≠ m.cmdid
  ready : s.mgmt.updating = none ∧ s.mgmt.bring = 6
  first : ∀ p ∈ s.held, p.msg.session ≠ m.session ∧ p.jsn < s.nextJsn
  opcode : m.op = op
  plain : m.reserved = 0 ∧ m.len = m.payload.length

/-- A command numbered, answered and done: its reply is the last sent (R339, R344). -/
structure Answered (s t : State) (m : Msg) (status result : Nat) (payload : List Byte) : Prop where
  reply : ∃ r, t.replies = s.replies ++ [r] ∧ r.session = m.session ∧ r.cmdid = m.cmdid ∧ r.jsn = s.nextJsn ∧ r.status = status ∧
    r.result = BitVec.ofNat 64 result ∧ r.payload = payload
  held : t.held = s.held
  number : t.nextJsn = s.nextJsn + 1

/-- A command numbered and not yet answered. -/
structure Pends (s t : State) (m : Msg) (p : Pending) : Prop where
  held : t.held = s.held ++ [p]
  message : p.msg = m ∧ p.jsn = s.nextJsn
  silent : t.replies = s.replies
  number : t.nextJsn = s.nextJsn + 1

/-- Every commit has been applied at every home. -/
def HomesQuiet (s : State) : Prop := ∀ c ∈ s.commits, c.homes = []

/-- A context that lives, or the global key for a command that may name it. -/
def Lives (s : State) (asid : Nat) : Prop := asid = 0 ∨ ∃ c, Map.find s.ctxs asid = some c ∧ c.dead = false

/-! ### Canonical forms -/

/-- The form the lists of the state are kept in: keys strictly rising, and nothing listed that an unlisted key reads as. -/
structure Canonical (s : State) : Prop where
  bulk : Memory.wf s.bulk = true
  cache : CacheSorted s
  backing : Memory.wf s.backing = true
  pages : Map.canonical (0 : DWord) s.pt = true
  headers : Map.canonical Header.initial s.headers = true
  owners : Map.canonical (0 : DWord) s.owners = true
  drills : Map.sorted s.drills = true
  wgs : Map.sorted s.wgs = true

end Sys2Proof.Machine
end

