-- ==== Sys2Proof/Certificates/Slice0/Obligations.lean ====
section
/-!
DEFINITION. The statements for the provers.
-/

open Sys2Proof Sys2Proof.Machine

/-! ## Integer, predicate and uniform instructions (07_integer_and_control.md) -/

/-- R112: every function of table A in every lane form completes with the exact result, narrowed, and nothing else changed.

R113: `addc` and `subb` in every form. -/
def Obligations.IntegerArithmeticOnLanes : Prop :=
  ((∀ t d a b, t ≤ 1 →
     WritesTableA (.add t d a b) t false d (lane32 a) (lane32 b) ∧
     WritesTableA (.sub t d a b) (2 + t) false d (lane32 a) (lane32 b) ∧
     WritesTableA (.mul t d a b) (4 + t) false d (lane32 a) (lane32 b) ∧
     WritesTableA (.mulh t d a b) (6 + t) false d (lane32 a) (lane32 b) ∧
     WritesTableA (.min t d a b) (8 + t) false d (lane32 a) (lane32 b) ∧
     WritesTableA (.max t d a b) (10 + t) false d (lane32 a) (lane32 b)) ∧
   (∀ d a, WritesTableA (.abs d a) 14 false d (lane32 a) noOperand ∧
     WritesTableA (.neg d a) 15 false d (lane32 a) noOperand) ∧
   (∀ f d a b, f ≤ 15 → f ≠ 12 → f ≠ 13 →
     WritesTableA (.intArith64 f d a b) f true d (lane64 a) (lane64 b) ∧
     WritesTableA (.intArithVs f d a b) f false d (lane32 a) (uni32 b) ∧
     WritesTableA (.intArith64Vs f d a b) f true d (lane64 a) (uni64 b))) ∧
  (∀ d a b,
     WritesCarry (.addc d a b) false false d (lane32 a) (lane32 b) ∧
     WritesCarry (.subb d a b) true false d (lane32 a) (lane32 b) ∧
     WritesCarry (.intArith64 12 d a b) false true d (lane64 a) (lane64 b) ∧
     WritesCarry (.intArith64 13 d a b) true true d (lane64 a) (lane64 b) ∧
     WritesCarry (.intArithVs 12 d a b) false false d (lane32 a) (uni32 b) ∧
     WritesCarry (.intArithVs 13 d a b) true false d (lane32 a) (uni32 b) ∧
     WritesCarry (.intArith64Vs 12 d a b) false true d (lane64 a) (uni64 b) ∧
     WritesCarry (.intArith64Vs 13 d a b) true true d (lane64 a) (uni64 b))

/-- R114: every function of table B in every lane form.

R115, R116: the immediate forms. P is the pattern of R96: by rule S, or under a LIMM hint hi21 and the low 11 bits.

R117, R118, R119: table C. -/
def Obligations.BitFunctionsImmediatesAndTableC : Prop :=
  (((∀ d a b,
      WritesTableB (.and d a b) 0 false d (lane32 a) (lane32 b) ∧
      WritesTableB (.or d a b) 1 false d (lane32 a) (lane32 b) ∧
      WritesTableB (.xor d a b) 2 false d (lane32 a) (lane32 b) ∧
      WritesTableB (.andn d a b) 3 false d (lane32 a) (lane32 b) ∧
      WritesTableB (.shl d a b) 5 false d (lane32 a) (lane32 b) ∧
      WritesTableB (.shr d a b) 6 false d (lane32 a) (lane32 b) ∧
      WritesTableB (.sra d a b) 7 false d (lane32 a) (lane32 b) ∧
      WritesTableB (.rol d a b) 8 false d (lane32 a) (lane32 b)) ∧
    (∀ d a,
      WritesTableB (.not d a) 4 false d (lane32 a) noOperand ∧
      WritesTableB (.popc d a) 9 false d (lane32 a) noOperand ∧
      WritesTableB (.clz d a) 10 false d (lane32 a) noOperand ∧
      WritesTableB (.ctz d a) 11 false d (lane32 a) noOperand ∧
      WritesTableB (.brev d a) 12 false d (lane32 a) noOperand ∧
      WritesTableB (.mov d a) 13 false d (lane32 a) noOperand) ∧
    (∀ f d a b, f ≤ 13 →
      WritesTableB (.logic64 f d a b) f true d (lane64 a) (lane64 b) ∧
      WritesTableB (.logicVs f d a b) f false d (lane32 a) (uni32 b) ∧
      WritesTableB (.logic64Vs f d a b) f true d (lane64 a) (uni64 b))) ∧
   (∀ d a imm,
      let p := fun (h : Hints) => match h.limm with
        | some hi => hi * 2048 + imm % 2048
        | none => wrap 32 (signed 11 imm)
      WritesPlain (.addImm d a imm) false d (fun h r l => (r.vecN a l + p h) % 2 ^ 32) ∧
      WritesPlain (.mulImm d a imm) false d (fun h r l => r.vecN a l * p h % 2 ^ 32) ∧
      WritesPlain (.andImm d a imm) false d (fun h r l => r.vecN a l &&& p h) ∧
      WritesPlain (.orImm d a imm) false d (fun h r l => r.vecN a l ||| p h) ∧
      WritesPlain (.xorImm d a imm) false d (fun h r l => r.vecN a l ^^^ p h) ∧
      WritesPlain (.ldi d imm) false d (fun h _ _ => p h) ∧
      WritesPlain (.movk d imm) false (d + 1) (fun h _ _ => match h.limm with
        | some hi => hi * 2048 + imm % 2048
        | none => imm) ∧
      (∀ o, o ≤ 3 → imm ≤ 31 → WritesPlain (.shiftImm d a o imm) false d (fun _ r l => bitsB (5 + o) 32 (r.vecN a l) imm)))) ∧
  (∀ d a b,
     WritesPlain (.mad d a b) false d (fun h r l => (r.vecN a l * r.vecN b l + r.vecN (h.opc.getD 0) l) % 2 ^ 32) ∧
     WritesPlain (.bfxN32 d a b) false d (fun _ r l =>
       r.vecN a l / 2 ^ fieldPos (r.vecN b l) % 2 ^ fieldLen (r.vecN b l)) ∧
     WritesPlain (.bfxI32 d a b) false d (fun _ r l =>
       let v := r.vecN a l / 2 ^ fieldPos (r.vecN b l) % 2 ^ fieldLen (r.vecN b l)
       if fieldLen (r.vecN b l) = 0 then 0 else wrap 32 (signed (fieldLen (r.vecN b l)) v)) ∧
     WritesPlain (.bfi d a b) false d (fun h r l =>
       let c := r.vecN (h.opc.getD 0) l
       let mask := (2 ^ fieldLen c - 1) * 2 ^ fieldPos c
       (r.vecN a l &&& (2 ^ 32 - 1 - mask)) ||| (r.vecN b l * 2 ^ fieldPos c &&& mask)) ∧
     (∀ n, WritesPlain (.lea n d a b) true d (fun _ r l => (r.pair a l + r.vecN b l * 2 ^ n) % 2 ^ 64)) ∧
     WritesPlain (.cvti 0 d a) false d (fun _ r l => wrap 32 (signed 8 (r.vecN a l))) ∧
     WritesPlain (.cvti 1 d a) false d (fun _ r l => wrap 32 (signed 16 (r.vecN a l))) ∧
     WritesPlain (.cvti 2 d a) false d (fun _ r l => r.vecN a l % 2 ^ 8) ∧
     WritesPlain (.cvti 3 d a) false d (fun _ r l => r.vecN a l % 2 ^ 16) ∧
     WritesPlain (.cvti 4 d a) true d (fun _ r l => wrap 64 (signed 32 (r.vecN a l))) ∧
     WritesPlain (.cvti 5 d a) true d (fun _ r l => r.vecN a l) ∧
     WritesExact (.cvti 6 d a) false d true (fun r l => signed 64 (r.pair a l)) ∧
     WritesExact (.cvti 7 d a) false d false (fun r l => (r.pair a l : Int)))

/-- R120: the uniform instructions. P is extended to 64 bits by sign under rule S. -/
def Obligations.UniformInstructions : Prop :=
  (∀ f d a b, f ≤ 11 ∨ f = 26 ∨ f = 27 →
    let g := if f ≤ 11 then f else f - 12
    let x := fun (h : Hints) (r : Regs) => narrowed (wantsSat h && admitsSat g) (signedA g) 64
      (exactA g 64 (valueOf (signedA g) 64 (r.uniN a)) (valueOf (signedA g) 64 (r.uniN b)))
    Effect (.uniformAlu f d a b) 16 (fun s d0 d' => RegsAre d0.regs d'.regs s.unit.after d0.regs.vec
      (uniWith d0.regs d (x s.unit.hints d0.regs).1) d0.regs.pred
      (d0.regs.status ||| if (x s.unit.hints d0.regs).2 then flagSA else 0) d0.regs.seed)) ∧
  (∀ f d a b, 12 ≤ f → f ≤ 25 →
    WritesUni (.uniformAlu f d a b) d (fun _ r => bitsB (f - 12) 64 (r.uniN a) (r.uniN b))) ∧
  (∀ d a imm,
    let p := fun (h : Hints) => match h.limm with
      | some hi => wrap 64 (signed 32 (hi * 2048 + imm % 2048))
      | none => wrap 64 (signed 32 (wrap 32 (signed 13 imm)))
    WritesUni (.addImmU d a imm) d (fun h r => r.uniN a + p h) ∧
    WritesUni (.mulImmU d a imm) d (fun h r => r.uniN a * p h) ∧
    WritesUni (.andImmU d a imm) d (fun h r => r.uniN a &&& p h) ∧
    WritesUni (.orImmU d a imm) d (fun h r => r.uniN a ||| p h) ∧
    WritesUni (.xorImmU d a imm) d (fun h r => r.uniN a ^^^ p h) ∧
    WritesUni (.ldiU d imm) d (fun h _ => p h) ∧
    WritesUni (.movkU d imm) d (fun h r => r.uniN d % 2 ^ 32 + (match h.limm with
      | some hi => hi * 2048 + imm % 2048
      | none => imm) % 2 ^ 32 * 2 ^ 32) ∧
    (∀ o, o ≤ 3 → imm ≤ 63 → WritesUni (.shiftImmU d a o imm) d (fun _ r => bitsB (5 + o) 64 (r.uniN a) imm)))

/-- R122: `cmp` of uniform registers, major 0x21. -/
def Obligations.UniformCompares : Prop :=
  ∀ t c p a b, t < 4 → c < 8 →
    WritesPred (.cmpU t c p a b) p (fun r =>
      if (if t < 2 then relation (t == 0) 32 c (r.uniN a % 2 ^ 32) (r.uniN b % 2 ^ 32) else relation (t == 2) 64 c (r.uniN a) (r.uniN b))
      then BitVec.allOnes 64 else 0) ∧
    (p < 16 → a < 64 → b < 64 →
      decodeTableWord 32 (0x42000000 + 2 ^ 22 * t + 2 ^ 18 * c + 2 ^ 14 * p + 2 ^ 7 * a + b) = some (.cmpU t c p a b))

/-- R123: `sel`, major 0x14: each written lane takes one element whole by its bit of pN, and the lanes written are those of `em` that a
GUARD lets pass, whatever pN holds. -/
def Obligations.Selection : Prop :=
  ∀ n d a b,
    WritesPlain (.sel n d a b) false d (fun _ r l => if bitAt (r.pred n) l then r.vecN a l else r.vecN b l) ∧
    (n < 16 → d < 128 → a < 128 → b < 128 →
      decodeTableWord 32 (0x28000000 + 2 ^ 21 * n + 2 ^ 14 * d + 2 ^ 7 * a + b) = some (.sel n d a b)) ∧
    (∀ h : Hints, fits (.sel n d a b) = Fits.lane ∧ (h.limm = none → h.round = none → h.cache = none → h.offset = none → h.opc = none →
      hintsFit (.sel n d a b) h = true)) ∧
    (∀ (r : Regs) (h : Hints) neg g l, h.guard = some (neg, g) →
      (l ∈ written r h ↔ l < 64 ∧ bitAt r.em l = true ∧ bitAt (r.pred g) l ≠ neg))

/-- R124: major 0x30 combines whole predicates, all 64 bits, whatever `em` holds; its fields. -/
def Obligations.PredicatesCombined : Prop :=
  (∀ d a b,
    WritesPred (.pand d a b) d (fun r => r.pred a &&& r.pred b) ∧
    WritesPred (.por d a b) d (fun r => r.pred a ||| r.pred b) ∧
    WritesPred (.pxor d a b) d (fun r => r.pred a ^^^ r.pred b) ∧
    WritesPred (.pnot d a) d (fun r => ~~~(r.pred a)) ∧
    WritesPred (.pmovPp d a) d (fun r => r.pred a)) ∧
  (∀ w, w / 2 ^ 25 = 0x30 →
    let d := w / 2 ^ 14 % 16
    let a := w / 2 ^ 7 % 16
    let b := w % 16
    let zeros := w / 2 ^ 11 % 8 = 0 ∧ w / 2 ^ 4 % 8 = 0 ∧ w / 2 ^ 18 % 16 = 0
    decodeTableWord 32 w = if zeros then (match w / 2 ^ 22 % 8 with
      | 0 => some (.pand d a b)
      | 1 => some (.por d a b)
      | 2 => some (.pxor d a b)
      | 3 => if b = 0 then some (.pnot d a) else none
      | 4 => if b = 0 then some (.pmovPp d a) else none
      | _ => none) else none)

/-- R121: compares of lanes, with a vector or a uniform second operand.

R125: predicates moved between classes, all 64 bits, whatever `em` holds. -/
def Obligations.ComparesAndPredicateMoves : Prop :=
  ((∀ t c p a b, t ≤ 3 → c ≤ 7 →
     WritesPredLanes (.cmp t c p a b) p (fun r l => if t < 2 then relation (t == 0) 32 c (lane32 a r l) (lane32 b r l)
       else relation (t == 2) 64 c (lane64 a r l) (lane64 b r l)) ∧
     WritesPredLanes (.cmpVs t c p a b) p (fun r l => if t < 2 then relation (t == 0) 32 c (lane32 a r l) (uni32 b r l)
       else relation (t == 2) 64 c (lane64 a r l) (uni64 b r l)))) ∧
  (∀ d a,
     WritesPred (.pmovPs d a) d (fun r => r.uni a) ∧
     WritesUni (.pmovSp d a) d (fun _ r => (r.pred a).toNat) ∧
     WritesUni (.pcnt d a) d (fun _ r => ((List.range 64).filter (fun k => (r.pred a).getLsbD k)).length) ∧
     WritesUni (.pfirst d a) d (fun _ r => ((List.range 64).takeWhile (fun k => !(r.pred a).getLsbD k)).length))

/-- R22: p15 reads as all ones and ignores every write, and an instruction that writes it completes; a predicate below it holds what was
written, bit L for lane L. -/
def Obligations.PredicateFifteen : Prop :=
  (∀ r : Regs, r.pred 15 = BitVec.allOnes 64) ∧
  (∀ (d : Drill) m, d.setPred 15 m = d) ∧
  (∀ (d : Drill) n m, n < 15 → (d.setPred n m).regs.pred n = m ∧ ∀ k, k ≠ n → (d.setPred n m).regs.pred k = d.regs.pred k) ∧
  (∀ (d : Drill) n ls f l, n < 15 → (∀ x ∈ ls, x < 64) → l < 64 →
    bitAt ((d.setPredLanes n ls f).regs.pred n) l = if l ∈ ls then f l else bitAt (d.regs.pred n) l) ∧
  (∀ a b t c s d, t ≤ 3 → c ≤ 7 → ∀ i ∈ [Instr.pand 15 a b, .por 15 a b, .pxor 15 a b, .pnot 15 a, .pmovPp 15 a, .pmovPs 15 a,
      .cmp t c 15 a b, .cmpVs t c 15 a b, .cmpU t c 15 a b, .fcmp t c 15 a b, .voteAny 15 a, .voteAll 15 a, .voteUni 15 a],
    Executes s d i → HasRoom s d 16 → ∃ t' d', exec i s = .next t' ∧ UnitStep s t' d d' ∧ ∀ n, d'.regs.pred n = d.regs.pred n)

/-! ## Control flow and special registers (R126 to R132, R25 to R32) -/

/-- R127: `bra` by the lanes that meet its predicate: all, none, or some. In the third case the drill goes on with one side, and the
other waits on the stack. The target is cut to the bits a PC has (log 30).

R128: `rcv` pushes a reconvergence point. `join` pops it, or a pending path, and goes on there; on a call's return or an empty
stack it does nothing. -/
def Obligations.BranchesAndJoins : Prop :=
  (∀ h n p o,
     let meet := fun (d : Drill) => d.regs.em &&& (if n = 1 then ~~~(d.regs.pred p) else d.regs.pred p)
     let miss := fun (d : Drill) => d.regs.em &&& ~~~(meet d)
     let target := fun (s : State) => branchTarget s.unit.first o
     let mixed := fun (d : Drill) => meet d ≠ d.regs.em ∧ meet d ≠ 0 ∧ d.regs.stack.length < 32 ∧ d.regs.depth < 4096
     let flags := fun (d : Drill) => if h = 3 then d.regs.status ||| 0x20 else d.regs.status
     Transfers (.bra h n p o) (fun _ d => meet d = d.regs.em) (fun s d => { d.regs with pc := target s }) ∧
     Transfers (.bra h n p o) (fun _ d => meet d ≠ d.regs.em ∧ meet d = 0) (fun s d => { d.regs with pc := s.unit.after }) ∧
     (h ≠ 2 → Transfers (.bra h n p o) (fun _ d => mixed d) (fun s d => { d.regs with
       pc := target s, em := meet d, status := flags d
       stack := { kind := .pending, mask := miss d, pc := s.unit.after } :: d.regs.stack })) ∧
     (h = 2 → Transfers (.bra h n p o) (fun _ d => mixed d) (fun s d => { d.regs with
       pc := s.unit.after, em := miss d
       stack := { kind := .pending, mask := meet d, pc := target s } :: d.regs.stack }))) ∧
  ((∀ o, Transfers (.rcv o) (fun _ d => d.regs.stack.length < 32 ∧ d.regs.depth < 4096) (fun s d => { d.regs with
     pc := s.unit.after
     stack := { kind := .reconverge, mask := d.regs.em, pc := branchTarget s.unit.first o } :: d.regs.stack })) ∧
   (∀ e rest, e.kind ≠ .callReturn → e.mask ≠ 0 →
     Transfers .join (fun _ d => d.regs.stack = e :: rest ∧ d.regs.spilled = 0) (fun _ d => { d.regs with pc := e.pc, em := e.mask, stack := rest })) ∧
   Transfers .join (fun _ d => d.regs.stack = [] ∨ ∃ e rest, d.regs.stack = e :: rest ∧ e.kind = .callReturn)
     (fun s d => { d.regs with pc := s.unit.after }))

/-- R129: the other transfers. `jmp sa` takes bits [47:2] of its register.

R25, R26: where a `join` or `ret` would leave no lane active, the drill takes the next pending path of the stack; and a push that
would make the 4,097th entry traps and leaves the stack as it was. A push beyond 32 entries in the core stores the oldest of them in the
spill region, and a pop that leaves room there reads the newest spilled one back. That the entries above the pending path taken are dropped is the
model's choice (log 85). -/
def Obligations.CallsReturnsAndStackEdges : Prop :=
  ((∀ o, Transfers (.jmp o) (fun _ _ => True) (fun s d => { d.regs with pc := branchTarget s.unit.first o })) ∧
   (∀ a, Transfers (.jmpReg a) (fun _ _ => True)
     (fun _ d => { d.regs with pc := BitVec.ofNat 64 ((d.regs.uni a).toNat % 2 ^ 48 / 4 * 4) })) ∧
   (∀ o, Transfers (.call o) (fun _ d => d.regs.stack.length < 32 ∧ d.regs.depth < 4096) (fun s d => { d.regs with
     pc := branchTarget s.unit.first o
     stack := { kind := .callReturn, mask := d.regs.em, pc := s.unit.after } :: d.regs.stack })) ∧
   (∀ e rest, e.kind = .callReturn → e.mask ≠ 0 →
     Transfers .ret (fun _ d => d.regs.stack = e :: rest ∧ d.regs.spilled = 0) (fun _ d => { d.regs with pc := e.pc, em := e.mask, stack := rest })) ∧
   Traps .ret (fun _ d => d.regs.stack = [] ∨ ∃ e rest, d.regs.stack = e :: rest ∧ e.kind ≠ .callReturn) 12 1 (fun _ _ => 0)) ∧
  ((∀ i e below q rest, (i = .join ∧ e.kind ≠ .callReturn ∨ i = .ret ∧ e.kind = .callReturn) → e.mask = 0 →
     (∀ x ∈ below, x.kind ≠ .pending ∨ x.mask = 0) → q.kind = .pending → q.mask ≠ 0 →
     Transfers i (fun _ d => d.regs.stack = e :: (below ++ q :: rest) ∧ d.regs.spilled = 0)
       (fun _ d => { d.regs with pc := q.pc, em := q.mask, stack := rest })) ∧
   (∀ i e below s d, (i = .join ∧ e.kind ≠ .callReturn ∨ i = .ret ∧ e.kind = .callReturn) → e.mask = 0 →
     (∀ x ∈ below, x.kind ≠ .pending ∨ x.mask = 0) → Executes s d i → d.older = none → d.chunk.expl = none →
     d.regs.stack = e :: below → d.regs.spilled = 0 → ∃ t d' o, exec i s = .next t ∧ Map.find t.drills s.cur = some d' ∧ d'.older = some o ∧
       o.phase = .ended ∧ o.chunk.after = some .exit) ∧
   (∀ o, Traps (.rcv o) (fun _ d => 4096 ≤ d.regs.depth) 11 1 (fun _ _ => 0) ∧
     Traps (.call o) (fun _ d => 4096 ≤ d.regs.depth) 11 1 (fun _ _ => 0)) ∧
   (∀ h n p o, Traps (.bra h n p o) (fun _ d => 4096 ≤ d.regs.depth ∧
     let m := d.regs.em &&& (if n = 1 then ~~~(d.regs.pred p) else d.regs.pred p)
     m ≠ 0 ∧ m ≠ d.regs.em) 11 1 (fun _ _ => 0))) ∧
  ((∀ (i : Instr) (e : StackEntry) (r : Regs) s d s' x old,
     (let target := fun o => branchTarget s.unit.first o
      (∃ o, i = .rcv o ∧ e = { kind := .reconverge, mask := d.regs.em, pc := target o } ∧ r = { d.regs with pc := s.unit.after }) ∨
      (∃ o, i = .call o ∧ e = { kind := .callReturn, mask := d.regs.em, pc := s.unit.after } ∧ r = { d.regs with pc := target o }) ∨
      (∃ h n p o, i = .bra h n p o ∧
        let meet := d.regs.em &&& (if n = 1 then ~~~(d.regs.pred p) else d.regs.pred p)
        let miss := d.regs.em &&& ~~~meet
        meet ≠ d.regs.em ∧ meet ≠ 0 ∧
        e = (if h = 2 then { kind := .pending, mask := meet, pc := target o } else { kind := .pending, mask := miss, pc := s.unit.after }) ∧
        r = (if h = 2 then { d.regs with pc := s.unit.after, em := miss }
          else { d.regs with pc := target o, em := meet, status := if h = 3 then d.regs.status ||| 0x20 else d.regs.status }))) →
     Executes s d i → d.regs.stack.length = 32 → d.regs.stack.getLast? = some old → d.regs.depth < 4096 →
     s.spillSite s.cur d d.regs.spilled = .at s' x →
     HasRoom s { d with chunk := s'.withRefs (coreOf s.cur) (d.chunk.store x (descPrio x.desc) s.unit.first 1 old.bytes) [x] } 48 →
     ∃ t d', exec i s = .next t ∧ Map.find t.drills s.cur = some d' ∧ Unseen s t ∧ d'.wait = .none ∧
       d'.regs = { r with stack := e :: d.regs.stack.dropLast, spilled := d.regs.spilled + 1 } ∧
       Stores d d' (fun _ => old.bytes) [x]) ∧
   (∀ i e rest s d s' x, (i = .join ∧ e.kind ≠ .callReturn ∨ i = .ret ∧ e.kind = .callReturn) → e.mask ≠ 0 → Executes s d i → HasRoom s d 48 →
     d.regs.stack = e :: rest → rest.length < 32 → d.regs.spilled ≠ 0 → s.spillSite s.cur d (d.regs.spilled - 1) = .at s' x →
     s'.readsReady (s'.unitAttr s.cur d) (coreOf s.cur) d.asid [x] = .ok → s'.siteBad (coreOf s.cur) d x = false → CacheSorted s →
     ∃ t d', exec i s = .next t ∧ Map.find t.drills s.cur = some d' ∧ Unseen s t ∧ d'.wait = .none ∧
       d'.regs = { d.regs with pc := e.pc, em := e.mask, spilled := d.regs.spilled - 1
                               stack := rest ++ [StackEntry.ofBytes (x.vas.map (s'.siteByte (coreOf s.cur) d x))] }))

/-- R131: `nop` changes nothing but the PC; `yield` besides lets another drill of its partition issue next.

R193, R194: `sleep` waits until `sr.time` has risen by the low 32 bits of its register, and not at all for zero; `fltq` gives the
number of records of its context. -/
def Obligations.NopYieldSleepAndFaultCount : Prop :=
  (Transfers .nop (fun _ _ => True) (fun s d => { d.regs with pc := s.unit.after }) ∧
   (∀ s d, Executes s d .yield → HasRoom s d 0 → ∃ t d', exec .yield s = .next t ∧ UnitStep s t d d' ∧ d'.wait = .none ∧
     d'.yielded = true ∧ d'.regs = { d.regs with pc := s.unit.after })) ∧
  ((∀ a s d, Executes s d (.sleep a) → HasRoom s d 0 →
     let n := (d.regs.uni a).toNat % 2 ^ 32
     ∃ t d', exec (.sleep a) s = .next t ∧ UnitStep s t d d' ∧ d'.regs = { d.regs with pc := s.unit.after } ∧
       d'.wait = if n = 0 then .none else .sleep (s.clock / 3 + n)) ∧
   (∀ dst s d c, Executes s d (.fltq dst) → HasRoom s d 8 → Map.find s.ctxs d.asid = some c →
     ∃ t d', exec (.fltq dst) s = .next t ∧ UnitStep s t d d' ∧ d'.wait = .none ∧
       RegsAre d.regs d'.regs s.unit.after d.regs.vec (uniWith d.regs dst c.faultCount) d.regs.pred d.regs.status d.regs.seed) ∧
   (∀ k s d ns, Map.find s.drills k = some d → d.wait = .sleep ns → ns ≤ s.clock / 3 → d.chunk.units < d.chunk.limit →
     ∃ t, Becomes (.sleepExpiry k) s t ∧ OnlyDrill s t k { d with wait := .none } []))

/-- R132: `rdsr` into a uniform register and into a vector register; lane numbers for `sr.lane`. `sr.csn` is read once no chunk is
older than the running one.

R28 to R30: `wrsr` writes every defined field of `sr.status`, bits [2:0] of `sr.round`, all of `sr.seed`, bits [47:2] of
`sr.trapvec`; a mode of 110 or 111 traps and leaves `sr.round` as it was. A write of `sr.fault` is held in the chunk. -/
def Obligations.SpecialRegisters : Prop :=
  ((∀ dst n w l s d, 1 ≤ n → n ≤ 17 → Executes s d (.rdsr dst n) → HasRoom s d 8 → (n = 12 → d.older = none) →
     Map.find s.wgs d.wg = some w → Map.find s.launches d.launch = some l →
     ∃ t d', exec (.rdsr dst n) s = .next t ∧ UnitStep s t d d' ∧
       RegsAre d.regs d'.regs s.unit.after d.regs.vec (uniWith d.regs dst (srReads s d w l n)) d.regs.pred d.regs.status d.regs.seed) ∧
   (∀ dst c s d, Executes s d (.rdsr dst 18) → HasRoom s d 8 → Map.find s.ctxs d.asid = some c →
     ∃ t d', exec (.rdsr dst 18) s = .next t ∧ UnitStep s t d d' ∧
       RegsAre d.regs d'.regs s.unit.after d.regs.vec (uniWith d.regs dst (faultReads d c).toNat) d.regs.pred d.regs.status d.regs.seed) ∧
   (∀ dst, WritesPlain (.rdsrV dst 0) false dst (fun _ _ l => l)) ∧
   (∀ dst n w l s d, 1 ≤ n → n ≤ 17 → Executes s d (.rdsrV dst n) → HasRoom s d 256 → (n = 12 → d.older = none) →
     Map.find s.wgs d.wg = some w → Map.find s.launches d.launch = some l →
     ∃ t d', exec (.rdsrV dst n) s = .next t ∧ UnitStep s t d d' ∧
       RegsAre d.regs d'.regs s.unit.after (lanesWith d.regs s.unit.hints false dst (fun _ => srReads s d w l n)) d.regs.uni d.regs.pred
         d.regs.status d.regs.seed)) ∧
  (∀ a,
     Transfers (.wrsr 13 a) (fun _ _ => True) (fun s d => { d.regs with pc := s.unit.after, status := d.regs.uni a &&& 0xFFFF007F }) ∧
     Transfers (.wrsr 14 a) (fun _ d => (d.regs.uni a).toNat % 8 < 6)
       (fun s d => { d.regs with pc := s.unit.after, round := BitVec.ofNat 64 ((d.regs.uni a).toNat % 8) }) ∧
     Traps (.wrsr 14 a) (fun _ d => 6 ≤ (d.regs.uni a).toNat % 8) 10 1 (fun _ _ => 0) ∧
     Transfers (.wrsr 15 a) (fun _ _ => True) (fun s d => { d.regs with pc := s.unit.after, seed := d.regs.uni a }) ∧
     Transfers (.wrsr 16 a) (fun _ _ => True)
       (fun s d => { d.regs with pc := s.unit.after, trapvec := BitVec.ofNat 64 ((d.regs.uni a).toNat % 2 ^ 48 / 4 * 4) }) ∧
     (∀ s d, Executes s d (.wrsr 18 a) → HasRoom s d 8 → ∃ t d', exec (.wrsr 18 a) s = .next t ∧ Map.find t.drills s.cur = some d' ∧
       d'.chunk.fault = some (d.regs.uni a) ∧ d'.regs = { d.regs with pc := s.unit.after } ∧ t.ctxs = s.ctxs ∧
       ∀ x, t.byteAt x = s.byteAt x))

/-- R130, R168, R172, R173: the instructions that end their chunk and need nothing of the state. `chk.beg` opens an explicit chunk with
its fallback, `chk.end` closes one: the chunk that follows is implicit after each of them but `chk.beg`.

R169, R170: `chk.abt` in an explicit chunk restores the drill to the chunk's start, puts the cause and its code in s63 and goes on
at the fallback; outside one it traps. So do, with their causes, a unit that would end an implicit chunk (4), a write the checkpoint
log has no room for (3), and a store that takes a 65th speculative line (2). -/
def Obligations.ChunkInstructions : Prop :=
  (EndsItsChunk .exit true (fun _ d => d.chunk.expl = none) ∧
   EndsItsChunk .fenceS true (fun _ d => d.chunk.expl = none) ∧
   EndsItsChunk .fenceX true (fun _ d => d.chunk.expl = none) ∧
   EndsItsChunk .chkEnd false (fun _ _ => True) ∧
   (∀ o, EndsItsChunk (.chkBeg o) false (fun _ d => d.chunk.expl = none)) ∧
   (∀ o s d, Executes s d (.chkBeg o) → HasRoom s d 0 → d.older = none → d.chunk.expl = none →
     ∃ t d', exec (.chkBeg o) s = .next t ∧ Map.find t.drills s.cur = some d' ∧
       d'.chunk.expl = some { beg := s.unit.first, fallback := branchTarget s.unit.first o }) ∧
   (∀ d a, EndsItsChunk (.scrGrow d a) true (fun _ x => x.chunk.expl = none) ∧
     EndsItsChunk (.scrShrk d a) true (fun _ x => x.chunk.expl = none))) ∧
  (∀ code,
     (∀ s d e, Executes s d (.chkAbt code) → d.chunk.expl = some e → ∃ t, exec (.chkAbt code) s = .next t ∧ Aborted s t s.cur d e 6 code) ∧
     Traps (.chkAbt code) (fun _ d => d.chunk.expl = none) 10 3 (fun _ _ => 0)) ∧
  (∀ s d e i, Executes s d i → d.chunk.expl = some e →
     (endsByNature i = true → i ≠ .chkEnd → ∃ t, exec i s = .next t ∧ Aborted s t s.cur d e 4 0) ∧
     (∀ dst imm, i = .ldiU dst imm → LogItem.uni dst ∉ d.chunk.logged → Config.logBytes < d.logHeld + s.logOthers s.cur + 8 →
       ∃ t, exec i s = .next t ∧ Aborted s t s.cur d e 3 0) ∧
     (∀ o src base v c s' sites, i = .st o src base v c → o ∈ [0, 2, 4, 5, 6] → d.logHeld + s.logOthers s.cur ≤ Config.logBytes →
       Reaches s d .store true (laneAccs d.regs s.unit.hints base v c (widthOf o)) s' sites →
       64 < (storeSites s.unit.hints s.unit.first 1 (fun x => toBytes (widthOf o) (d.regs.sized (widthOf o) src x.acc.lane))
         (d.chunk.enter .store sites) sites).lines.length → ∃ t, exec i s = .next t ∧ Aborted s t s.cur d e 2 0)) ∧
  ((∀ o x y r n, ∀ i ∈ [Instr.exit, .fenceS, .fenceX, .flr x y, .drop x y, .scrGrow x y, .scrShrk x y, .chkBeg o, .lnch x y, .tapePush x y,
       .tapeTurn x y, .engWt r x, .engTst r x, .engCpy r n, .engGth r x n, .engGrd r x n, .engSct r x n, .engCol r x y n, .glzScl r n,
       .glzOff r n, .glzClp r n, .glzFil r n, .glzPrm r n, .glzMap r n, .glzFire r n, .glzRdh r n, .barReg n, .barArv n, .barWt n, .barDrp n],
     endsByNature i = true))

/-! ## Floating point (08_floating_point.md, 03_numbers.md) -/

/-- R45 to R47: `Round` of an exact value that is not zero: within the finite range what the mode chooses of the neighbours, the sign kept
where that is zero, NX where it differs, UF where it then is smaller than the smallest normal; from one unit beyond the largest value on,
the table of R46.

R50, R51: under `sr` it is the neighbour of larger magnitude where the fraction's 32 bits exceed the random bits, which `roundCtx` draws for an
element of a lane from `sr.seed`. Between the largest value and the next one of an unbounded exponent, either, by the mode.

R48: `Round` to an integer type by each mode but `sr`. R46, R147, R148: what becomes of infinities, NaNs and negative values in the formats
that lack them. -/
def Obligations.RoundingOfValues : Prop :=
  (∀ f mode sat r x l, x.sticky = false → x.m ≠ 0 → (f = .e3m5 → x.neg = false) → Fmt.number f f.largest = some l → |x.toRat| ≤ l →
    let y := roundTo f mode sat r x
    ∃ v, f.number y.1 = some v ∧ Chosen f mode x.toRat v (y.1 % 2 == 1) ∧ (v = 0 → y.1 = if x.neg then f.signBit else 0) ∧
      y.2 = if v = x.toRat then 0 else flagNX ||| (if |v| < (2 : ℚ) ^ (1 - (f.bias : Int)) then flagUF else 0)) ∧
  (∀ f mode sat r x l l', x.sticky = false → (f = .e3m5 → x.neg = false) → f.number f.largest = some l → f.number (f.largest - 1) = some l' →
    2 * l - l' ≤ |x.toRat| →
    let sign := if x.neg then f.signBit else 0
    roundTo f mode sat r x = if sat ∨ f = .e2m1 ∨ f = .e3m5 then (sign + f.largest, flagOF ||| flagNX ||| flagSA)
      else (if mode = .rn ∨ mode = .rna ∨ (mode = .rp ∧ x.neg = false) ∨ (mode = .rm ∧ x.neg = true) then
          (if f.hasInf then sign + f.inf else f.nan) else sign + f.largest, flagOF ||| flagNX)) ∧
  (∀ f c x, x.sticky = false → x.m ≠ 0 → (f = .e3m5 → x.neg = false) → Rounds f c x.toRat x.neg (roundTo f c.mode c.sat c.r x)) ∧
  (∀ mode sat seed l k, (roundCtx mode sat seed l k).mode = mode ∧ (roundCtx mode sat seed l k).sat = sat ∧
    (mode = .sr → (roundCtx mode sat seed l k).r = drawn seed l k)) ∧
  ((∀ sgn w mode x, (sgn, w) ∈ [(true, 8), (false, 8), (true, 16), (false, 16), (true, 32), (false, 32), (true, 64), (false, 64)] → mode ≠ .sr →
     x.sticky = false → ∃ n : Int,
       (match mode with
         | .rn => |(n : ℚ) - x.toRat| ≤ 1 / 2 ∧ (|(n : ℚ) - x.toRat| = 1 / 2 → n % 2 = 0)
         | .rna => |(n : ℚ) - x.toRat| ≤ 1 / 2 ∧ (|(n : ℚ) - x.toRat| = 1 / 2 → |x.toRat| < |(n : ℚ)|)
         | .rz => |(n : ℚ)| ≤ |x.toRat| ∧ |x.toRat| < |(n : ℚ)| + 1 ∧ 0 ≤ (n : ℚ) * x.toRat
         | .rp => n = ⌈x.toRat⌉
         | _ => n = ⌊x.toRat⌋) ∧
       roundInt sgn w mode (.fin x) = if n < minOf sgn w then (wrap w (minOf sgn w), flagNV ||| flagSA)
         else if maxOf sgn w < n then (wrap w (maxOf sgn w), flagNV ||| flagSA) else (wrap w n, if (n : ℚ) = x.toRat then 0 else flagNX)) ∧
   (∀ sgn w mode, (∀ q, roundInt sgn w mode (.nan q) = (0, flagNV)) ∧
     ∀ neg, roundInt sgn w mode (.inf neg) = (wrap w (if neg then minOf sgn w else maxOf sgn w), flagNV ||| flagSA))) ∧
  (∀ c : RoundCtx,
    (∀ q neg, cvtTo .e2m1 c (.nan q) = (0, flagNV) ∧ cvtTo .e3m5 c (.nan q) = (0, flagNV) ∧ cvtTo .e3m5 c (.inf true) = (0, flagNV) ∧
      cvtTo .e3m5 c (.inf false) = (0xFF, flagNV ||| flagSA) ∧ cvtTo .e2m1 c (.inf neg) = ((if neg then 8 else 0) + 7, flagNV ||| flagSA) ∧
      cvtTo .e4m3 c (.inf neg) = if c.sat then ((if neg then 0x80 else 0) + 0x7E, flagSA) else (0x7F, flagNV)) ∧
    (∀ f q neg, f.hasInf = true → cvtTo f c (.nan q) = (f.nan, if q then flagNV else 0) ∧
      cvtTo f c (.inf neg) = ((if neg then f.signBit else 0) + f.inf, 0)) ∧
    (∀ x : Ex, x.neg = true → cvtTo .e3m5 c (.fin x) = (0, if x.isZero then 0 else flagNV)) ∧
    (∀ f x, (f = .e3m5 → x.neg = false) → cvtTo f c (.fin x) = roundTo f c.mode c.sat c.r x))

/-- R137 to R143: the f32 instructions, by the operations of table E on values, with the rounding of R134 and the flags of R133. A
second operand that is uniform is its low 32 bits; an immediate is the pattern of R96.

R136 to R142: table E on f16, bf16 and with a uniform second operand, by its codes: the operations of `FloatArithmetic` in that
format.

R47, R133, R137 to R140, R142: the values of those operations. Of finite operands a sum, product or fused product and sum is the exact value rounded
once, an exact zero signed by R47; a quotient, a square root and its reciprocal are the exact value correctly rounded; NaNs, infinities and zeros
by their tables; `fmin` and `fmax` give an operand; `frnd` an integral value in the mode's direction; `fcls` one bit. -/
def Obligations.FloatArithmetic : Prop :=
  (∀ d a b,
     WritesFp (.fadd d a b) d (fun k _ r l => fadd .f32 k (r.value .f32 a l) (r.value .f32 b l)) ∧
     WritesFp (.fsub d a b) d (fun k _ r l => fadd .f32 k (r.value .f32 a l) (r.value .f32 b l).negate) ∧
     WritesFp (.fmul d a b) d (fun k _ r l => fmul .f32 k (r.value .f32 a l) (r.value .f32 b l)) ∧
     WritesFp (.fma d a b) d (fun k h r l =>
       ffma .f32 k (r.value .f32 a l) (r.value .f32 b l) (r.value .f32 (h.opc.getD 0) l)) ∧
     WritesFp (.fmin d a b) d (fun _ _ r l => fminmax .f32 true (r.vecN a l) (r.vecN b l)) ∧
     WritesFp (.fmax d a b) d (fun _ _ r l => fminmax .f32 false (r.vecN a l) (r.vecN b l)) ∧
     WritesFp (.fdiv d a b) d (fun k _ r l => fdiv .f32 k (r.value .f32 a l) (r.value .f32 b l)) ∧
     WritesFp (.fsqrt d a) d (fun k _ r l => fsqrt .f32 k (r.value .f32 a l)) ∧
     WritesFp (.frcp d a) d (fun k _ r l => fdiv .f32 k one (r.value .f32 a l)) ∧
     WritesFp (.frsq d a) d (fun k _ r l => frsq .f32 k (r.value .f32 a l)) ∧
     WritesFp (.frnd d a) d (fun k _ r l => frnd .f32 k.mode (r.vecN a l)) ∧
     WritesPlain (.fabs d a) false d (fun _ r l => r.vecN a l % 2 ^ 31) ∧
     WritesPlain (.fneg d a) false d (fun _ r l => r.vecN a l ^^^ 2 ^ 31) ∧
     WritesPlain (.fcpsgn d a b) false d (fun _ r l => r.vecN a l % 2 ^ 31 + r.vecN b l / 2 ^ 31 * 2 ^ 31) ∧
     WritesPlain (.fcls d a) false d (fun _ r l => fcls .f32 (r.vecN a l)) ∧
     (∀ imm, WritesFp (.faddImm d a imm) d (fun k h r l => fadd .f32 k (r.value .f32 a l) (unpack .f32 (match h.limm with
       | some hi => hi * 2048 + imm % 2048
       | none => imm * 2 ^ 21)))) ∧
     (∀ imm, WritesFp (.fmulImm d a imm) d (fun k h r l => fmul .f32 k (r.value .f32 a l) (unpack .f32 (match h.limm with
       | some hi => hi * 2048 + imm % 2048
       | none => imm * 2 ^ 21))))) ∧
  ((∀ t d a b, t = .f16 ∨ t = .bf16 →
     let i := fun f => if t = .f16 then Instr.fpF16 f d a b else Instr.fpBf16 f d a b
     WritesFp (i 0) d (fun k _ r l => fadd t k (r.value t a l) (r.value t b l)) ∧
     WritesFp (i 1) d (fun k _ r l => fadd t k (r.value t a l) (r.value t b l).negate) ∧
     WritesFp (i 2) d (fun k _ r l => fmul t k (r.value t a l) (r.value t b l)) ∧
     WritesFp (i 3) d (fun k h r l => ffma t k (r.value t a l) (r.value t b l) (r.value t (h.opc.getD 0) l)) ∧
     WritesFp (i 4) d (fun _ _ r l => fminmax t true (r.vecN a l) (r.vecN b l)) ∧
     WritesFp (i 5) d (fun _ _ r l => fminmax t false (r.vecN a l) (r.vecN b l)) ∧
     WritesFp (i 6) d (fun k _ r l => fdiv t k (r.value t a l) (r.value t b l)) ∧
     WritesFp (i 7) d (fun k _ r l => fsqrt t k (r.value t a l)) ∧
     WritesFp (i 8) d (fun k _ r l => fdiv t k one (r.value t a l)) ∧
     WritesFp (i 9) d (fun k _ r l => frsq t k (r.value t a l)) ∧
     WritesFp (i 10) d (fun k _ r l => frnd t k.mode (r.vecN a l)) ∧
     WritesPlain (i 11) false d (fun _ r l => r.vecN a l % 2 ^ 15) ∧
     WritesPlain (i 12) false d (fun _ r l => r.vecN a l % 2 ^ 16 ^^^ 2 ^ 15) ∧
     WritesPlain (i 13) false d (fun _ r l => r.vecN a l % 2 ^ 15 + r.vecN b l % 2 ^ 16 / 2 ^ 15 * 2 ^ 15) ∧
     WritesPlain (i 14) false d (fun _ r l => fcls t (r.vecN a l))) ∧
   (∀ d a b,
     let y := fun (r : Regs) => unpack .f32 (r.uniN b % 2 ^ 32)
     WritesFp (.fpVs 0 d a b) d (fun k _ r l => fadd .f32 k (r.value .f32 a l) (y r)) ∧
     WritesFp (.fpVs 1 d a b) d (fun k _ r l => fadd .f32 k (r.value .f32 a l) (y r).negate) ∧
     WritesFp (.fpVs 2 d a b) d (fun k _ r l => fmul .f32 k (r.value .f32 a l) (y r)) ∧
     WritesFp (.fpVs 3 d a b) d (fun k h r l => ffma .f32 k (r.value .f32 a l) (y r) (r.value .f32 (h.opc.getD 0) l)) ∧
     WritesFp (.fpVs 4 d a b) d (fun _ _ r l => fminmax .f32 true (r.vecN a l) (r.uniN b % 2 ^ 32)) ∧
     WritesFp (.fpVs 5 d a b) d (fun _ _ r l => fminmax .f32 false (r.vecN a l) (r.uniN b % 2 ^ 32)) ∧
     WritesFp (.fpVs 6 d a b) d (fun k _ r l => fdiv .f32 k (r.value .f32 a l) (y r)) ∧
     WritesFp (.fpVs 7 d a b) d (fun k _ r l => fsqrt .f32 k (r.value .f32 a l)) ∧
     WritesFp (.fpVs 8 d a b) d (fun k _ r l => fdiv .f32 k one (r.value .f32 a l)) ∧
     WritesFp (.fpVs 9 d a b) d (fun k _ r l => frsq .f32 k (r.value .f32 a l)) ∧
     WritesFp (.fpVs 10 d a b) d (fun k _ r l => frnd .f32 k.mode (r.vecN a l)) ∧
     WritesPlain (.fpVs 11 d a b) false d (fun _ r l => r.vecN a l % 2 ^ 31) ∧
     WritesPlain (.fpVs 12 d a b) false d (fun _ r l => r.vecN a l ^^^ 2 ^ 31) ∧
     WritesPlain (.fpVs 13 d a b) false d (fun _ r l => r.vecN a l % 2 ^ 31 + r.uniN b % 2 ^ 32 / 2 ^ 31 * 2 ^ 31) ∧
     WritesPlain (.fpVs 14 d a b) false d (fun _ r l => fcls .f32 (r.vecN a l)))) ∧
  (∀ f c, f ∈ [Fmt.f32, .f16, .bf16] →
    let sg := fun (neg : Bool) (b : Nat) => (if neg then f.signBit else 0) + b
    let exact := fun (x : ℚ) (neg : Bool) (y : Nat × Flags) => ∃ e : Ex, e.sticky = false ∧ e.toRat = x ∧ e.neg = neg ∧ y = roundTo f c.mode c.sat c.r e
    let zero := fun (same neg : Bool) => (sg (if same then neg else c.mode == .rm) 0, (0 : Flags))
    let nan := fun (nv : Bool) => (f.nan, if nv then flagNV else 0)
    let inf := fun (neg : Bool) => (sg neg f.inf, (0 : Flags))
    (∀ x y z : Ex, x.sticky = false → y.sticky = false → z.sticky = false →
      let p := x.neg != y.neg
      (x.toRat + y.toRat ≠ 0 → exact (x.toRat + y.toRat) (x.toRat + y.toRat < 0) (fadd f c (.fin x) (.fin y))) ∧
      (x.toRat + y.toRat = 0 → fadd f c (.fin x) (.fin y) = zero (x.m == 0 && x.neg == y.neg) x.neg) ∧
      exact (x.toRat * y.toRat) p (fmul f c (.fin x) (.fin y)) ∧
      (x.toRat * y.toRat + z.toRat ≠ 0 →
        exact (x.toRat * y.toRat + z.toRat) (x.toRat * y.toRat + z.toRat < 0) (ffma f c (.fin x) (.fin y) (.fin z))) ∧
      (x.toRat * y.toRat + z.toRat = 0 → ffma f c (.fin x) (.fin y) (.fin z) = zero (z.m == 0 && p == z.neg) z.neg) ∧
      (x.m ≠ 0 → y.m ≠ 0 → Rounds f c (x.toRat / y.toRat) p (fdiv f c (.fin x) (.fin y))) ∧
      (x.m = 0 → y.m ≠ 0 → fdiv f c (.fin x) (.fin y) = (sg p 0, 0)) ∧
      (y.m = 0 → fdiv f c (.fin x) (.fin y) = if x.m = 0 then nan true else ((inf p).1, flagDZ)) ∧
      (∀ n, fadd f c (.inf n) (.fin y) = inf n ∧ fadd f c (.fin y) (.inf n) = inf n ∧
        fmul f c (.inf n) (.fin y) = (if y.m = 0 then nan true else inf (n != y.neg)) ∧
        fmul f c (.fin y) (.inf n) = (if y.m = 0 then nan true else inf (y.neg != n)) ∧
        fdiv f c (.inf n) (.fin y) = inf (n != y.neg) ∧ fdiv f c (.fin y) (.inf n) = (sg (y.neg != n) 0, 0) ∧
        ffma f c (.fin x) (.fin y) (.inf n) = inf n)) ∧
    (∀ n n', fadd f c (.inf n) (.inf n') = (if n = n' then inf n else nan true) ∧ fmul f c (.inf n) (.inf n') = inf (n != n') ∧
      fdiv f c (.inf n) (.inf n') = nan true) ∧
    (∀ x y z : FVal,
      (x.isNan = true ∨ y.isNan = true → fadd f c x y = nan (x.isSnan || y.isSnan) ∧ fmul f c x y = nan (x.isSnan || y.isSnan) ∧
        fdiv f c x y = nan (x.isSnan || y.isSnan) ∧ ffma f c x y z = nan (x.isSnan || y.isSnan || z.isSnan)) ∧
      (x.isNan = false → y.isNan = false →
        (mulVal x y = none → ffma f c x y z = nan true) ∧ (mulVal x y ≠ none → z.isNan = true → ffma f c x y z = nan z.isSnan) ∧
        (∀ n, mulVal x y = some (.inf n) → z.isNan = false → ffma f c x y z = if z = .inf (!n) then nan true else inf n) ∧
        ((mulVal x y = none ↔ (∃ n e, (x = .inf n ∧ y = .fin e ∨ y = .inf n ∧ x = .fin e) ∧ e.m = 0 ∧ e.sticky = false)) ∧
          ∀ n, mulVal x y = some (.inf n) ↔ (∃ m, x = .inf m ∨ y = .inf m) ∧ mulVal x y ≠ none ∧ n = (x.isNeg != y.isNeg))) ∧
      (x.isNan = true → fsqrt f c x = nan x.isSnan ∧ frsq f c x = nan x.isSnan)) ∧
    (fsqrt f c (.inf false) = inf false ∧ fsqrt f c (.inf true) = nan true ∧ frsq f c (.inf false) = (0, 0) ∧ frsq f c (.inf true) = nan true) ∧
    (∀ x : Ex, x.sticky = false → (x.m = 0 → fsqrt f c (.fin x) = (sg x.neg 0, 0) ∧ frsq f c (.fin x) = ((inf x.neg).1, flagDZ)) ∧
      (x.m ≠ 0 → x.neg = true → fsqrt f c (.fin x) = nan true ∧ frsq f c (.fin x) = nan true)) ∧
    (∀ b x, unpack f b = .fin x → x.m ≠ 0 → x.neg = false → c.mode ∈ [Mode.rn, .rz, .rp, .rm] →
      let root := fun (y : Nat × Flags) (reaches : ℚ → Prop) (stays : ℚ → Prop) => ∃ v, f.number y.1 = some v ∧ 0 < v ∧
        (reaches v ∧ stays v → y.2 = 0) ∧ (¬(reaches v ∧ stays v) → y.2 = flagNX) ∧ match c.mode with
          | .rp => reaches v ∧ ∀ w z, f.number w = some z → 0 < z → reaches z → v ≤ z
          | .rn => ∀ w z, f.number w = some z → 0 < z → (v < z → reaches ((v + z) / 2)) ∧ (z < v → stays ((v + z) / 2))
          | _ => stays v ∧ ∀ w z, f.number w = some z → 0 < z → stays z → z ≤ v
      root (fsqrt f c (.fin x)) (fun v => x.toRat ≤ v * v) (fun v => v * v ≤ x.toRat) ∧
      root (frsq f c (.fin x)) (fun v => 1 ≤ v * v * x.toRat) (fun v => v * v * x.toRat ≤ 1)) ∧
    (∀ a b,
      let x := unpack f a
      let y := unpack f b
      let fl := if x.isSnan || y.isSnan then flagNV else 0
      let p := a % 2 ^ f.width
      let q := b % 2 ^ f.width
      (x.isNan = true → y.isNan = true → fminmax f true a b = (f.nan, fl) ∧ fminmax f false a b = (f.nan, fl)) ∧
      (x.isNan = true → y.isNan = false → fminmax f true a b = (q, fl) ∧ fminmax f false a b = (q, fl)) ∧
      (x.isNan = false → y.isNan = true → fminmax f true a b = (p, fl) ∧ fminmax f false a b = (p, fl)) ∧
      (x.isNan = false → y.isNan = false →
        let below := cmpVal x y = .lt ∨ (cmpVal x y = .eq ∧ x.isNeg = true)
        fminmax f true a b = (if below then p else q, 0) ∧ fminmax f false a b = (if below then q else p, 0))) ∧
    (∀ b, (∀ q, unpack f b = .nan q → frnd f c.mode b = nan q ∧ fcls f b = if q then 1 else 2) ∧
      (∀ n, unpack f b = .inf n → frnd f c.mode b = inf n ∧ fcls f b = if n then 4 else 512) ∧
      ∀ v, f.number b = some v →
        let neg := b / f.signBit % 2 = 1
        (fcls f b = if v = 0 then (if neg then 32 else 64) else if |v| < (2 : ℚ) ^ (1 - (f.bias : Int)) then (if neg then 16 else 128)
          else (if neg then 8 else 256)) ∧
        (c.mode ∈ [Mode.rn, .rz, .rp, .rm] → ∃ n : Int, f.number (frnd f c.mode b).1 = some (n : ℚ) ∧ (frnd f c.mode b).2 = 0 ∧
          (n = 0 → (frnd f c.mode b).1 = if neg then f.signBit else 0) ∧ ((n : ℚ) = v → (frnd f c.mode b).1 = b % 2 ^ f.width) ∧
          match c.mode with
            | .rn => |(n : ℚ) - v| ≤ 1 / 2 ∧ (|(n : ℚ) - v| = 1 / 2 → n % 2 = 0)
            | .rp => n = ⌈v⌉
            | .rm => n = ⌊v⌋
            | _ => |(n : ℚ)| ≤ |v| ∧ |v| < |(n : ℚ)| + 1 ∧ 0 ≤ (n : ℚ) * v)))

/-- R144: the special functions' values of the operands that have an exact or special result, with their flags; NX with any other finite
one; a NaN gives the canonical NaN. The rounding mode in force changes nothing.

R145: `fcmp` writes a bit per lane written: a relation of the operands' values that holds, the infinities beyond every finite value and -0 equal to
+0, or that the operands are unordered; a signalling NaN sets NV. -/
def Obligations.SpecialFunctionsAndFloatCompares : Prop :=
  (∀ d a,
     WritesFp (.fex2 d a) d (fun _ _ r l => special .ex2 (r.vecN a l)) ∧
     WritesFp (.flg2 d a) d (fun _ _ r l => special .lg2 (r.vecN a l)) ∧
     WritesFp (.fsin d a) d (fun _ _ r l => special .sin (r.vecN a l)) ∧
     WritesFp (.fcos d a) d (fun _ _ r l => special .cos (r.vecN a l)) ∧
     WritesFp (.ftanh d a) d (fun _ _ r l => special .tanh (r.vecN a l))) ∧
  ((∀ k : Nat, k ≤ 127 → special .ex2 (intBits k) = (powBits k, 0)) ∧
   (∀ k : Nat, 1 ≤ k → k ≤ 149 → special .ex2 (0x80000000 + intBits k) = (powBits (-(k : Int)), 0)) ∧
   special .ex2 0x80000000 = (0x3F800000, 0) ∧ special .ex2 0xFF800000 = (0, 0) ∧ special .ex2 0x7F800000 = (0x7F800000, 0) ∧
   special .ex2 0x43000000 = (0x7F800000, flagOF ||| flagNX) ∧ special .ex2 0xC3160000 = (0, flagUF ||| flagNX) ∧
   (∀ k : Int, -149 ≤ k → k ≤ 127 → special .lg2 (powBits k) = ((if k < 0 then 0x80000000 else 0) + intBits k.natAbs, 0)) ∧
   special .lg2 0 = (0xFF800000, flagDZ) ∧ special .lg2 0x80000000 = (0xFF800000, flagDZ) ∧ special .lg2 0x7F800000 = (0x7F800000, 0) ∧
   (∀ b, 0x80000000 < b → b ≤ 0xFF800000 → special .lg2 b = (0x7FC00000, flagNV)) ∧
   (∀ b, b = 0 ∨ b = 0x80000000 → special .sin b = (b, 0) ∧ special .tanh b = (b, 0) ∧ special .cos b = (0x3F800000, 0)) ∧
   (∀ b, b = 0x7F800000 ∨ b = 0xFF800000 → special .sin b = (0x7FC00000, flagNV) ∧ special .cos b = (0x7FC00000, flagNV) ∧
     special .tanh b = (b - 0x40000000, 0)) ∧ special .tanh 0x41200000 = (0x3F800000, flagNX) ∧
   (∀ g b, 0x7F800000 < b % 2 ^ 31 → special g b = (0x7FC00000, if b / 2 ^ 22 % 2 = 0 then flagNV else 0)) ∧
   (∀ g b, 0 < b % 2 ^ 31 → b % 2 ^ 31 < 0x7F800000 → (g = .ex2 → ∀ k : Nat, k ≤ 256 → b % 2 ^ 31 ≠ intBits k) →
     (g = .lg2 → b < 2 ^ 31 ∧ ∀ k : Int, -149 ≤ k → k ≤ 127 → Fmt.f32.number b ≠ some ((2 : ℚ) ^ k)) →
     (special g b).2 &&& flagNX = flagNX)) ∧
  (∀ t c p a b, t ≤ 2 → c ≤ 7 →
     let fmt := if t = 0 then Fmt.f32 else if t = 1 then .f16 else .bf16
     let holds := fun (r : Regs) (l : Nat) =>
       let x := r.value fmt a l
       let y := r.value fmt b l
       let unordered := x.isNan || y.isNan
       match c with
       | 0 => !unordered && cmpVal x y == .eq
       | 1 => unordered || cmpVal x y != .eq
       | 2 => !unordered && cmpVal x y == .lt
       | 3 => !unordered && cmpVal x y != .gt
       | 4 => !unordered && cmpVal x y == .gt
       | 5 => !unordered && cmpVal x y != .lt
       | 6 => unordered
       | _ => !unordered
     Effect (.fcmp t c p a b) 16 (fun s d d' => RegsAre d.regs d'.regs s.unit.after d.regs.vec d.regs.uni
       (predLanesWith d.regs s.unit.hints p (holds d.regs))
       (d.regs.status ||| if (written d.regs s.unit.hints).any (fun l => (d.regs.value fmt a l).isSnan || (d.regs.value fmt b l).isSnan)
         then 1 else 0) d.regs.seed)) ∧
  ((∀ x y : Ex, (cmpVal (.fin x) (.fin y) = .lt ↔ x.toRat < y.toRat) ∧ (cmpVal (.fin x) (.fin y) = .eq ↔ x.toRat = y.toRat) ∧
      (cmpVal (.fin x) (.fin y) = .gt ↔ y.toRat < x.toRat)) ∧
   (∀ n (x : Ex), cmpVal (.inf n) (.fin x) = (if n then .lt else .gt) ∧ cmpVal (.fin x) (.inf n) = if n then .gt else .lt) ∧
   (∀ n n', cmpVal (.inf n) (.inf n') = if n = n' then .eq else if n then .lt else .gt))

/-- R146 to R149, R50: `cvt` and `pk2` convert under any of the six modes, `sr` only where the conversion is one of the narrowing ones,
and then advance the count in `sr.seed`; `upk2` widens exactly.

R30, R49, R97: the mode is the ROUND hint's where it names one, else that of `sr.round`; `sr` falls to `rn` where the conversion is not narrowing; the
hint alone asks for saturation.

R150, R151: one operation on both elements of packed pairs. -/
def Obligations.ConversionsAndPackedPairs : Prop :=
  ((∀ f d a e src,
     let mode := fun (h : Hints) (r : Regs) => anyMode (narrowing f src) h r.round
     let formats : List (Nat × Fmt) := [(0, .f32), (1, .f16), (2, .bf16), (3, .e4m3), (4, .e5m2), (5, .e2m1), (6, .e3m5)]
     let types : List (Nat × Bool × Nat) := [(8, true, 32), (9, false, 32), (10, true, 64), (11, false, 64), (12, true, 16), (13, false, 16),
       (14, true, 8), (15, false, 8)]
     let y := fun (h : Hints) (r : Regs) l => cvtResult f (roundCtx (mode h r) (wantsSat h) r.seed l 0)
       (cvtSource src e (if src = 10 ∨ src = 11 then r.pair a l else r.vecN a l))
     (∀ c x t, (f, t) ∈ formats → cvtResult f c x = cvtTo t c x) ∧
     (∀ c x sgn w, (f, sgn, w) ∈ types → cvtResult f c x = (if w < 32 ∧ sgn = true then wrap 32 (signed w (roundInt sgn w c.mode x).1)
       else (roundInt sgn w c.mode x).1, (roundInt sgn w c.mode x).2)) ∧
     (∀ x t, (src, t) ∈ formats → cvtSource src e x = unpack t (x / 2 ^ (t.width * e) % 2 ^ t.width)) ∧
     (∀ x sgn w, (src, sgn, w) ∈ types → cvtSource src e x = ofInt (valueOf sgn w (x / 2 ^ (w * e) % 2 ^ w))) ∧
     Effect (.cvt f d a e src) 528 (fun s x d' => RegsAre x.regs d'.regs s.unit.after
       (lanesWith x.regs s.unit.hints (f == 10 || f == 11) d (fun l => (y s.unit.hints x.regs l).1)) x.regs.uni x.regs.pred
       (x.regs.status ||| flagsOf (written x.regs s.unit.hints) (fun l => (y s.unit.hints x.regs l).2))
       (seedAfter (mode s.unit.hints x.regs) x.regs.seed))) ∧
   (∀ t d a b, t = .f16 ∨ t = .bf16 →
     let mode := fun (h : Hints) (r : Regs) => anyMode true h r.round
     let lo := fun (h : Hints) (r : Regs) l => cvtTo t (roundCtx (mode h r) (wantsSat h) r.seed l 0) (r.value .f32 a l)
     let hi := fun (h : Hints) (r : Regs) l => cvtTo t (roundCtx (mode h r) (wantsSat h) r.seed l 1) (r.value .f32 b l)
     Effect (if t = .f16 then .pk2F16 d a b else .pk2Bf16 d a b) 272 (fun s x d' => RegsAre x.regs d'.regs s.unit.after
       (lanesWith x.regs s.unit.hints false d
         (fun l => (lo s.unit.hints x.regs l).1 % 2 ^ 16 + 2 ^ 16 * ((hi s.unit.hints x.regs l).1 % 2 ^ 16))) x.regs.uni x.regs.pred
       (x.regs.status ||| flagsOf (written x.regs s.unit.hints)
         (fun l => (lo s.unit.hints x.regs l).2 ||| (hi s.unit.hints x.regs l).2))
       (seedAfter (mode s.unit.hints x.regs) x.regs.seed))) ∧
   (∀ t d a, t = .f16 ∨ t = .bf16 →
     let y := fun (r : Regs) l k => cvtTo .f32 RoundCtx.rn (unpack t (r.vecN a l / 2 ^ (16 * k) % 2 ^ 16))
     Effect (if t = .f16 then .upk2F16 d a else .upk2Bf16 d a) 520 (fun s x d' => RegsAre x.regs d'.regs s.unit.after
       (fun n l => if n = d + 1 ∧ l ∈ written x.regs s.unit.hints then BitVec.ofNat 32 (y x.regs l 1).1
         else if n = d ∧ l ∈ written x.regs s.unit.hints then BitVec.ofNat 32 (y x.regs l 0).1 else x.regs.vec n l)
       x.regs.uni x.regs.pred
       (x.regs.status ||| flagsOf (written x.regs s.unit.hints) (fun l => (y x.regs l 0).2 ||| (y x.regs l 1).2)) x.regs.seed))) ∧
  ((∀ t d a b, t = .f16 ∨ t = .bf16 →
     let x := fun (r : Regs) n l k => r.vecN n l / 2 ^ (16 * k) % 2 ^ 16
     let v := fun (r : Regs) n l k => unpack t (x r n l k)
     let both := fun (i : Instr) (g : RoundCtx → Hints → Regs → Nat → Nat → Nat × Flags) => WritesFp i d (fun c h r l =>
       ((g c h r l 0).1 % 2 ^ 16 + 2 ^ 16 * ((g c h r l 1).1 % 2 ^ 16), (g c h r l 0).2 ||| (g c h r l 1).2))
     let pick := fun (i j : Instr) => if t = .f16 then i else j
     both (pick (.hadd2F16 d a b) (.hadd2Bf16 d a b)) (fun c _ r l k => fadd t c (v r a l k) (v r b l k)) ∧
     both (pick (.hmul2F16 d a b) (.hmul2Bf16 d a b)) (fun c _ r l k => fmul t c (v r a l k) (v r b l k)) ∧
     both (pick (.hfma2F16 d a b) (.hfma2Bf16 d a b))
       (fun c h r l k => ffma t c (v r a l k) (v r b l k) (v r (h.opc.getD 0) l k)) ∧
     both (pick (.hmin2F16 d a b) (.hmin2Bf16 d a b)) (fun _ _ r l k => fminmax t true (x r a l k) (x r b l k)) ∧
     both (pick (.hmax2F16 d a b) (.hmax2Bf16 d a b)) (fun _ _ r l k => fminmax t false (x r a l k) (x r b l k))) ∧
   (∀ t d a b, t ≤ 1 →
     let x := fun (r : Regs) n l k => valueOf (t == 0) 16 (r.vecN n l / 2 ^ (16 * k) % 2 ^ 16)
     let sum := fun (h : Hints) (r : Regs) l k => narrowed (wantsSat h) (t == 0) 16 (x r a l k + x r b l k)
     WritesLanes (.iadd2 t d a b) false d (fun h r l => (sum h r l 0).1 + 2 ^ 16 * (sum h r l 1).1)
       (fun h r => if (written r h).any (fun l => (sum h r l 0).2 || (sum h r l 1).2) then flagSA else 0) ∧
     WritesPlain (.imax2 t d a b) false d (fun _ r l =>
       wrap 16 (max (x r a l 0) (x r b l 0)) + 2 ^ 16 * wrap 16 (max (x r a l 1) (x r b l 1))) ∧
     WritesPlain (.imin2 t d a b) false d (fun _ r l =>
       wrap 16 (min (x r a l 0) (x r b l 0)) + 2 ^ 16 * wrap 16 (min (x r a l 1) (x r b l 1))))) ∧
  ((∀ narrow h round,
     let code := match h.round with
       | some x => if x.md then x.mode else round.toNat % 8
       | none => round.toNat % 8
     code ≤ 5 → anyMode narrow h round = match code with
       | 0 => .rn
       | 1 => .rz
       | 2 => .rp
       | 3 => .rm
       | 4 => .rna
       | _ => if narrow then .sr else .rn) ∧
   (∀ dst src, narrowing dst src = true ↔ (src = 0 ∧ dst ∈ [1, 2, 3, 4, 5]) ∨ ((src = 1 ∨ src = 2) ∧ dst ∈ [3, 4, 5])) ∧
   (∀ h, wantsSat h = match h.round with
     | some x => x.sat
     | none => false))

/-! ## Lanes (10_lanes_barriers_traps.md R180 to R185) -/

/-- R182, R183: moves between lanes, of all 64 lanes of a source, active or not.

R184: a vote writes one bit, the same in each lane written: whether some, all, or all or none of those lanes hold the predicate.

R185: a scan gives each lane written the fold, in ascending order, over the contributing lanes up to it; a reduction over all of
them. The first contributor is exact, but that a NaN alone is delivered as 0x7FC00000 (R43), with NV where it signals (R52); the
identity stands where there is none. -/
def Obligations.LaneInstructions : Prop :=
  ((∀ d a b,
      WritesPlain (.shfl d a b) false d (fun _ r l => r.vecN a (r.vecN b l % 64)) ∧
      WritesPlain (.bcst d a b) false d (fun _ r _ => r.vecN a (r.uniN b % 64)) ∧
      WritesPlain (.bcstImm d a b) false d (fun _ r _ => r.vecN a b) ∧
      (∀ f, WritesPlain (.lxbLo f d a b) false d (fun _ r l => if l.testBit f then r.vecN b (l ^^^ 2 ^ f) else r.vecN a l)) ∧
      (∀ f, WritesPlain (.lxbHi f d a b) false d (fun _ r l => if l.testBit f then r.vecN b l else r.vecN a (l ^^^ 2 ^ f)))) ∧
   (∀ p a,
      let vote := fun (i : Instr) (f : List Nat → (Nat → Bool) → Bool) =>
        Effect i 8 (fun s d d' => RegsAre d.regs d'.regs s.unit.after d.regs.vec d.regs.uni
          (predLanesWith d.regs s.unit.hints p (fun _ => f (written d.regs s.unit.hints) (fun l => bitAt (d.regs.pred a) l)))
          d.regs.status d.regs.seed)
      vote (.voteAny p a) (fun ls b => ls.any b) ∧
      vote (.voteAll p a) (fun ls b => ls.all b) ∧
      vote (.voteUni p a) (fun ls b => ls.all b || ls.all (fun l => !b l)))) ∧
  (∀ d a p,
     let values := fun (r : Regs) (scan : Bool) l =>
       ((List.range 64).filter (fun j => bitAt (r.pred p) j && (!scan || decide (j ≤ l)))).map (fun j => r.vecN a j)
     let fold := fun (float : Bool) (empty : Nat) (op : Nat → Nat → Nat × Flags) (xs : List Nat) => match xs with
       | [] => (empty, (0 : Flags))
       | [x] => if float && (unpack .f32 x).isNan then (0x7FC00000, if (unpack .f32 x).isSnan then flagNV else 0) else (x, 0)
       | x :: rest => rest.foldl (fun y z => ((op y.1 z).1, y.2 ||| (op y.1 z).2)) (x, 0)
     let folds := fun (scan red : Instr) (float : Bool) (empty : Nat) (op : Nat → Nat → Nat × Flags) =>
       WritesFp scan d (fun _ _ r l => fold float empty op (values r true l)) ∧ WritesFp red d (fun _ _ r l => fold float empty op (values r false l))
     folds (.lscanAddI32 d a p) (.lredAddI32 d a p) false 0 (fun x y => ((x + y) % 2 ^ 32, 0)) ∧
     folds (.lscanMaxI32 d a p) (.lredMaxI32 d a p) false 0x80000000 (fun x y => (if signed 32 x ≥ signed 32 y then x else y, 0)) ∧
     folds (.lscanMinI32 d a p) (.lredMinI32 d a p) false 0x7FFFFFFF (fun x y => (if signed 32 x ≤ signed 32 y then x else y, 0)) ∧
     folds (.lscanAddF32 d a p) (.lredAddF32 d a p) true 0 (fun x y => fadd .f32 RoundCtx.rn (unpack .f32 x) (unpack .f32 y)) ∧
     folds (.lscanMaxF32 d a p) (.lredMaxF32 d a p) true 0xFF800000 (fun x y => fminmax .f32 false x y) ∧
     folds (.lscanMinF32 d a p) (.lredMinF32 d a p) true 0x7F800000 (fun x y => fminmax .f32 true x y))

/-! ## Tiles, accumulators, training (11_matrix_and_training.md) -/

/-- R207 to R210: moves between vector registers, tiles and accumulators, and their zeroing; the side-band is written by `tmv.e2m1` and
`tzero` alone. An element of `tmv.e2m1` is the exact quotient by its block's scale, rounded, and 0 under a scale of zero, with the flags of R208 and
R46; each element draws the random bits of its lane and of its register's place in the run. -/
def Obligations.TileMoves : Prop :=
  (∀ fmt i t a, (fmt, i) ∈ [(Fmt.bf16, Instr.tmvBf16 t a), (.f16, .tmvF16 t a), (.e4m3, .tmvE4m3 t a), (.e5m2, .tmvE5m2 t a)] →
    let y := fun (s : State) (d : Drill) e => cvtTo fmt (tmvCtx s.unit.hints d.regs e) (f32v (d.regs.vecN (a + e / 64) (e % 64)))
    WritesTile i t (fun s d b => if fmt.width = 16 then (y s d (b / 2)).1 / 256 ^ (b % 2) % 256 else (y s d b).1) none
      (fun s d => d.regs.status ||| flagsOf (List.range (32 * (256 / fmt.width))) (fun e => (y s d e).2))
      (fun s d => seedAfter (anyMode true s.unit.hints d.regs.round) d.regs.seed)) ∧
  (∀ t a b,
    let image := fun (d : Drill) j => d.regs.vecN (b + j / 4 / 64) (j / 4 % 64) / 256 ^ (j % 4) % 256
    let y := fun (s : State) (d : Drill) e => quantise (tmvCtx s.unit.hints d.regs e) (f32v (d.regs.vecN (a + e / 64) (e % 64)))
      (unpack .e3m5 (image d (8 * (e / 64) + e % 64 / 8)))
    WritesTile (.tmvE2m1 t a b) t (fun s d j => (y s d (2 * j)).1 + 16 * (y s d (2 * j + 1)).1) (some (fun _ d j => image d j))
      (fun s d => d.regs.status ||| flagsOf (List.range 2048) (fun e => (y s d e).2))
      (fun s d => seedAfter (anyMode true s.unit.hints d.regs.round) d.regs.seed)) ∧
  (∀ t a, WritesTile (.tmvRaw t a) t (fun _ d j => d.regs.vecN (a + j / 4 / 64) (j / 4 % 64) / 256 ^ (j % 4) % 256) none
    (fun _ d => d.regs.status) (fun _ d => d.regs.seed)) ∧
  (∀ t, WritesTile (.tzero t) t (fun _ _ _ => 0) (some (fun _ _ _ => 0x60)) (fun _ d => d.regs.status) (fun _ d => d.regs.seed)) ∧
  (∀ c a, WritesTiles (.acmvFromVec c a) 4096 (fun _ d m b => d.regs.tileByte m b) (fun _ d m b => d.regs.sideByte m b)
    (fun _ d m e => if m = c then d.regs.vec (a + e / 64) (e % 64) else d.regs.accElem m e)
    (fun _ d => d.regs.status) (fun _ d => d.regs.seed)) ∧
  (∀ c, WritesTiles (.acz c) 4096 (fun _ d m b => d.regs.tileByte m b) (fun _ d m b => d.regs.sideByte m b)
    (fun _ d m e => if m = c then 0 else d.regs.accElem m e) (fun _ d => d.regs.status) (fun _ d => d.regs.seed)) ∧
  (∀ dst t, Effect (.tmvToVec dst t) 1024 (fun s d d' => RegsAre d.regs d'.regs s.unit.after
    (fun n l => if dst ≤ n ∧ n < dst + 4 ∧ bitAt d.regs.em l then
      BitVec.ofNat 32 (ofBytes ((List.range 4).map (fun j => d.regs.tileByte t (4 * (64 * (n - dst) + l) + j)))) else d.regs.vec n l)
    d.regs.uni d.regs.pred d.regs.status d.regs.seed)) ∧
  (∀ dst c, Effect (.acmvToVec dst c) 4096 (fun s d d' => RegsAre d.regs d'.regs s.unit.after
    (fun n l => if dst ≤ n ∧ n < dst + 16 ∧ bitAt d.regs.em l then d.regs.accElem c (64 * (n - dst) + l) else d.regs.vec n l)
    d.regs.uni d.regs.pred d.regs.status d.regs.seed)) ∧
  (∀ c (x y : Ex), x.sticky = false → y.sticky = false → y.neg = false →
    (y.m = 0 → quantise c (.fin x) (.fin y) = (0, if x.m = 0 then 0 else flagNX) ∧ (∀ q, quantise c (.nan q) (.fin y) = (0, flagNV)) ∧
      ∀ n, quantise c (.inf n) (.fin y) = (0, flagNV)) ∧
    (y.m ≠ 0 → (x.m ≠ 0 → Rounds .e2m1 c (x.toRat / y.toRat) x.neg (quantise c (.fin x) (.fin y))) ∧
      (x.m = 0 → quantise c (.fin x) (.fin y) = (if x.neg then 8 else 0, 0)) ∧ (∀ q, quantise c (.nan q) (.fin y) = (0, flagNV)) ∧
      ∀ n, quantise c (.inf n) (.fin y) = ((if n then 8 else 0) + 7, flagNV ||| flagSA))) ∧
  (∀ h (r : Regs) e, tmvCtx h r e = roundCtx (anyMode true h r.round) (wantsSat h) r.seed (e % 64) (e / 64))

/-- R55, R56, R212: a multiply-accumulate gives each of the 32 by 32 elements its row of A times its row of B, added to the old
element; scaled blocks and bands in `mmas`. Everything else of the drill but flags is as it was, and so is the rest of the device. Of finite
operands an element is the exact sum of its terms, rounded once; a sum of zero is +0 but where every term is −0; a NaN among them gives
the canonical NaN, and so do infinities of both signs, which set NV whatever else is a NaN. That the terms of a zero sum are the single
products with their scales is the model's choice (log 87).

R57, R58, R215, R216: `adamw` steps w, m and v of each active lane whose g, m and v are finite by the lines of R57, each rounded once,
leaves the others as they were and counts them; an epsilon that is not a positive finite number traps. -/
def Obligations.MultiplyAccumulatesAndOptimizer : Prop :=
  (let row := fun (r : Regs) n (t : Fmt) i => (List.range (256 / t.width)).map (fun k => unpack t (r.tileElem n t i k))
   let scales := fun (r : Regs) n i => (List.range 8).map (fun b => unpack .e3m5 (r.sideByte n (8 * i + b)).toNat)
   let done := fun (i : Instr) (c : Nat) (el : Regs → Nat → Nat → Nat × Flags) =>
     ∀ s d, Executes s d i → HasRoom s d 4104 → ∃ t d', exec i s = .next t ∧ Map.find t.drills s.cur = some d' ∧
       (∀ m e, e < 1024 → d'.regs.accElem m e = if m = c then BitVec.ofNat 32 (el d.regs (e / 32) (e % 32)).1 else d.regs.accElem m e) ∧
       d'.regs = { d.regs with pc := s.unit.after, acc := d'.regs.acc
                               status := d.regs.status ||| flagsOf (List.range 1024) (fun e => (el d.regs (e / 32) (e % 32)).2) } ∧
       UnitStep { s with agenda := s.agenda ++ [.instructionComplete s.cur] } t { d with inflight := d.inflight + 1 } d' ∧ d'.wait = .none ∧
       d'.yielded = d.yielded
   (∀ f c a b x y, f ≤ 6 →
     done (.mma f c a b x y) c (fun r i j => mmaElem (row r a (mmaFmts f).1 i) (row r b (mmaFmts f).2 j)
       (List.replicate 8 one) (List.replicate 8 one) one one (r.accElem c (32 * i + j)).toNat)) ∧
   (∀ c a b x y u,
     done (.mmas c a b x y u) c (fun r i j => mmaElem (row r a .e2m1 i) (row r b .e2m1 j) (scales r a i) (scales r b j)
       (unpack .bf16 (r.uniN u % 2 ^ 16)) (unpack .bf16 (r.uniN u / 2 ^ 16 % 2 ^ 16)) (r.accElem c (32 * i + j)).toNat))) ∧
  ((∀ (xs ys sa sb : List Ex) (ba bb acc : Ex) old, xs.length = ys.length → xs.length ≤ 64 → sa.length = 8 → sb.length = 8 →
     (∀ x ∈ xs ++ ys ++ sa ++ sb ++ [ba, bb], x.sticky = false) → f32v old = .fin acc →
     let term := fun k => (xs.getD k (Ex.zero false)).toRat * (ys.getD k (Ex.zero false)).toRat * (sa.getD (k / 8) (Ex.zero false)).toRat
       * (sb.getD (k / 8) (Ex.zero false)).toRat * ba.toRat * bb.toRat
     let neg := fun k => ((xs.getD k (Ex.zero false)).neg != (ys.getD k (Ex.zero false)).neg) != (ba.neg != bb.neg)
     let sum := ((List.range xs.length).map term).sum + acc.toRat
     let y := mmaElem (xs.map .fin) (ys.map .fin) (sa.map .fin) (sb.map .fin) (.fin ba) (.fin bb) old
     (sum ≠ 0 → ∃ x : Ex, x.sticky = false ∧ x.toRat = sum ∧ y = roundTo .f32 .rn false 0 x) ∧
     (sum = 0 → (∀ x ∈ sa ++ sb, x.neg = false) →
       y = (if acc.m = 0 ∧ acc.neg = true ∧ ∀ k, k < xs.length → term k = 0 ∧ neg k = true then 0x80000000 else 0, 0))) ∧
   (∀ xs ys sa sb ba bb old, (∃ x ∈ xs ++ ys ++ [ba, bb, f32v old], x.isNan = true) → xs.length = ys.length → xs.length ≤ 64 →
     sa.length = 8 → sb.length = 8 → (mmaElem xs ys sa sb ba bb old).1 = 0x7FC00000) ∧
   (∀ (xs ys : List FVal) n (e : Ex) (k : Nat) old, xs.length = ys.length → xs.length ≤ 64 → xs[k]? = some (FVal.inf n) → ys[k]? = some (FVal.fin e) → e.m ≠ 0 →
     e.neg = false →
     f32v old = .inf (!n) → (mmaElem xs ys (List.replicate 8 one) (List.replicate 8 one) one one old).1 = 0x7FC00000 ∧
       (mmaElem xs ys (List.replicate 8 one) (List.replicate 8 one) one one old).2 &&& flagNV = flagNV)) ∧
  (∀ dst a sb,
     let p := fun (r : Regs) k hi => r.uniN (sb + k) / 2 ^ (32 * hi) % 2 ^ 32
     let mul := fun x y => fmul .f32 RoundCtx.rn (unpack .f32 x) (unpack .f32 y)
     let add := fun x y => fadd .f32 RoundCtx.rn (unpack .f32 x) (unpack .f32 y)
     let fma := fun x y z => ffma .f32 RoundCtx.rn (unpack .f32 x) (unpack .f32 y) (unpack .f32 z)
     let minus := fun x => if x < 2 ^ 31 then x + 2 ^ 31 else x - 2 ^ 31
     let finite := fun (x : Nat) => x / 2 ^ 23 % 256 != 255
     let c := fun (r : Regs) hi => fadd .f32 RoundCtx.rn (unpack .f32 0x3F800000) (unpack .f32 (minus (p r 0 hi)))
     let steps := fun (r : Regs) (l : Nat) => bitAt r.em l && finite (r.vecN a l) && finite (r.vecN (dst + 1) l) && finite (r.vecN (dst + 2) l)
     let el := fun (r : Regs) l =>
       let g1 := mul (r.vecN a l) (p r 2 1)
       let cg := mul (c r 0).1 g1.1
       let m1 := fma (p r 0 0) (r.vecN (dst + 1) l) cg.1
       let gg := mul g1.1 g1.1
       let cgg := mul (c r 1).1 gg.1
       let v1 := fma (p r 0 1) (r.vecN (dst + 2) l) cgg.1
       let vb := mul v1.1 (p r 3 1)
       let vh := if 2 ^ 31 ≤ vb.1 ∧ vb.1 ≤ 0xFF800000 then 0 else vb.1
       let rt := fsqrt .f32 RoundCtx.rn (unpack .f32 vh)
       let dn := add rt.1 (p r 1 1)
       let mb := mul m1.1 (p r 3 0)
       let q := fdiv .f32 RoundCtx.rn (unpack .f32 mb.1) (unpack .f32 dn.1)
       let wq := fma (p r 2 0) (r.vecN dst l) q.1
       let w1 := fma (minus (p r 1 0)) wq.1 (r.vecN dst l)
       (w1.1, m1.1, v1.1, [g1, cg, m1, gg, cgg, v1, vb, rt, dn, mb, q, wq, w1].foldl (fun f z => f ||| z.2) (0 : Flags))
     let stepped := fun (r : Regs) => (List.range 64).filter (fun l => steps r l)
     let skipped := fun (r : Regs) => ((List.range 64).filter (fun l => bitAt r.em l && !steps r l)).length
     let raised := fun (r : Regs) => if stepped r = [] then r.status else r.status ||| (c r 0).2 ||| (c r 1).2
       ||| flagsOf (stepped r) (fun l => (el r l).2.2.2)
     let bad := fun (r : Regs) => !finite (p r 1 1) || p r 1 1 == 0 || decide (2 ^ 31 ≤ p r 1 1)
     (∀ s d, Executes s d (.adamw dst a sb) → HasRoom s d 776 → bad d.regs = false →
       ∃ t d', exec (.adamw dst a sb) s = .next t ∧ UnitStep s t d d' ∧
         (∀ n l, l < 64 → d'.regs.vec n l = if steps d.regs l then
           (if n = dst then BitVec.ofNat 32 (el d.regs l).1 else if n = dst + 1 then BitVec.ofNat 32 (el d.regs l).2.1
             else if n = dst + 2 then BitVec.ofNat 32 (el d.regs l).2.2.1 else d.regs.vec n l) else d.regs.vec n l) ∧
         d'.regs = { d.regs with pc := s.unit.after, v := d'.regs.v, status := d'.regs.status } ∧
         d'.regs.status = (if skipped d.regs = 0 then raised d.regs else (raised d.regs &&& ~~~(0xFFFF0000 : DWord))
           ||| BitVec.ofNat 64 (min 0xFFFF ((raised d.regs).toNat / 65536 % 65536 + skipped d.regs) * 65536))) ∧
     Traps (.adamw dst a sb) (fun _ d => bad d.regs = true) 10 2 (fun _ _ => 0))

/-! ## Memory (09_memory_instructions.md) -/

/-- R157, R158: `ld` and `ldu` that pass their checks write what the drill sees, extended, into a register, pair or quad, and change
no byte. A byte the drill sees is the latest its own chunks have stored, and else what committed memory or the workgroup's scratchpad holds, or, of a
streaming plot, what a line of its core does. -/
def Obligations.LoadsGiveWhatTheDrillSees : Prop :=
  (∀ o dst base v c s d s' sites, o ≤ 6 → Executes s d (.ld o dst base v c) →
    Reaches s d .read true (laneAccs d.regs s.unit.hints base v c (widthOf o)) s' sites →
    HasRoom s { d with chunk := d.chunk.readBy s.unit.hints sites } 1024 → CacheSorted s →
    ∃ t d', exec (.ld o dst base v c) s = .next t ∧ Map.find t.drills s.cur = some d' ∧ Unseen s t ∧ d'.wait = .none ∧
      d'.regs = { d.regs with pc := s.unit.after, v := d'.regs.v } ∧
      (∀ x ∈ sites, ∀ j, j < (if o = 6 then 4 else if o = 5 then 2 else 1) →
        d'.regs.vec (dst + j) x.acc.lane = BitVec.ofNat 32 (loaded o 32 (sees s' s d x) / 2 ^ (32 * j))) ∧
      (∀ n l, l < 64 → ¬(dst ≤ n ∧ n < dst + (if o = 6 then 4 else if o = 5 then 2 else 1) ∧ l ∈ written d.regs s.unit.hints) →
        d'.regs.vec n l = d.regs.vec n l) ∧
      d'.chunk.spec = d.chunk.spec ∧ d'.chunk.scratch = d.chunk.scratch) ∧
  (∀ o dst base s d s' x, o ≤ 6 → Executes s d (.ldu o dst base) →
    Reaches s d .read false [{ lane := 0, ea := eaOf d.regs s.unit.hints base 0 0 0, n := widthOf o }] s' [x] →
    HasRoom s { d with chunk := d.chunk.readBy s.unit.hints [x] } 16 → CacheSorted s →
    ∃ t d', exec (.ldu o dst base) s = .next t ∧ Map.find t.drills s.cur = some d' ∧ Unseen s t ∧ d'.wait = .none ∧
      d'.regs = { d.regs with pc := s.unit.after, u := d'.regs.u } ∧
      (∀ n, d'.regs.uni n = if n = dst + 1 ∧ o = 6 then BitVec.ofNat 64 (sees s' s d x / 2 ^ 64)
        else if n = dst then BitVec.ofNat 64 (loaded o 64 (sees s' s d x)) else d.regs.uni n) ∧
      d'.chunk.spec = d.chunk.spec ∧ d'.chunk.scratch = d.chunk.scratch) ∧
  ((∀ w x, w = 32 ∨ w = 64 → loaded 1 w x = wrap w (signed 8 x) ∧ loaded 3 w x = wrap w (signed 16 x) ∧
      ∀ o ∈ [0, 2, 4, 5, 6], loaded o w x = x) ∧
   (∀ (s : State) core (d : Drill) (x : Site) va,
     let y := s.siteByte core d x va
     (x.kind = .scratch →
       (∀ b, ownLatest d true va = some b → y = b) ∧
       (ownLatest d true va = none → ∀ w, Map.find s.wgs d.wg = some w → y = if va / 32 ∈ w.sectors then Memory.get w.scratch va else 0)) ∧
     (x.kind ≠ .scratch → (∀ b, ownLatest d false (x.code va) = some b → y = b) ∧
       (ownLatest d false (x.code va) = none → y = s.seen x.desc (x.code va) ∨ (x.kind = .streaming ∧
         ∃ l ∈ (s.core core).l1, l.streaming = true ∧ l.key = x.key ∧ l.va = va / 128 * 128 ∧ y = Map.get 0 l.data (va % 128))))) ∧
   (∀ (s : State) x a, (descG x = false → s.seen x a = s.byteAt a) ∧
     (descG x = true → s.seen x a = (s.view x (a / grainSize x * grainSize x)).getD (a % grainSize x) 0)))

/-- R157, R159: `st` that passes its checks holds its lanes' data as the drill's own bytes, in lane order, at the addresses of R152;
no register and no committed byte changes. -/
def Obligations.StoresAreSpeculative : Prop :=
  ∀ o src base v c s d s' sites, o ∈ [0, 2, 4, 5, 6] → Executes s d (.st o src base v c) →
    Reaches s d .store true (laneAccs d.regs s.unit.hints base v c (widthOf o)) s' sites →
    let bytes := fun (x : Site) => toBytes (widthOf o) (d.regs.sized (widthOf o) src x.acc.lane)
    HasRoom s { d with chunk := storeSites s.unit.hints s.unit.first 1 bytes (s'.withRefs (coreOf s.cur) (d.chunk.enter .store sites) sites) sites } 0 →
    ∃ t d', exec (.st o src base v c) s = .next t ∧ Map.find t.drills s.cur = some d' ∧ Unseen s t ∧ d'.wait = .none ∧
      d'.regs = { d.regs with pc := s.unit.after } ∧ Stores d d' bytes sites

/-- R165: `atom` and `cas`, on 32 bits and on pairs: the lanes in ascending order, each reading what lower lanes wrote; the old values
returned, the new ones, by the table of R165, held as the drill's own.

R166: `red` that passes its checks carries each lane's operand in its chunk, in lane order; no register and no byte changes. -/
def Obligations.AtomicsAndReductions : Prop :=
  (let does := fun (i : Instr) (op dst x : Nat) (wide : Bool) (base v c : Nat) => ∀ s d s' sites, Executes s d i →
     Reaches s d .atom false (laneAccs d.regs s.unit.hints base v c (if wide then 8 else 4)) s' sites →
     let get := fun (n l : Nat) => if wide then d.regs.pair n l else d.regs.vecN n l
     let r := atomSites s' s.cur s.unit.hints s.unit.first op dst wide (get dst) (get (if op = 7 then s.unit.hints.opc.getD 0 else x)) sites
       { d with chunk := s'.withRefs (coreOf s.cur) (d.chunk.enter .atom sites) sites } []
     HasRoom s r.1 512 → CacheSorted s →
     ∃ t d', exec i s = .next t ∧ Map.find t.drills s.cur = some d' ∧ Unseen s t ∧ d'.wait = .none ∧
       d'.chunk.spec = r.1.chunk.spec ∧ d'.chunk.scratch = r.1.chunk.scratch ∧
       d'.regs = { d.regs with pc := s.unit.after, v := d'.regs.v } ∧
       (∀ n l, l < 64 → d'.regs.vec n l = lanesWith d.regs s.unit.hints wide dst (laneVal r.2) n l) ∧
       let new := fun (old l : Nat) => atomicNew op (if wide then 64 else 32) old (get dst l) (get (if op = 7 then s.unit.hints.opc.getD 0 else x) l)
       (∀ y, sites = [y] → r.2 = [(y.acc.lane, finds s' s d y)] ∧
         Stores d d' (fun y => toBytes (if wide then 8 else 4) (new (finds s' s d y) y.acc.lane)) [y]) ∧
       (∀ y z, sites = [y, z] → z = { y with acc := { y.acc with lane := z.acc.lane } } → y.vas.Nodup →
         (∀ a ∈ y.vas, ∀ b ∈ y.vas, y.code a = y.code b → a = b) →
         r.2 = [(y.acc.lane, finds s' s d y), (z.acc.lane, new (finds s' s d y) y.acc.lane)] ∧
         Stores d d' (fun x => toBytes (if wide then 8 else 4) (if x = z then new (new (finds s' s d y) y.acc.lane) z.acc.lane
           else new (finds s' s d y) y.acc.lane)) [y, z])
   ∀ dst base v c,
     (∀ o, o ≤ 6 → does (.atom o dst base v c) o dst 0 false base v c ∧ does (.atom64 o dst base v c) o dst 0 true base v c) ∧
     does (.atomCas dst base v c) 7 dst 0 false base v c ∧ does (.atom64Cas dst base v c) 7 dst 0 true base v c) ∧
  (∀ o src base v c s d s' sites, o ≤ 6 → Executes s d (.red o src base v c) →
     Reaches s d .red false (laneAccs d.regs s.unit.hints base v c (redBytes o)) s' sites →
     HasRoom s { d with chunk := d.chunk.enter .red sites } 0 →
     ∃ t d', exec (.red o src base v c) s = .next t ∧ Map.find t.drills s.cur = some d' ∧ Unseen s t ∧ d'.wait = .none ∧
       d'.regs = { d.regs with pc := s.unit.after } ∧ d'.chunk.spec = d.chunk.spec ∧ d'.chunk.scratch = d.chunk.scratch ∧
       d'.chunk.reds = d.chunk.reds ++ sites.map (fun x =>
         { scratch := x.kind == .scratch, addr := if x.kind = .scratch then x.vas.headD 0 else x.code (x.vas.headD 0), op := o
           value := BitVec.ofNat 64 (d.regs.sized (redBytes o) src x.acc.lane) }))

/-- R163: an access to an uncached plot ends an implicit chunk before it, waits for the stamp of the chunk before, and aborts an explicit one
with cause 4. It then is a chunk by itself with one CSN: a load reads the committed bytes; stores, reductions and atomics are performed at their homes, the
lanes' in ascending order, each by its table, and each atomic's old value returned to its lane. -/
def Obligations.UncachedAccesses : Prop :=
  ∀ (o r base v c : Nat) (s : State) (d : Drill) (s' : State),
    let accs := fun n => laneAccs d.regs s.unit.hints base v c n
    let once : List Acc := [{ lane := 0, ea := eaOf d.regs s.unit.hints base 0 0 0, n := widthOf o }]
    let own := fun (i : Instr) (post : State → Drill → Prop) => ∃ t d', exec i s = .next t ∧ OwnChunk s t d d' ∧ post t d'
    let loads := fun (i : Instr) (l : List Acc) (priv : Bool) (n : Nat) (regs : (Site → Nat) → List Site → Drill → Prop) => ∀ sites, Executes s d i →
      ReachesOwn s d .read priv l s' sites → s'.readsReady (s'.unitAttr s.cur d) (coreOf s.cur) d.asid sites = .ok →
      (∀ x ∈ sites, s'.siteBad (coreOf s.cur) d x = false) → HasRoom s { d with chunk := d.chunk.readBy s.unit.hints sites } n → CacheSorted s →
      own i (fun t d' => (∀ a, t.byteAt a = s.byteAt a) ∧ regs (fun x => ofBytes (x.vas.map (fun va => s.seen x.desc (x.code va)))) sites d')
    (∀ i kind priv l ds, (i, kind, priv, l) ∈ [(Instr.ld o r base v c, Access.read, true, accs (widthOf o)), (.ldu o r base, .read, false, once),
        (.st o r base v c, .store, true, accs (widthOf o)), (.atom o r base v c, .atom, false, accs 4), (.atomCas r base v c, .atom, false, accs 4),
        (.atom64 o r base v c, .atom, false, accs 8), (.atom64Cas r base v c, .atom, false, accs 8), (.red o r base v c, .red, false, accs (redBytes o))] →
      Executes s d i → s.addrTrap d kind priv l = none → lookPlots s.cur d l s [] [] = .all s' ds [] → plotTrap kind (s.supOf d.asid) ds = none →
      s.lockTrap (coreOf s.cur) d.asid kind l = none → (∃ a ∈ l, (siteOf d ds a).kind = .uncached) →
      (∀ a ∈ l, (siteOf d ds a).kind ≠ .scratch ∧ descM (siteOf d ds a).desc = false ∧
        ∀ b ∈ (siteOf d ds a).bases, (s'.home (codeHome ((siteOf d ds a).code b))).gated = false) →
      (d.chunk.units ≠ 0 → d.older = none → d.chunk.expl = none → ∃ t, exec i s = .next t ∧ OnlyDrill s t s.cur
        { d with older := some { chunk := d.chunk, phase := .ended }, chunk := Chunk.fresh d.regs 0 4096 none, wait := .none } [.commitPrepare s.cur]) ∧
      (d.older ≠ none → d.chunk.expl = none → ∃ t, exec i s = .next t ∧ ∃ d', Map.find t.drills s.cur = some d' ∧ d' = { d with wait := .stamp }) ∧
      (∀ e, d.chunk.expl = some e → d.older = none → ∃ t, exec i s = .next t ∧ Aborted s t s.cur d e 4 0)) ∧
    (o ≤ 6 → loads (.ld o r base v c) (accs (widthOf o)) true 1024 (fun val sites d' =>
      d'.regs = { d.regs with pc := s.unit.after, v := d'.regs.v } ∧
      (∀ x ∈ sites, ∀ j, j < (if o = 6 then 4 else if o = 5 then 2 else 1) →
        d'.regs.vec (r + j) x.acc.lane = BitVec.ofNat 32 (loaded o 32 (val x) / 2 ^ (32 * j))) ∧
      ∀ n l, l < 64 → ¬(r ≤ n ∧ n < r + (if o = 6 then 4 else if o = 5 then 2 else 1) ∧ l ∈ written d.regs s.unit.hints) →
        d'.regs.vec n l = d.regs.vec n l)) ∧
    (o ≤ 6 → loads (.ldu o r base) once false 16 (fun val sites d' =>
      d'.regs = { d.regs with pc := s.unit.after, u := d'.regs.u } ∧
      ∀ x, sites = [x] → ∀ n, d'.regs.uni n = if n = r + 1 ∧ o = 6 then BitVec.ofNat 64 (val x / 2 ^ 64)
        else if n = r then BitVec.ofNat 64 (loaded o 64 (val x)) else d.regs.uni n)) ∧
    (∀ sites, o ∈ [0, 2, 4, 5, 6] → Executes s d (.st o r base v c) → ReachesOwn s d .store true (accs (widthOf o)) s' sites →
      (∀ x ∈ sites, AtHome s' x) → oneDesc sites →
      let bytes := fun (x : Site) => toBytes (widthOf o) (d.regs.sized (widthOf o) r x.acc.lane)
      HasRoom s { d with chunk := storeSites s.unit.hints s.unit.first 1 bytes (d.chunk.enter .store sites) sites } 0 → CacheSorted s →
      own (.st o r base v c) (fun t d' => d'.regs = { d.regs with pc := s.unit.after } ∧
        ∀ a, t.byteAt a = (Map.find (storedBytes false bytes sites []) a).getD (s.byteAt a))) ∧
    (∀ sites, o ≤ 6 → Executes s d (.red o r base v c) → ReachesOwn s d .red false (accs (redBytes o)) s' sites →
      (∀ x ∈ sites, AtHome s' x) → oneDesc sites → HasRoom s { d with chunk := d.chunk.enter .red sites } 0 → CacheSorted s →
      own (.red o r base v c) (fun t d' => d'.regs = { d.regs with pc := s.unit.after } ∧
        ∀ a, t.byteAt a = reducedRun o (redBytes o) (d.regs.sized (redBytes o) r) sites s.byteAt a)) ∧
    (∀ i wide op sites, (i, op, wide) ∈ [(Instr.atom o r base v c, o, false), (.atomCas r base v c, 7, false), (.atom64 o r base v c, o, true),
        (.atom64Cas r base v c, 7, true)] → (op = o → o ≤ 6) → Executes s d i →
      let n := if wide then 8 else 4
      let get := fun k l => if wide then d.regs.pair k l else d.regs.vecN k l
      let run := atomRun op n (get r) (get (s.unit.hints.opc.getD 0)) sites s.byteAt
      ReachesOwn s d .atom false (accs n) s' sites → (∀ x ∈ sites, AtHome s' x) → oneDesc sites →
      HasRoom s { d with chunk := d.chunk.enter .atom sites } 512 → CacheSorted s →
      (∀ h ∈ s.homes, ∀ e ∈ h.2.dsb, ∀ y ∈ e.write.atoms, y.drill ≠ s.cur) →
      own i (fun t d' => d'.regs = { d.regs with pc := s.unit.after, v := d'.regs.v } ∧
        (∀ m l, l < 64 → d'.regs.vec m l = lanesWith d.regs s.unit.hints wide r (laneVal run.2) m l) ∧ ∀ a, t.byteAt a = run.1 a))

/-- R205, R214: rows between memory and a tile or an accumulator, 32 of 32 bytes or of 128; and `exph`, which adds the counts of the
bins of an accumulator's elements to 32 scratchpad words, each stopping at its largest value. -/
def Obligations.RowsAndHistograms : Prop :=
  (∀ t0 base v c s d s' sites, Executes s d (.tld t0 base v c) →
    Reaches s d .read false (rowAccs d.regs s.unit.hints base v c 32) s' sites →
    HasRoom s { d with chunk := d.chunk.readBy s.unit.hints sites } 1280 → CacheSorted s →
    ∃ t d', exec (.tld t0 base v c) s = .next t ∧ Map.find t.drills s.cur = some d' ∧ Unseen s t ∧ d'.wait = .none ∧
      d'.regs = { d.regs with pc := s.unit.after, tile := d'.regs.tile } ∧
      ∀ m b, b < 1024 → d'.regs.tileByte m b = if m = t0 then rowByte s' s d sites b else d.regs.tileByte m b) ∧
  (∀ a base v c s d s' sites, Executes s d (.acld a base v c) →
    Reaches s d .read false (rowAccs d.regs s.unit.hints base v c 128) s' sites →
    HasRoom s { d with chunk := d.chunk.readBy s.unit.hints sites } 4096 → CacheSorted s →
    ∃ t d', exec (.acld a base v c) s = .next t ∧ Map.find t.drills s.cur = some d' ∧ Unseen s t ∧ d'.wait = .none ∧
      d'.regs = { d.regs with pc := s.unit.after, acc := d'.regs.acc } ∧
      ∀ m e, e < 1024 → d'.regs.accElem m e = if m = a then
        BitVec.ofNat 32 (ofBytes ((List.range 4).map (fun j => rowByte s' s d sites (4 * e + j)))) else d.regs.accElem m e) ∧
  (∀ t0 base v c s d s' sites, Executes s d (.tst t0 base v c) →
    Reaches s d .store false (rowAccs d.regs s.unit.hints base v c 32) s' sites →
    let bytes := fun (x : Site) => (List.range 32).map (fun j => d.regs.tileByte t0 (32 * x.acc.lane + j))
    HasRoom s { d with chunk := storeSites s.unit.hints s.unit.first 1 bytes (s'.withRefs (coreOf s.cur) (d.chunk.enter .store sites) sites) sites } 0 →
    ∃ t d', exec (.tst t0 base v c) s = .next t ∧ Map.find t.drills s.cur = some d' ∧ Unseen s t ∧ d'.wait = .none ∧
      d'.regs = { d.regs with pc := s.unit.after } ∧ Stores d d' bytes sites) ∧
  (∀ a base v c s d s' sites, Executes s d (.acst a base v c) →
    Reaches s d .store false (rowAccs d.regs s.unit.hints base v c 128) s' sites →
    let bytes := fun (x : Site) => (List.range 32).flatMap (fun j => toBytes 4 (d.regs.accElem a (32 * x.acc.lane + j)).toNat)
    HasRoom s { d with chunk := storeSites s.unit.hints s.unit.first 1 bytes (s'.withRefs (coreOf s.cur) (d.chunk.enter .store sites) sites) sites } 0 →
    ∃ t d', exec (.acst a base v c) s = .next t ∧ Map.find t.drills s.cur = some d' ∧ Unseen s t ∧ d'.wait = .none ∧
      d'.regs = { d.regs with pc := s.unit.after } ∧ Stores d d' bytes sites) ∧
  (∀ a sb s d, Executes s d (.exph a sb) →
    let ea := d.regs.uniN sb
    let site : Site := { acc := { lane := 0, ea := ea, n := 128 }, kind := .scratch, desc := 0, key := 0
                         vas := (List.range 128).map (fun j => scrOff ea + j) }
    let bin := fun (x : Nat) => let e := x / 2 ^ 23 % 256
      if e = 0 then 0 else if e = 255 then 31 else min 31 (e + 16 - min (e + 16) 127)
    let sum := fun n => ofBytes ((List.range 4).map (fun j => s.siteByte (coreOf s.cur) d site (scrOff ea + 4 * n + j)))
      + ((List.range 1024).filter (fun e => bin (d.regs.accElem a e).toNat == n)).length
    let bytes := (List.range 32).flatMap (fun n => toBytes 4 (min (sum n) 0xFFFFFFFF))
    s.exphTrap d ea = none → s.holdUp s.cur d .atom [site] = none →
    (s.register s.cur (registers s d .atom [site])).soloBehind s.cur = false → s.siteBad (coreOf s.cur) d site = false →
    HasRoom s { d with chunk := (d.chunk.enter .atom [site]).store site 0 s.unit.first 3 bytes } 8 →
    ∃ t d', exec (.exph a sb) s = .next t ∧ Map.find t.drills s.cur = some d' ∧ Unseen s t ∧ d'.wait = .none ∧
      d'.regs = { d.regs with pc := s.unit.after, status := d.regs.status
        ||| (if (List.range 32).any (fun n => decide (sum n > 0xFFFFFFFF)) then flagSA else 0) } ∧ Stores d d' (fun _ => bytes) [site])

/-- R167: a prefetch changes no register and no byte, and asks for a fill for each lane that is not dropped.

R178, R179: `scr.wait` goes on at once where every sector is present; `plp` writes the descriptor the plot table holds, or zero
outside the global window. -/
def Obligations.PrefetchesWaitsAndProbes : Prop :=
  (∀ i base v c, i = .pfL1 base v c ∨ i = .pfMc base v c → ∀ s d, Executes s d i → HasRoom s d 0 →
     (lastUseHint s.unit.hints = true → HasRoom s ((laneAccs d.regs s.unit.hints base v c 1).foldl
       (fun r a => prefetchLane s.cur r.2 s.unit.hints (i == .pfMc base v c) r.1 a) (s, d)).2 0) →
     ∃ t d', exec i s = .next t ∧ Map.find t.drills s.cur = some d' ∧ Unseen s t ∧ d'.wait = .none ∧
       d'.regs = { d.regs with pc := s.unit.after } ∧ d'.chunk.spec = d.chunk.spec ∧ d'.chunk.rsig = d.chunk.rsig ∧
       (lastUseHint s.unit.hints = false → d'.chunk.wsig = d.chunk.wsig) ∧
       (written d.regs s.unit.hints = [] → t.fills = s.fills) ∧
       (∀ l x, written d.regs s.unit.hints = [l] →
         let ea := eaOf d.regs s.unit.hints base v c l
         isGlobal ea = true → s.plotFor (coreOf s.cur) d.asid ea = .desc x → descValid x = true → descR x = true → descS x = false →
         descTreat x < 2 → descM x = false →
         Map.find t.fills s.nextId = some { core := coreOf s.cur, asid := d.asid, key := keyOf d.asid ea
                                            va := ea / grainSize x * grainSize x, desc := x, prio := accPrio s.unit.hints x
                                            memSide := i == .pfMc base v c, served := false, stale := false, mig := false
                                            attr := s.unitAttr s.cur d, map := GMap.identity, data := [] })) ∧
  ((∀ a b, Transfers (.scrWait a b) (fun s d => (d.regs.uni b).toNat = 0 ∨
       (isScratch (d.regs.uniN a) = true ∧ strayBits (d.regs.uniN a) = false ∧
         scrOff (d.regs.uniN a) + d.regs.uniN b ≤ s.scratchSize d ∧
         ∀ q, 32 * q < scrOff (d.regs.uniN a) + d.regs.uniN b → scrOff (d.regs.uniN a) < 32 * q + 32 → s.present d q = true))
     (fun s d => { d.regs with pc := s.unit.after })) ∧
   (∀ dst a s d, Executes s d (.plp dst a) → HasRoom s d 8 →
     (∀ x, isGlobal (d.regs.uniN a) = true → s.plotFor (coreOf s.cur) d.asid (d.regs.uniN a) = .desc x →
       ∃ t d', exec (.plp dst a) s = .next t ∧ Map.find t.drills s.cur = some d' ∧ Unseen s t ∧ d'.wait = .none ∧
         RegsAre d.regs d'.regs s.unit.after d.regs.vec (uniWith d.regs dst x.toNat) d.regs.pred d.regs.status d.regs.seed) ∧
     (isGlobal (d.regs.uniN a) = false →
       ∃ t d', exec (.plp dst a) s = .next t ∧ UnitStep s t d d' ∧ d'.wait = .none ∧
         RegsAre d.regs d'.regs s.unit.after d.regs.vec (uniWith d.regs dst 0) d.regs.pred d.regs.status d.regs.seed)))

/-- R174, R175, R266: ranges that pass their checks. `flr` ends its chunk; `ivr` invalidates the core's clean lines of the range, those of
one 512-byte grain together, and no other; a length of zero reaches none;
`drop`, stamped as a chunk of its own, makes every byte of the range read as bulk memory last received it, and no other. -/
def Obligations.RangeInstructions : Prop :=
  (∀ a b, EndsItsChunk (.flr a b) true (fun s d => d.chunk.expl = none ∧
    ∃ s' parts, s.checkRange s.cur d (d.regs.uniN a) (d.regs.uniN b) false = .ok s' parts none)) ∧
  (∀ a b s d s' parts, Executes s d (.ivr a b) → HasRoom s d 0 →
    s.checkRange s.cur d (d.regs.uniN a) (d.regs.uniN b) false = .ok s' parts none →
    ∃ t d', exec (.ivr a b) s = .next t ∧ Map.find t.drills s.cur = some d' ∧ Unseen s t ∧
      d'.regs = { d.regs with pc := s.unit.after } ∧ d'.wait = .none ∧
      (∀ n, n ≠ coreOf s.cur → (t.core n).l1 = (s.core n).l1) ∧
      let l1 := (s.core (coreOf s.cur)).l1
      let meets := fun (x : L1Line) => x.key == keyOf d.asid x.va && d.regs.uniN b != 0 && decide (x.va < d.regs.uniN a + d.regs.uniN b) &&
        decide (d.regs.uniN a < x.va + 128)
      let together := fun (x y : L1Line) => x.key == y.key && x.streaming == y.streaming &&
        (if x.gbits = 9 then x.va / 512 == y.va / 512 else x.va / 128 == y.va / 128)
      (∀ x ∈ l1, x.gbits = 5 ∨ x.gbits = 7 ∨ x.gbits = 9) →
      (t.core (coreOf s.cur)).l1 = l1.filter (fun x => !l1.any (fun y => meets y && together y x))) ∧
  (∀ a b s d s' parts sq limit, Executes s d (.drop a b) → HasRoom s d 0 →
    s.checkRange s.cur d (d.regs.uniN a) (d.regs.uniN b) true = .ok s' parts none →
    d.regs.uniN a % 512 = 0 → d.regs.uniN b % 512 = 0 → d.chunk = Chunk.fresh d.regs sq limit none → d.older = none →
    s.commits = [] → s.solos = [] → s.records = [] →
    ∃ t d', exec (.drop a b) s = .next t ∧ Map.find t.drills s.cur = some d' ∧ d'.csn = s.nextCsn ∧ t.nextCsn = s.nextCsn + 1 ∧
      d'.regs = { d.regs with pc := s.unit.after } ∧
      ∀ x, codeHome x < 8 → t.byteAt x =
        if parts.any (fun p => inRange (keyOf d.asid p.1, p.1, p.2.1) x) then Memory.get s.bulk x else s.byteAt x)

/-! ## Barriers, traps, commands (10_lanes_barriers_traps.md, 12_glaze_and_engine_commands.md) -/

/-- R186, R187: a barrier instruction on a barrier of its workgroup ends its chunk, and its operation follows the stamp; a barrier the
workgroup has not, or an arrival or drop without registration, traps.

R187, R188: what a barrier's operation does once its chunk is stamped, the generation it completes included, at which the drills parked on the
barrier perform their operation anew; a drill whose arrival stands parks.

R130, R188, R278: the operation that follows `exit`: every barrier the drill is registered with is dropped, the drill is gone, its slot free; the workgroup's last one keeps its slot and registers, the
workgroup draining, until that has gone. -/
def Obligations.Barriers : Prop :=
  (∀ n,
     let has := fun (s : State) (d : Drill) => ∃ w, Map.find s.wgs d.wg = some w ∧ n < w.nbar
     let plain := fun (s : State) (d : Drill) => d.chunk.expl = none ∧ has s d
     let mine := fun (s : State) (d : Drill) => plain s d ∧ d.reg.getLsbD n = true
     EndsItsChunk (.barReg n) true plain ∧ EndsItsChunk (.barWt n) true plain ∧
     EndsItsChunk (.barArv n) true mine ∧ EndsItsChunk (.barDrp n) true mine ∧
     (∀ i ∈ [Instr.barReg n, .barArv n, .barWt n, .barDrp n], Traps i (fun s d => ¬has s d) 10 6 (fun _ _ => 0)) ∧
     (∀ i ∈ [Instr.barArv n, .barDrp n], Traps i (fun s d => has s d ∧ d.reg.getLsbD n = false) 10 7 (fun _ _ => 0))) ∧
  (∀ k n s d w, Map.find s.drills k = some d → Map.find s.wgs d.wg = some w →
     let b := w.barrier n
     let put := fun (t : State) (b' : Barrier) => ∃ w', Map.find t.wgs d.wg = some w' ∧ w' = { w with barriers := w'.barriers } ∧
       w'.barrier n = b' ∧ ∀ m, m ≠ n → w'.barrier m = w.barrier m
     let goes := fun (t : State) (reg : BitVec 16) => Map.find t.drills k = some { d.opDone with reg := reg }
     let fills := fun (b : Barrier) => 0 < b.e ∧ popcount 16 b.a.toNat = b.e
     let completed := fun (b : Barrier) => if fills b then { e := b.e, a := 0, g := b.g + 1 } else b
     let without := fun (b : Barrier) => { b with a := b.a &&& ~~~((1 : BitVec 16) <<< d.index), e := b.e - 1 }
     let dropped := fun (b : Barrier) => completed (without b)
     let woken := fun (t : State) (m : Nat) => ∀ j x, j ≠ k → Map.find s.drills j = some x → x.wg = d.wg → x.wait = .barrier m →
       Map.find t.drills j = some x ∧ .barrierOperation j ∈ t.agenda
     let left := fun (w' : Workgroup) => ∀ m, w'.barrier m = if d.reg.getLsbD m then dropped (w.barrier m) else w.barrier m
     (d.chunk.after = some (.barReg n) → d.reg.getLsbD n = true → ∃ t, Becomes (.barrierOperation k) s t ∧ OnlyDrill s t k d.opDone []) ∧
     (d.chunk.after = some (.barReg n) → d.reg.getLsbD n = false →
       ∃ t, Becomes (.barrierOperation k) s t ∧ put t { b with e := b.e + 1 } ∧ goes t (d.reg ||| (1 : BitVec 16) <<< n)) ∧
     (d.chunk.after = some (.barArv n) → b.a.getLsbD d.index = false →
       let b' := { b with a := b.a ||| (1 : BitVec 16) <<< d.index }
       ∃ t, Becomes (.barrierOperation k) s t ∧ goes t d.reg ∧ put t (completed b') ∧ (fills b' → woken t n)) ∧
     (d.chunk.after = some (.barWt n) → b.a.getLsbD d.index = false →
       ∃ t, Becomes (.barrierOperation k) s t ∧ goes t d.reg ∧ t.wgs = s.wgs) ∧
     (d.chunk.after = some (.barArv n) ∨ d.chunk.after = some (.barWt n) → b.a.getLsbD d.index = true →
       ∃ t, Becomes (.barrierOperation k) s t ∧ OnlyDrill s t k { d with wait := .barrier n } []) ∧
     (d.chunk.after = some (.barDrp n) →
       ∃ t, Becomes (.barrierOperation k) s t ∧ goes t (d.reg &&& ~~~((1 : BitVec 16) <<< n)) ∧ put t (dropped b) ∧
         (fills (without b) → woken t n)) ∧
     (d.chunk.after = some .exit → Map.erase w.slots d.index ≠ [] → ∃ t w', Becomes (.barrierOperation k) s t ∧ Map.find t.drills k = none ∧
       Map.find t.wgs d.wg = some w' ∧ w'.slots = Map.erase w.slots d.index ∧ w'.state = w.state ∧ left w' ∧ .placeWorkgroup ∈ t.agenda ∧
       ∀ m, m < 16 → d.reg.getLsbD m = true → fills (without (w.barrier m)) → woken t m) ∧
     (d.chunk.after = some .exit → Map.erase w.slots d.index = [] → ∃ t w', Becomes (.barrierOperation k) s t ∧
       Map.find t.drills k = some { d.opDone with reg := 0, wait := .exiting } ∧ Map.find t.wgs d.wg = some w' ∧ w'.slots = w.slots ∧
       w'.state = .draining ∧ left w' ∧ .workgroupExit d.wg ∈ t.agenda ∧
       ∀ m, m < 16 → d.reg.getLsbD m = true → fills (without (w.barrier m)) → woken t m))

/-- R189 to R192: `trap` takes its trap with ResumePC past it; `tret` restores PC and `em` from s60 and s63 and clears H, and traps where
s63 is zero. A trap in an explicit chunk aborts it with cause 5; one behind other units of its chunk commits them first.

R191: a trap with no handler, or one taken while H is set, stops the drill and kills its workgroup, and its record of kind 6 goes to the fault
unit. Where the queue cannot hold it, the event of the fault unit names the context in its ASID field, which is the model's choice (log 54).

R109, R319: a unit that cannot be fetched or decoded takes its trap. -/
def Obligations.TrapsAndReturns : Prop :=
  ((∀ n s d, Executes s d (.trap n) → Deliverable d →
     ∃ t, exec (.trap n) s = .next t ∧ Delivered s t d (s.unit.first.toNat + 4) (13 + 256 + n * 2 ^ 32) 0) ∧
   Transfers .tret (fun _ d => d.regs.uni 63 ≠ 0) (fun _ d => { d.regs with
     pc := BitVec.ofNat 64 ((d.regs.uni 60).toNat % 2 ^ 48 / 4 * 4), em := d.regs.uni 63, h := false }) ∧
   Traps .tret (fun _ d => d.regs.uni 63 = 0) 10 5 (fun _ _ => 0) ∧
   (∀ n s d e, Executes s d (.trap n) → d.chunk.expl = some e → ∃ t, exec (.trap n) s = .next t ∧ Aborted s t s.cur d e 5 0) ∧
   (∀ n s d, Executes s d (.trap n) → d.chunk.expl = none → d.older = none → d.chunk.units ≠ 0 →
     ∃ t, exec (.trap n) s = .next t ∧ OnlyDrill s t s.cur
       { d with older := some { chunk := d.chunk, phase := .ended }, chunk := Chunk.fresh d.regs 0 4096 none, wait := .none }
       [.commitPrepare s.cur])) ∧
  (∀ kind detail addr s d c l, Map.find s.drills s.cur = some d → d.chunk.expl = none → d.older = none → d.chunk.units = 0 →
     d.regs.trapvec = 0 ∨ d.regs.h = true → Map.find s.ctxs d.asid = some c → s.commits = [] → s.records = [] →
     Map.find s.launches d.launch = some l → l.failed = none → s.inReplay l = false →
     (∃ t, exec (.illegalInstruction kind detail addr) s = .next t ∧ (∃ d', Map.find t.drills s.cur = some d' ∧ d' = { d with wait := .stopped, fetched := d'.fetched }) ∧
       Map.find t.launches d.launch = some { l with failed := some 8 } ∧
       (∀ w, Map.find s.wgs d.wg = some w → w.launch = d.launch → .workgroupKill d.wg ∈ t.agenda) ∧
       (s.writable d.asid c.faultq.toNat 64 = false → ∃ r, Map.find t.journal s.nextJsn = some r ∧ r.op = 0x89 ∧ r.asid = d.asid ∧ r.db = 6))) ∧
  (∀ kind detail addr s d, Map.find s.drills s.cur = some d → Deliverable d →
     ∃ t, exec (.illegalInstruction kind detail addr) s = .next t ∧ Delivered s t d s.unit.first.toNat (kind + 256 * detail) addr)

/-- R109, R19, R20, R98: what an instruction word traps with where its unit fails a check, and that the trap is taken before anything
of the instruction; a register at or above its allocation, a pair at an odd register, a privileged register, a hint that does not fit.
Which of several registers the trap names is a free value (log 31). -/
def Obligations.ChecksTrap : Prop :=
  (∀ i s d x, encode i ≠ none → Map.find s.drills s.cur = some d → unitTrap i s.unit.hints d (s.supOf d.asid) = some x → Deliverable d →
    ∃ t, exec i s = .next t ∧ Delivered s t d s.unit.first.toNat (x.kind + 256 * x.detail) x.addr) ∧
  (∀ s d, Map.find s.drills s.cur = some d → s.unit.hints = Hints.empty → Deliverable d →
    let taken := fun (i : Instr) (kind detail addr : Nat) =>
      ∃ t, exec i s = .next t ∧ Delivered s t d s.unit.first.toNat (kind + 256 * detail) addr
    (∀ k v a b, k < 2 → v < 128 → a < 128 → b < 128 → d.nv ≤ v ∨ d.nv ≤ a ∨ d.nv ≤ b →
      ∃ r ∈ [v, a, b], d.nv ≤ r ∧ taken (.add k v a b) 4 0 r) ∧
    (∀ n, n < 16 → d.nt ≤ n → taken (.tzero n) 4 1 n) ∧ (∀ n, n < 8 → d.na ≤ n → taken (.acz n) 4 2 n) ∧
    (∀ v a b, v % 2 = 1 ∨ a % 2 = 1 ∨ b % 2 = 1 → taken (.intArith64 0 v a b) 3 6 0) ∧
    (∀ n, n < 64 → s.supOf d.asid = false → taken (.rdsr n 18) 5 1 0 ∧ taken (.wrsr 18 n) 5 1 0 ∧ taken (.fltq n) 5 1 0)) ∧
  (∀ s d g, Map.find s.drills s.cur = some d → s.unit.hints = { Hints.empty with guard := some g } → Deliverable d →
    ∃ t, exec .nop s = .next t ∧ Delivered s t d s.unit.first.toNat (2 + 256 * 6) 0)

/-- R195, R217, R224, R234, R235: the instructions whose command follows the stamp of their chunk, which they end.

R217, R222, R224, R234: what follows the stamp of a command's chunk. `eng.tst` gives the token; `eng.wt` gives it once COUNT has reached
its value, or parks; `tape.push` pushes; a copy whose ranges pass their checks is handed to its engine with its operand run. -/
def Obligations.CommandsFollowTheirChunk : Prop :=
  (∀ r x y z, ∀ i ∈ [Instr.glzScl r x, .glzOff r x, .glzClp r x, .glzFil r x, .glzPrm r x, .glzMap r x, .glzFire r x, .glzRdh r x,
       .engCpy r x, .engGth r y x, .engGrd r y x, .engSct r y x, .engCol r y z x, .engWt r x, .engTst r x, .tapePush r x,
       .tapeTurn r x, .lnch r x],
     EndsItsChunk i true (fun _ d => d.chunk.expl = none)) ∧
  (∀ k s d w, Map.find s.drills k = some d → Map.find s.wgs d.wg = some w → w.state = .resident →
     let gives := fun (t : State) (dst x : Nat) => ∃ d', Map.find t.drills k = some d' ∧ d'.wait = .none ∧ d'.chunk.after = none ∧
       d'.regs = { d.regs with u := d'.regs.u } ∧ ∀ n, d'.regs.uni n = if n = dst then BitVec.ofNat 64 x else d.regs.uni n
     (∀ r dst, d.chunk.after = some (.engTst r dst) → ∃ t, Becomes (.commandHandoff k) s t ∧
       gives t dst (s.tokenWord d.asid ((d.regs.uni r).toNat % 4096)).toNat) ∧
     (∀ r dst, d.chunk.after = some (.engWt r dst) →
       let i := (d.regs.uni r).toNat % 4096
       let v := (d.regs.uni (r + 1)).toNat % 2 ^ 63
       let x := s.tokenWord d.asid i
       (x.toNat % 2 ^ 63 ≥ v ∨ bitAt x 63 = true → ∃ t, Becomes (.commandHandoff k) s t ∧ gives t dst x.toNat) ∧
       (x.toNat % 2 ^ 63 < v → bitAt x 63 = false →
         ∃ t, Becomes (.commandHandoff k) s t ∧ OnlyDrill s t k { d with wait := .token i v dst } [])) ∧
     (∀ r dst c s' parts, d.chunk.after = some (.tapePush r dst) → s.checkRecord k d (d.regs.uniN r) = .ok s' parts none →
       s'.pushBefore k d = false → Map.find s'.ctxs d.asid = some c → c.tape.length < Config.tapeDepth → Map.find s'.drills k = some d →
       ∃ t, Becomes (.commandHandoff k) s t ∧ gives t dst (c.tape.length + 1) ∧
         Map.find t.ctxs d.asid = some { c with tape := d.regs.uniN r :: c.tape }) ∧
     (∀ r f s' parts, d.chunk.after = some (.engCpy r f) →
       let word := fun n => if r + n < 64 then (d.regs.uni (r + n)).toNat else 0
       let rs := cmdRanges 32 1 0x79 0 f word
       State.cmdChecked (d.opAttr k) (k / 64) d rs s = .ok s' parts none → s.locksFree (k / 64) (cmdLocks d.asid s.nextId rs) = true →
       ∃ t c, Becomes (.commandHandoff k) s t ∧ Map.find t.cmds s.nextId = some c ∧ c.major = 0x79 ∧ c.op = 0 ∧ c.flags = f ∧
         c.asid = d.asid ∧ c.wg = d.wg ∧ c.seq = w.nextSeq ∧ (∀ n, n < 10 → c.word n = word n) ∧ Map.find t.drills k = some d.opDone ∧
         (t.core (k / 64)).locks = (s.core (k / 64)).locks ++ cmdLocks d.asid s.nextId rs ∧ t.agenda = s.agenda ++ [cmdEvent s.nextId c]))

/-! ## Events of drills, commits, fills, engines (13_drills_and_chunks.md, 10, 12, 15, 24) -/

/-- R38, R169, R201, R224, R237, R239, R247, R362: what befalls one drill. Its chunk ends, or aborts with cause 1, after LIMIT units; its
partition turns to it once it has waited to the age cap; an instruction completes; a token wait ends; a solo reservation is granted; a
check of its values fails; it waits long on a page, in its unit, for a launch record or for an uncached atomic. No other drill changes,
but that a wait of another may end where the drill's chunk ends or restarts (R34, R247); a second failed check befalls its core.

The model's choices here: what a wait counts (log 52); that a second failure in the same chunk quarantines the core at that event (log 53), whose
journal entry it is (log 54). -/
def Obligations.DrillEvents : Prop :=
  ∀ k s d, Map.find s.drills k = some d →
    let alone := fun (t : State) => ∀ j, j ≠ k → Map.find t.drills j = Map.find s.drills j
    let ready := fun (x : Drill) => { x with wait := .none }
    let waits := fun (t : State) => ∀ j, j ≠ k → (Map.find t.drills j).map ready = (Map.find s.drills j).map ready
    (d.chunk.limit ≤ d.chunk.units → d.chunk.expl = none → d.older = none →
      ∃ t, Becomes (.chunkLimitReached k) s t ∧ OnlyDrill s t k
        { d with older := some { chunk := d.chunk, phase := .ended }, chunk := Chunk.fresh d.regs 0 4096 none } [.commitPrepare k]) ∧
    (∀ e, d.chunk.limit ≤ d.chunk.units → d.chunk.expl = some e → d.wait = .none →
      ∃ t, Becomes (.chunkLimitReached k) s t ∧ Aborted s t k d e 1 0 ∧ waits t) ∧
    (d.wait = .none → Config.ageCap ≤ d.waited → Becomes (.ageCap k) s { s with turn := k / 64 * 4 + k % 4 }) ∧
    (∃ t, Becomes (.instructionComplete k) s t ∧ OnlyDrill s t k { d with inflight := d.inflight - 1 } []) ∧
    (∀ i v dst, d.wait = .token i v dst → (s.tokenWord d.asid i).toNat % 2 ^ 63 ≥ v ∨ bitAt (s.tokenWord d.asid i) 63 = true →
      ∃ t d', Becomes (.engWtReturn k) s t ∧ alone t ∧ Map.find t.drills k = some d' ∧ d'.wait = .none ∧
        d'.regs = { d.regs with u := d'.regs.u } ∧
        (∀ n, d'.regs.uni n = if n = dst then s.tokenWord d.asid i else d.regs.uni n) ∧
        ∀ x ∈ (t.core (k / 64)).l1, x.streaming = true → x.key ≠ d.asid ∧ x.key ≠ 0) ∧
    (d.chunk.sq = 4 → d.chunk.solo = false → d.chunk.units = 0 → s.running d.wg = true → (∀ o ∈ s.solos, o.key ≠ d.asid ∧ o.drill ≠ k) →
      ∃ t, Becomes (.soloGrant k) s t ∧ alone t ∧ Map.find t.drills k = some { d with chunk := { d.chunk with solo := true } } ∧
        t.solos = s.solos ++ [{ drill := k, key := d.asid, grains := [] }]) ∧
    (d.chunk.replayed = false → (s.core (k / 64)).repair ≠ 2 →
      ∃ t d', Becomes (.residueMismatch k) s t ∧ waits t ∧ Map.find t.drills k = some d' ∧ d'.regs = d.chunk.start ∧ d'.chunk.replayed = true ∧
        d'.chunk.units = 0 ∧ d'.chunk.sq = d.chunk.sq ∧ d'.chunk.limit = d.chunk.limit ∧ d'.older = d.older) ∧
    (∀ w, d.chunk.replayed = true → Map.find s.wgs d.wg = some w → w.core = k / 64 → w.state ≠ .saved →
      (s.core (k / 64)).absent = false → (s.core (k / 64)).repair ≠ 2 →
      ∃ t, Becomes (.residueMismatch k) s t ∧ (t.core (k / 64)).repair = 2 ∧ t.nextJsn = s.nextJsn + 1) ∧
    (∀ n w, d.wait = .page n ∨ s.waitsOn k d = some n → Map.find s.wgs d.wg = some w → w.state = .resident → s.policyOf w ≠ 2 → s.coopWg w = false →
      ∃ t, Becomes (.pageWaitTimeout k) s t ∧ Map.find t.wgs d.wg = some { w with waitsFor := some n } ∧ t.drills = s.drills ∧
        t.agenda = s.agenda ++ [.preempt d.wg])

/-- R242, R243: a chunk's way to its stamp. Its dirty grains go to their homes, each of which holds the prepare; then its request goes to
its slice, which at its visit of the order token stamps it with the next CSN, so that a commit with its grains and its W is on its way and the fault
queue it wrote is its context's; or refuses it: the drill restarts with SQ advanced and LIMIT halved. -/
def Obligations.ChunksCommit : Prop :=
  ∀ k s d o, Map.find s.drills k = some d → d.older = some o →
    (o.phase = .ended → o.chunk.grains = [] →
      ∃ t, Becomes (.commitPrepare k) s t ∧ OnlyDrill s t k { d with older := some { o with phase := .prepared } } [.commitRequest k]) ∧
    (o.phase = .ended → o.chunk.grains ≠ [] →
      let hs := (o.chunk.grains.map (fun g => codeHome g.addr)).dedup
      ∃ t, Becomes (.commitPrepare k) s t ∧ OnlyDrill s t k { d with older := some { o with phase := .preparing hs } }
        (hs.map (fun h => .homePrepare h k))) ∧
    (∀ h hs, o.phase = .preparing hs → h ∈ hs → (s.home h).gated = false →
      let gs := (d.grainWrites k o.chunk).filter (fun g => codeHome g.addr == h)
      s.entryRoom h gs = true → gs.any s.migHolds = false →
      let rest := hs.filter (fun x => x != h)
      ∃ t, Becomes (.homePrepare h k) s t ∧
        Map.find t.drills k = some { d with older := some { o with phase := if rest = [] then .prepared else .preparing rest } } ∧
        (t.home h) = { s.home h with prepares := (s.home h).prepares ++ [{ drill := k, grains := gs }] } ∧
        (∀ j, j ≠ h → t.home j = s.home j) ∧ t.agenda = s.agenda ++ (if rest = [] then [.commitRequest k] else [])) ∧
    (o.phase = .prepared →
      ∃ t, Becomes (.commitRequest k) s t ∧ Map.find t.drills k = some { d with older := some { o with phase := .requested } } ∧
        t.requests = s.requests ++ [{ drill := k, slice := k / 64 / 32, key := d.asid, r := o.chunk.rsig, w := o.chunk.wsig
                                      horizon := s.horizon (k / 64) }] ∧
        t.agenda = s.agenda ++ [.orderTokenVisit]) ∧
    (∀ q, s.requests = [q] → q.drill = k → q.slice = s.token → s.records = [] →
      let refused := o.chunk.solo = false ∧
        (q.horizon + Config.arbiterWindow < s.nextCsn ∨ ∃ c ∈ s.commits, c.csn > q.horizon ∧ q.r.meets c.w = true)
      (refused → ∃ t d', Becomes .orderTokenVisit s t ∧ Map.find t.drills k = some d' ∧ d'.older = none ∧ d'.regs = o.chunk.start ∧
        d'.chunk.sq = min (o.chunk.sq + 1) 4 ∧ (o.chunk.expl = none → d'.chunk.limit = max (o.chunk.limit / 2) 256) ∧
        t.nextCsn = s.nextCsn ∧ t.token = (s.token + 1) % 8) ∧
      (¬refused → s.heldBySolo k q.key q.w = false → o.chunk.scratch = [] → o.chunk.reds = [] →
        (∀ r a, o.chunk.after ≠ some (.scrGrow r a)) →
        ∃ t d', Becomes .orderTokenVisit s t ∧ Map.find t.drills k = some d' ∧ d'.older = none ∧ d'.csn = s.nextCsn ∧
          d'.regs = d.regs ∧ t.nextCsn = s.nextCsn + 1 ∧ t.requests = [] ∧ t.token = (s.token + 1) % 8 ∧
          (∃ y ∈ t.commits, y.csn = s.nextCsn ∧ y.key = d.asid ∧ y.grains = d.grainWrites k o.chunk ∧ y.w = o.chunk.wsig) ∧
          ∀ v c, o.chunk.fault = some v → Map.find s.ctxs d.asid = some c → Map.find t.ctxs d.asid = some { c with faultq := v }))

/-- R242, R244, R249, R256, R172, R163, R165, R166, R259, R328: what homes and cores do with a commit. A home fires the tile where the commit
writes into one whose map is not identity, then writes the commit's bytes under their mask, then its reductions and its atomics in
order, each atomic's old value going to its drill's lane; a core that has drills of its key drops the clean lines its W contains and
squashes the chunk whose R meets it; a streaming acknowledgement lets a `fence.s` go on. -/
def Obligations.CommitsAreApplied : Prop :=
  (∀ h s c g, s.commits = [c] → h ∈ c.homes → c.grains = [g] → c.drops = [] → c.lastUse = [] → codeHome g.addr = h → g.edit = none →
    s.defers g = false → s.bad = [] → s.records = [] → s.headerBad g.desc g.addr = false → g.size = grainSize g.desc → CacheSorted s →
    Map.sorted g.bytes = true → (∀ b ∈ g.bytes, b.1 < g.size) →
    let fires := descG g.desc = true ∧ g.writes = true ∧ (s.headerAt g.addr).map ≠ GMap.identity
    let m := if fires then putAt s.byteAt g.addr (s.view g.desc g.addr) else s.byteAt
    ∃ t, Becomes (.homeApplyCommit h) s t ∧ (∀ a, t.byteAt a = g.leaves m a) ∧
      t.headerAt g.addr = (if fires then (s.headerAt g.addr).change GMap.identity else s.headerAt g.addr) ∧
      (∃ c', t.commits = [c'] ∧ c'.csn = c.csn ∧ h ∉ c'.homes) ∧
      ∀ x d, g.atoms = [x] → x.lane < 64 → Map.find s.drills x.drill = some d →
        let old := numberIn (g.bytesLeave m) x.addr x.bytes
        g.reds = [] → ∃ d', Map.find t.drills x.drill = some d' ∧ d'.regs = { d.regs with v := d'.regs.v } ∧ ∀ n l, l < 64 →
          d'.regs.vec n l = if n = x.reg ∧ l = x.lane then BitVec.ofNat 32 old
            else if x.wide ∧ n = x.reg + 1 ∧ l = x.lane then BitVec.ofNat 32 (old / 2 ^ 32) else d.regs.vec n l) ∧
  (∀ n s c, s.commits = [c] → n ∈ c.cores → c.released = true → c.plot = none →
    ∃ t, Becomes (.broadcastApply n) s t ∧ (∃ c', t.commits = [c'] ∧ c'.csn = c.csn ∧ n ∉ c'.cores) ∧
      (∀ x ∈ (t.core n).l1, x.key = c.key → ∀ q, q < (if x.gbits = 5 then 4 else 1) →
        c.wb.has (grainKey x.key (x.va + 32 * q) x.gbits) = false) ∧
      (∀ k d, Map.find s.drills k = some d → k / 64 = n → d.asid = c.key → d.older = none → d.chunk.solo = false →
        d.chunk.rsig.meets c.wb = true → ∃ d', Map.find t.drills k = some d' ∧ d'.regs = d.chunk.start) ∧
      ∀ a, t.byteAt a = s.byteAt a) ∧
  (∀ h csn k s d, (∀ c ∈ s.commits, c.csn = csn → h ∉ c.homes) → (∀ e ∈ (s.home h).dsb, e.csn ≠ csn) →
    Map.find s.drills k = some d → d.wait = .fence → d.chunk.after = some .fenceS → d.pendingStreams = [(h, csn)] →
    ∃ t d', Becomes (.streamAck h csn) s t ∧ Map.find t.drills k = some d' ∧ d'.wait = .none ∧ d'.chunk.after = none ∧
      ∀ x ∈ (t.core (k / 64)).l1, x.streaming = false)

/-- R60 to R68, R226, R227, R327, R328: glazed tiles. What a reader sees of a tile through the map its header holds; the map each command
installs, in normal form, and how it composes onto an older one, constant or not: every field of the map that results, and when the tile is fired
instead, on overflow or, on a plot with E, on an inexact Round; what its commit leaves at the home, firing the tile first where composition asks for it;
what `glz.fire` and `glz.rdh` commit. That an image of `glz.rdh` in the scratchpad lands with the command's engine chunk is the model's choice (log 13). -/
def Obligations.GlazedTiles : Prop :=
  let ident : GMap := { a := 0x3F800000, b := 0x80000000, lo := 0xFF800000, hi := 0x7F800000, sh := 0, m := 0 }
  let num := fun (w : Word) => Fmt.number .f32 w.toNat
  let isZero := fun (w : Word) => w.toNat % 2 ^ 31 = 0
  let bound := fun (w : Word) => num w ≠ none ∨ w = 0xFF800000 ∨ w = 0x7F800000
  (∀ (s : State) d a i, descG d = true →
    let f := descFmt d
    let k := tileK (grainSize d) f
    let w := f.width / 8
    let x := fun j => numberIn s.byteAt (a + j * w) w
    let g := (s.headerAt a).map
    let p := permute k g i
    let y := ofBytes (((s.view d a).drop (i * w)).take w)
    i < grainSize d / w → g.sh < k → g.m < 2 ^ k →
    (g = ident → y = x i) ∧
    (g ≠ ident → g.a = 0 → y = (cvtTo f RoundCtx.rn (unpack .f32 g.b.toNat)).1) ∧
    (g ≠ ident → g.a ≠ 0 → (∃ q, unpack f (x p) = .nan q) → y = f.nan) ∧
    (∀ v A B, g ≠ ident → g.a ≠ 0 → f.number (x p) = some v → num g.a = some A → num g.b = some B →
      (g.lo = 0xFF800000 ∨ num g.lo ≠ none) → (g.hi = 0x7F800000 ∨ num g.hi ≠ none) →
      let low := match num g.lo with | some l => max l (A * v + B) | none => A * v + B
      let z := match num g.hi with | some h => min h low | none => low
      z ≠ 0 → ∃ e : Ex, e.sticky = false ∧ e.toRat = z ∧ y = (roundTo f .rn false 0 e).1)) ∧
  (∀ g : GMap,
    (isZero g.a → g.normal = { ident with a := 0, b := g.normal.b } ∧
      ((∃ q, unpack .f32 g.b.toNat = .nan q) → g.normal.b = 0x7FC00000) ∧
      ∀ B L H, num g.b = some B → num g.lo = some L → num g.hi = some H → num g.normal.b = some (min H (max L B))) ∧
    (∀ L H, ¬isZero g.a → num g.lo = some L → num g.hi = some H → g.normal = if L = H then { ident with a := 0, b := g.lo } else g)) ∧
  (∀ exact k m1 m2 n, 3 ≤ k → k ≤ 9 → m1.sh < k → m2.sh < k → m1.m < 2 ^ k → m2.m < 2 ^ k →
    (isZero m2.a → compose exact k m1 m2 = .install m2.normal) ∧
    (¬isZero m1.a → ¬isZero m2.a → compose exact k m1 m2 = .install n → ¬isZero n.a →
      (∀ i, i < 2 ^ k → permute k n i = permute k m1 (permute k m2 i)) ∧
      (∀ A1 A2, num m1.a = some A1 → num m2.a = some A2 →
        (∃ e : Ex, e.sticky = false ∧ e.toRat = A2 * A1 ∧ n.a.toNat = (roundTo .f32 .rn false 0 e).1) ∧
        ∀ B1 B2, num m1.b = some B1 → num m2.b = some B2 → A2 * B1 + B2 ≠ 0 →
          ∃ e : Ex, e.sticky = false ∧ e.toRat = A2 * B1 + B2 ∧ n.b.toNat = (roundTo .f32 .rn false 0 e).1))) ∧
  (∀ exact k m1 m2 A2 B2, 3 ≤ k → k ≤ 9 → m1.sh < k → m2.sh < k → m1.m < 2 ^ k → m2.m < 2 ^ k → ¬isZero m2.a →
    num m2.a = some A2 → num m2.b = some B2 → bound m2.lo → bound m2.hi → boundValue m2.lo ≤ boundValue m2.hi →
    let fin := fun (y : Nat × Flags) => Fmt.number .f32 y.1 ≠ none
    let inexact := fun (y : Nat × Flags) => y.2 &&& flagNX ≠ 0
    let const := fun b => Composed.install { ident with a := 0, b := b }
    (isZero m1.a →
      ((∃ q, unpack .f32 m1.b.toNat = .nan q) → compose exact k m1 m2 = const 0x7FC00000) ∧
      (∀ neg, unpack .f32 m1.b.toNat = .inf neg → compose exact k m1 m2 = const (if neg = decide (0 < A2) then m2.lo else m2.hi)) ∧
      (∀ B1, num m1.b = some B1 → boundValue m2.lo < ⊤ → ⊥ < boundValue m2.hi →
        let low := match num m2.lo with | some l => max l (A2 * B1 + B2) | none => A2 * B1 + B2
        let c := match num m2.hi with | some h => min h low | none => low
        ∃ y, roundsTo c y ∧
          (exact = true ∧ fin y ∧ inexact y → compose exact k m1 m2 = .fireThen m2.normal) ∧
          (¬(exact = true ∧ fin y ∧ inexact y) → compose exact k m1 m2 = const (BitVec.ofNat 32 y.1)))) ∧
    (∀ A1 B1, ¬isZero m1.a → num m1.a = some A1 → num m1.b = some B1 → bound m1.lo → bound m1.hi →
      ∃ ya yb yl yh, roundsTo (A2 * A1) ya ∧ roundsTo (A2 * B1 + B2) yb ∧ BoundMaps A2 B2 m1.lo yl ∧ BoundMaps A2 B2 m1.hi yh ∧
        let spills := ¬fin ya ∨ ¬fin yb ∨ (num m1.lo ≠ none ∧ ¬fin yl) ∨ (num m1.hi ≠ none ∧ ¬fin yh)
        let fires := spills ∨ (exact = true ∧ (inexact ya ∨ inexact yb ∨ inexact yl ∨ inexact yh))
        let l := BitVec.ofNat 32 (if A2 < 0 then yh.1 else yl.1)
        let h := BitVec.ofNat 32 (if A2 < 0 then yl.1 else yh.1)
        let lo := if boundValue m2.lo < boundValue l then l else m2.lo
        let hi := if boundValue h < boundValue m2.hi then h else m2.hi
        (fires → compose exact k m1 m2 = .fireThen m2.normal) ∧
        (¬fires → boundValue hi < boundValue lo →
          compose exact k m1 m2 = const (if boundValue h < boundValue m2.lo then m2.lo else m2.hi)) ∧
        (¬fires → boundValue lo ≤ boundValue hi →
          compose exact k m1 m2 = .install (GMap.normal { a := BitVec.ofNat 32 ya.1, b := BitVec.ofNat 32 yb.1, lo := lo, hi := hi,
                                                          sh := (m1.sh + m2.sh) % k, m := rotlK k m2.m m1.sh ^^^ m1.m })))) ∧
  (∀ h s c g m, s.commits = [c] → h ∈ c.homes → c.grains = [g] → c.drops = [] → c.lastUse = [] → codeHome g.addr = h → g.bytes = [] →
    g.reds = [] → g.atoms = [] → g.fire = false → g.edit = some m → g.size = grainSize g.desc → descG g.desc = true →
    s.defers g = false → (∃ b l loc, s.walk g.addr = .page b l loc) → (s.headerAt g.addr).good = true → s.bad = [] → s.records = [] →
    CacheSorted s →
    let old := s.headerAt g.addr
    ∃ t, Becomes (.homeApplyCommit h) s t ∧
      match compose (descExact g.desc) (tileK g.size (descFmt g.desc)) old.map m with
      | .install n => (∀ a, t.byteAt a = s.byteAt a) ∧ t.headerAt g.addr = old.change n
      | .fireThen n => (∀ a, t.byteAt a = putAt s.byteAt g.addr (s.view g.desc g.addr) a) ∧
          t.headerAt g.addr = (old.change ident).change n) ∧
  (∀ n s c d, Running s n c 0x78 c.op → c.word 2 ≠ 0 → c.word 1 / 65536 = (c.word 1 + c.word 2 - 1) / 65536 →
    s.plotOf c.asid (c.word 1) = .desc d → descValid d = true → descM d = false → descG d = true →
    let g := grainSize d
    let lo := fun k => BitVec.ofNat 32 (c.word k)
    let hi := fun k => BitVec.ofNat 32 (c.word k / 2 ^ 32)
    let issued : GMap := match c.op with
      | 0 => { ident with a := lo 3 }
      | 1 => { ident with b := lo 3 }
      | 2 => { ident with lo := lo 3, hi := hi 3 }
      | 3 => { ident with a := 0, b := lo 3 }
      | 4 => { ident with sh := c.word 3 % 16, m := c.word 3 / 2 ^ 16 % 512 }
      | _ => { a := lo 3, b := hi 3, lo := lo 4, hi := hi 4, sh := c.word 5 % 16, m := c.word 5 / 2 ^ 16 % 512 }
    let tiles := (upto (c.word 2 / g)).map (fun k => c.word 1 + k * g)
    let code := fun va => locate d (keyOf c.asid va) va
    let commits := fun (gs : List GrainWrite) => Stampable s c { writes := [], lands := [], grains := gs } →
      ∃ t y, Becomes (.engineChunkCommit n) s t ∧ t.nextCsn = s.nextCsn + 1 ∧ y ∈ t.commits ∧ y.csn = s.nextCsn ∧ y.grains = gs
    c.word 1 % g = 0 → c.word 2 % g = 0 → (∀ va ∈ tiles, s.pendingAt (code va) g = false) → (∀ va ∈ tiles, (s.headerAt (code va)).good = true) →
    (c.op ≤ 5 → glazeParamBad (c.op == 3) (descFmt d) (tileK g (descFmt d)) issued = false →
      commits (tiles.map (fun va => { c.tileWrite d va with edit := some issued.normal }))) ∧
    ((∀ va ∈ tiles, ∀ e ∈ (s.home (codeHome (code va))).dsb, e.write.addr ≠ code va) →
      (c.op = 6 → commits ((tiles.filter (fun va => (s.headerAt (code va)).map ≠ ident)).map (fun va => { c.tileWrite d va with fire := true }))) ∧
      (c.op = 7 → c.asid < 2 ^ 16 → overlap (c.word 1) (c.word 2) (c.word 3) (32 * tiles.length) = false →
        c.word 3 + 32 * tiles.length ≤ 2 ^ 48 →
        let ws := [(c.word 3, tiles.flatMap (fun va => (s.headerAt (code va)).bytes))]
        Stampable s c (storesOf ws) → ∃ t, Becomes (.engineChunkCommit n) s t ∧ Puts s t n c ws) ∧
      (∀ w, c.op = 7 → isScratch (c.word 3) = true → c.word 3 % 32 = 0 → overlap (c.word 1) (c.word 2) (c.word 3) (32 * tiles.length) = false →
        Map.find s.wgs c.wg = some w → Stampable s c (storesOf []) →
        let image := tiles.flatMap (fun va => (s.headerAt (code va)).bytes)
        let o := scrOff (c.word 3)
        ∃ t w', Becomes (.engineChunkCommit n) s t ∧ t.nextCsn = s.nextCsn + 1 ∧ Map.find t.cmds n = none ∧ Map.find t.wgs c.wg = some w' ∧
          (∀ j, j < image.length → Memory.get w'.scratch (o + j) = image.getD j 0 ∧ (o + j) / 32 ∈ w'.sectors) ∧
          ∀ j, j < o ∨ o + image.length ≤ j → Memory.get w'.scratch j = Memory.get w.scratch j)))

/-- R167, R249, R313: a prefetch's fill. The home serves it with what a reader sees, at once or, after MIG, from level 1 again; it
is installed when it arrives, whole as its grain's sectors, a streaming line with its data, and with a glaze header entry where its tile's map is not
identity (R325), unless a broadcast has made it stale. It takes a free way of its set, or that of the least recently used clean line, one of priority 0
first; where its sets have neither, nothing is installed (R266, R268). One of the memory side is touched at its home, and nothing is installed. Which of
several lines of priority 0 gives up its way is the model's choice (log 57).

R175 to R177: the write-backs of `flr` put every byte of its range into bulk memory and change none; `scr.shrk` sets the scratchpad's
size and gives it in its register; `scr.grow` sets it at the stamp of its chunk, for every drill of the workgroup, and gives it once
the ways are free, or leaves it where it cannot be. -/
def Obligations.FillsAndRangeEvents : Prop :=
  (∀ n s f, Map.find s.fills n = some f → f.served = false →
     let a := locate f.desc f.key f.va
     let served := fun (t : State) =>
       Map.find t.fills n = some { f with mig := false, served := true, data := s.view f.desc a, map := (s.headerAt a).map } ∧ t.agenda = s.agenda ++ [.fillReturn n]
     let g := grainSize f.desc
     let touched := fun (t : State) => Map.find t.fills n = none ∧ t.cores = s.cores ∧ t.agenda = s.agenda ∧ (∀ b, t.byteAt b = s.byteAt b) ∧
       ∃ x ∈ (t.home (codeHome a)).lines, x.line = a / 512 ∧ x.sectors &&& lineSectors a g = lineSectors a g
     (s.pendingAt a g = false → (s.home (codeHome a)).gated = false → (∃ large loc, s.walk a = .page true large loc) → s.deferredAt a g = false → s.dataError f.desc a g = false →
       (f.memSide = false →
         (f.mig = false → ∃ t, Becomes (.homeFillRequest n) s t ∧ served t) ∧
         (f.mig = true → ∃ t, Becomes (.walkRestart n) s t ∧ served t)) ∧
       (f.memSide = true → CacheSorted s →
         (f.mig = false → ∃ t, Becomes (.homeFillRequest n) s t ∧ touched t) ∧
         (f.mig = true → ∃ t, Becomes (.walkRestart n) s t ∧ touched t))) ∧
     (∀ data, let s' := { s with fills := Map.set s.fills n { f with served := true, stale := true, data := data } }
       ∃ t, Becomes (.fillReturn n) s' t ∧ Map.find t.fills n = none ∧ t.cores = s.cores) ∧
     (∀ data, let s' := { s with fills := Map.set s.fills n { f with served := true, stale := false, data := data } }
       let c := s'.core f.core
       let mapped := descG f.desc = true ∧ f.map ≠ GMap.identity
       let tag := tileTag f.key f.va
       let spans := fun b => f.va ≤ b ∧ b < f.va + g
       let held := fun b => ∃ x ∈ c.l1, f.lineAt b x
       let taken := fun b => s'.occupied f.core (l1Set b)
       let entry := fun (t : State) => ∀ e, (e ∈ (t.core f.core).glaze → mapped ∧ e = (tag, f.map) ∨ e ∈ c.glaze ∧ e.1 ≠ tag) ∧
         (mapped → (tag, f.map) ∈ (t.core f.core).glaze)
       f.va % g = 0 →
       ((∀ b, spans b → held b ∨ taken b < Config.l1Ways) →
         (mapped → (∃ e ∈ c.glaze, e.1 = tag) ∨ s'.glazeUsed f.core < Config.glazeHeaderEntries) →
         ∃ t, Becomes (.fillReturn n) s' t ∧ Map.find t.fills n = none ∧ f.Installed s' t data (fun _ => True) ∧ entry t ∧
           ∀ e ∈ c.glaze, e.1 ≠ tag → e ∈ (t.core f.core).glaze) ∧
       (∀ l1 v l1', g ≤ 128 → ¬held f.va → taken f.va = Config.l1Ways → c.l1 = l1 ++ v :: l1' → l1Set v.va = l1Set f.va →
         ((v.prio = 0 ∧ ∀ x ∈ l1', l1Set x.va = l1Set f.va → x.prio ≠ 0) ∨
           ((∀ x ∈ c.l1, l1Set x.va = l1Set f.va → x.prio ≠ 0) ∧ ∀ x ∈ l1', l1Set x.va ≠ l1Set f.va)) →
         (mapped → s'.glazeUsed f.core < Config.glazeHeaderEntries) →
         ∃ t, Becomes (.fillReturn n) s' t ∧ Map.find t.fills n = none ∧ f.Installed s' t data (fun x => v.sameGrain x = false) ∧ entry t) ∧
       ((∀ b, spans b → taken b ≥ Config.l1Ways ∧ ∀ x ∈ c.l1, l1Set x.va ≠ l1Set b) →
         ∃ t, Becomes (.fillReturn n) s' t ∧ Map.find t.fills n = none ∧ t.cores = s.cores))) ∧
  (∀ k s d, Map.find s.drills k = some d →
     (∀ va len, d.wait = .flr va len → (∀ c ∈ s.commits, c.homes = []) → CacheSorted s → Memory.wf s.bulk = true →
       ∃ t, Becomes (.flrWriteBackDone k) s t ∧ Map.find t.drills k = some d.opDone ∧ (∀ a, t.byteAt a = s.byteAt a) ∧
         ∀ a, lineInRange d.asid va len a = true → Memory.get t.bulk a = s.byteAt a) ∧
     (∀ dst bytes w,
       let sized := fun (t : State) (size : Nat) => ∃ d' w', Map.find t.drills k = some d' ∧ Map.find t.wgs d.wg = some w' ∧
         w'.size = size ∧ d'.wait = .none ∧ (∀ n, d'.regs.uni n = if n = dst then BitVec.ofNat 64 (128 * size) else d.regs.uni n)
       Map.find s.wgs d.wg = some w →
       (d.wait = .shrink dst bytes → (∀ c ∈ s.cmds, c.2.wg = d.wg → ∀ q ∈ c.2.targets, q < 4 * (w.size - bytes / 128)) →
         ∃ t, Becomes (.scrGrowComplete k) s t ∧ sized t (w.size - bytes / 128)) ∧
       (∀ lines, d.wait = .grow dst lines → s.waysHeld w.core = true →
         ∃ t d', Becomes (.scrGrowComplete k) s t ∧ t.wgs = s.wgs ∧ Map.find t.drills k = some d' ∧ d'.wait = .none ∧
           ∀ n, d'.regs.uni n = if n = dst then BitVec.ofNat 64 (128 * lines) else d.regs.uni n)) ∧
     (∀ o q dst a w l, d.older = some o → s.requests = [q] → q.drill = k → q.slice = s.token → s.records = [] →
       s.refuses q o.chunk.solo = false → s.heldBySolo k q.key q.w = false → o.chunk.scratch = [] → o.chunk.reds = [] →
       o.chunk.after = some (.scrGrow dst a) → Map.find s.wgs d.wg = some w → Map.find s.launches w.launch = some l →
       let bytes := roundUp (d.regs.uniN a) 128
       let lines := w.size + bytes / 128
       (128 * w.size + bytes > Config.scratchMax → ∃ t d', Becomes .orderTokenVisit s t ∧ t.wgs = s.wgs ∧ Map.find t.drills k = some d' ∧
         d'.wait = .none ∧ ∀ n, d'.regs.uni n = if n = dst then BitVec.ofNat 64 (128 * w.size) else d.regs.uni n) ∧
       (128 * w.size + bytes ≤ Config.scratchMax → s.canPin w.core w.base w.size lines = true → l.record.areaBytes lines w.ndrills ≤ w.areaLen →
         ∃ t d' w', Becomes .orderTokenVisit s t ∧ Map.find t.wgs d.wg = some w' ∧ w' = { w with
           size := lines, scratch := w'.scratch, sectors := w'.sectors } ∧ Map.find t.drills k = some d' ∧ d'.wait = .grow dst lines ∧
           .scrGrowComplete k ∈ t.agenda)))

/-- R195: a `lnch` whose record passes its checks and whose streaming stores are acknowledged takes a CSN, and the launch it reads is
journaled and put into its queue.

R235: a replay pops the newest record, reads it and appends its launch; it ends with the tape. -/
def Obligations.LaunchesFromDrillsAndTape : Prop :=
  (∀ k s d w r q c s1 parts s2 bs c2, Map.find s.drills k = some d → Map.find s.wgs d.wg = some w → w.state = .resident →
     d.chunk.after = some (.lnch r q) → d.pendingStreams = [] → s.checkRecord k d (d.regs.uniN r) = .ok s1 parts none →
     Map.find s1.ctxs d.asid = some c → c.hasQueue (d.regs.uniN q) = true → s1.cpRead (d.opAttr k) d.asid (d.regs.uniN r) 64 = .ok s2 bs →
     Map.find s2.ctxs d.asid = some c2 → c2.dead = false → (recordOf bs).code = none →
     ∃ t d' l c3, Becomes (.lnchAppend k) s t ∧ t.nextCsn = s2.nextCsn + 1 ∧ t.nextJsn = s2.nextJsn + 1 ∧
       Map.find t.launches s2.nextJsn = some l ∧ l.record = recordOf bs ∧ l.asid = d.asid ∧ l.queue = d.regs.uniN q ∧
       Map.find t.ctxs d.asid = some c3 ∧ c3.queue (d.regs.uniN q) = c2.queue (d.regs.uniN q) ++ [s2.nextJsn] ∧
       Map.find t.drills k = some d' ∧ d'.wait = .none ∧ d'.regs = d.regs) ∧
  (∀ asid s c turn queue, Map.find s.ctxs asid = some c → c.replay = some (turn, queue) → c.replayWait = none →
     (c.tape = [] → ∃ t, Becomes (.tapePop asid) s t ∧ Map.find t.ctxs asid = some { c with replay := none } ∧
       ∀ r, Map.find s.journal turn = some r → ∃ r', Map.find t.journal turn = some r' ∧ r'.state = .completed) ∧
     (∀ va rest s1 bs c1, c.tape = va :: rest → s.cpRead Attr.device asid va 64 = .ok s1 bs → (recordOf bs).code = none →
       Map.find s1.ctxs asid = some c1 → c1.dead = false →
       ∃ t c2 l, Becomes (.tapePop asid) s t ∧ Map.find t.ctxs asid = some c2 ∧ c2.tape = rest ∧
         c2.queue queue = c1.queue queue ++ [s1.nextJsn] ∧ Map.find t.launches s1.nextJsn = some l ∧ l.record = recordOf bs ∧
         l.turnOf = some turn ∧ t.nextJsn = s1.nextJsn + 1 ∧
         ((recordOf bs).conc = false → c1.replay = some (turn, queue) → c2.replayWait = some s1.nextJsn)))

/-- R220 to R223, R272: engines at work, their sources read at the event that commits or at the first landing, which is the model's choice (log 45). A sector lands whole and is present from then on; a command whose work is done commits it at one
CSN and signals its token; one that fails signals ERR. -/
def Obligations.EnginesWork : Prop :=
  (∀ n s c w q bs rest, Map.find s.cmds n = some c → c.staged = true → c.landing = (q, bs) :: rest → bs.length = 32 →
    Map.find s.wgs c.wg = some w →
    ∃ t c' w', Becomes (.sectorLand n) s t ∧ Map.find t.cmds n = some c' ∧ c'.landing = rest ∧ q ∉ c'.targets ∧
      Map.find t.wgs c.wg = some w' ∧ q ∈ w'.sectors ∧
      ∀ a, Memory.get w'.scratch a = if 32 * q ≤ a ∧ a < 32 * q + 32 then bs.getD (a - 32 * q) 0 else Memory.get w.scratch a) ∧
  (∀ n s c s' x ctx, Map.find s.cmds n = some c → c.targets = [] → c.staged = false → ¬(c.major = 0x79 ∧ c.op = 4) →
    s.cmdWork c = .ok s' x → Stampable s' c x → cmdLength c.major c.op c.word ≠ 0 → s'.mgmt.updating = none →
    Map.find s'.ctxs c.asid = some ctx →
    ∃ t, Becomes (.engineChunkCommit n) s t ∧ t.nextCsn = s'.nextCsn + 1 ∧ Map.find t.cmds n = none ∧
      (∃ y ∈ t.commits, y.csn = s'.nextCsn ∧ y.grains = s'.workGrains c x) ∧
      (c.flags % 2 = 0 → t.tokenWord c.asid (c.word 0 % 4096) = tokenSignalled (s'.tokenWord c.asid (c.word 0 % 4096)) false)) ∧
  (∀ i n code s c ctx, (i = .engineFail n code ∨ (i = .collectiveTimeout n ∧ code = 10 ∧ c.major = 0x79 ∧ c.op = 4)) →
    Map.find s.cmds n = some c → c.finished = false → s.commits = [] → s.records = [] →
    s.mgmt.updating = none → Map.find s.ctxs c.asid = some ctx → s.writable c.asid ctx.faultq.toNat 64 = false →
    ∃ t r, Becomes i s t ∧ Map.find t.cmds n = none ∧ t.nextCsn = s.nextCsn ∧
      (c.flags % 2 = 0 → t.tokenWord c.asid (c.word 0 % 4096) = tokenSignalled (s.tokenWord c.asid (c.word 0 % 4096)) true) ∧
      Map.find t.journal s.nextJsn = some r ∧ r.op = 0x89 ∧ r.db = 5)

/-- R221, R228 to R231: what engines move, their sources read at the event that commits or at the first landing, which is the model's choice (log 45). A
range read is what a reader sees; a copy stores it; `eng.gth` and `eng.sct` move the rows their
indexes name, in order, a later store of one byte prevailing; `eng.grd` stores for each bag, element by element, the fma of its rows with
their weights from -0, or 0 for an empty bag; each stores its count where asked to. That the count prevails over the command's own rows where they
overlap is the model's choice (log 90). A copy to the scratchpad has its sectors landed. -/
def Obligations.EnginesMoveData : Prop :=
  (∀ s c va n s' bs, n ≠ 0 → isScratch va = false → va / 65536 = (va + n - 1) / 65536 → CacheSorted s → s.readRange c va n = .ok s' bs →
    bs = seenRange s c.asid va n ∧ ∀ a, s'.byteAt a = s.byteAt a) ∧
  (∀ n s c, Running s n c 0x79 c.op → c.asid < 2 ^ 16 → sourcesMeet (s.rangesOf c) false = false →
    let w := c.word
    let len := w 2 % 2 ^ 32
    let t := w 4 % 2 ^ 32
    let z := w 4 / 2 ^ 32
    let policy := c.flags / 2 % 4
    let row := fun dflt i => rowAt policy t z (w 3) dflt i
    let stores := fun (s' : State) (ws : List (Nat × List Byte)) => c.targets = [] → Stampable s' c (storesOf ws) → (∀ x ∈ ws, x.1 + x.2.length ≤ 2 ^ 48) →
      ∃ u, Becomes (.engineChunkCommit n) s u ∧ Puts s' u n c ws
    (c.op = 0 → w 3 ≠ 0 → ∀ s' bs, s.readRange c (w 1) (w 3) = .ok s' bs →
      (isScratch (w 2) = false → stores s' [(w 2, bs)]) ∧
      (∀ wg, isScratch (w 2) = true → scrOff (w 2) % 32 = 0 → w 3 % 32 = 0 → bs.length = w 3 → Map.find s'.wgs c.wg = some wg →
        ∃ u c', Becomes (.sectorLand n) s u ∧ Map.find u.cmds n = some c' ∧ c'.staged = true ∧
          ∀ q b, (q, b) ∈ c'.landing ↔ ∃ k, k < w 3 / 32 ∧ q = scrOff (w 2) / 32 + k ∧ b = (bs.drop (32 * k)).take 32)) ∧
    (c.op ≠ 0 → c.op ≠ 4 → z % 4 = 0 → 4 ≤ z → z ≤ 65536 → t ≠ 0 → len ≠ 0 →
      ∀ s0 ob s1 ib, (if c.op = 2 then s.readRange c (w 5) (4 * (w 2 / 2 ^ 32)) = .ok s0 ob else s0 = s ∧ ob = []) →
        s0.readRange c (w 1) (4 * len) = .ok s1 ib → ib.length = 4 * len →
        let idx := wordsOf ib
        (policy = 2 → ∀ i ∈ idx, i = 2 ^ 32 - 1 ∨ i < t) →
        (c.op = 1 → isScratch (w 5) = false → ∀ s2 rows, State.readRanges c (rowRanges z (idx.map (row (w 6)))) s1 [] = .ok s2 rows →
          stores s2 (((upto len).filter (fun j => (row (w 6) (idx.getD j 0)).isSome)).map (fun j => (w 5 + j * z, rows.getD j []))
            ++ countStore (w 7) t idx)) ∧
        (c.op = 3 → policy ≠ 1 → ∀ s2 src, s1.readRange c (w 5) (len * z) = .ok s2 src →
          stores s2 ((upto len).filterMap (fun j => (row 0 (idx.getD j 0)).map (fun a => (a, (src.drop (j * z)).take z)))
            ++ countStore (w 6) t idx)) ∧
        (c.op = 2 →
          let bags := w 2 / 2 ^ 32
          let off := fun b => if b < bags then (wordsOf ob).getD b 0 else len
          bags ≠ 0 → ob.length = 4 * bags → off 0 = 0 → (∀ b, b < bags → off b ≤ off (b + 1)) →
          ∀ s2 rows s3 wb, State.readRanges c (rowRanges z (idx.map (row (w 8)))) s1 [] = .ok s2 rows →
            s2.readRange c (w 6) (if w 6 = 0 then 0 else 4 * len) = .ok s3 wb →
            let members := fun b => ((upto len).filter (fun j => off b ≤ j ∧ j < off (b + 1))).filter (fun j => (row (w 8) (idx.getD j 0)).isSome)
            let wt := fun j => if w 6 = 0 then 0x3F800000 else (wordsOf wb).getD j 0
            let sum := fun b k => if members b = [] then 0 else (members b).foldl (fun acc j =>
              (ffma .f32 RoundCtx.rn (unpack .f32 (wt j)) (unpack .f32 ((wordsOf (rows.getD j [])).getD k 0)) (unpack .f32 acc)).1) 0x80000000
            stores s3 ((upto bags).map (fun b => (w 7 + b * z, (upto (z / 4)).flatMap (fun k => toBytes 4 (sum b k))))
              ++ countStore (w 9) t idx))))

/-- R15, R232, R233, R348, R349: a peer's k-th call of a group meets the device's own k-th call: its values are taken where the calls agree,
the command fails where they do not, and one that comes first waits for the device's own. Rank 0 counts who has staged; at finish the
destination is committed at one CSN: the values of R233's table, a reduction's by the canonical tree, a NaN canonical (R43). All of it goes over a
linked port. -/
def Obligations.Collectives : Prop :=
  (∀ s gi g, Map.find s.groups gi = some g → s.linked = true →
    (∀ call rank flags count root vals, rank < g.p → rank ≠ g.own →
      let waits : State := { s with groups := Map.set s.groups gi { g with early := g.early ++
        [{ call := call, rank := rank, flags := flags, count := count, root := root, values := vals }] } }
      (s.callOf gi call = none → g.calls < call → Becomes (.collectiveReceipt ⟨gi, call⟩ rank flags count root vals) s waits) ∧
      (∀ n c, s.callOf gi call = some (n, c) → c.finished = false →
        let agrees := flags / 2 = c.flags / 2 ∧ count = c.word 3 ∧ root = c.word 0 / 2 ^ 32 % 2 ^ 16
        (Map.find c.values g.own = none → Becomes (.collectiveReceipt ⟨gi, call⟩ rank flags count root vals) s waits) ∧
        (Map.find c.values g.own ≠ none → agrees → ∃ t c', Becomes (.collectiveReceipt ⟨gi, call⟩ rank flags count root vals) s t ∧
          Map.find t.cmds n = some c' ∧ Map.find c'.values rank = some vals) ∧
        (Map.find c.values g.own ≠ none → ¬agrees → Becomes (.collectiveReceipt ⟨gi, call⟩ rank flags count root vals) s
          { s with agenda := s.agenda ++ [.engineFail n 9] }))) ∧
    (∀ call rank n c, g.own = 0 → 0 < rank → rank < g.p → s.callOf gi call = some (n, c) → c.finished = false →
      ∃ t c', Becomes (.collectiveStagedReport ⟨gi, call⟩ rank) s t ∧ Map.find t.cmds n = some c' ∧ rank ∈ c'.reports ∧
        ∀ x ∈ c.reports, x ∈ c'.reports) ∧
    (∀ n c, Map.find s.cmds n = some c → c.major = 0x79 → c.op = 4 → s.groupOf c = some g → c.group = gi → c.finished = false →
      (∀ s' bs m, c.staged = false → c.targets = [] → c.reservedBits = false → s.colCheck c (s.rangesOf c) = none →
        Map.find c.values g.own = none → s.readRange c (c.word 1) (4 * c.word 3) = .ok s' bs →
        g.early.filter (fun x => x.call == c.call) = [m] → c.meetsCall m = true → m.rank ≠ g.own →
        ∃ t c', Becomes (.engineChunkCommit n) s t ∧ Map.find t.cmds n = some c' ∧ Map.find c'.values m.rank = some m.values ∧
          Map.find c'.values g.own = some ((wordsOf bs).map (BitVec.ofNat 32))) ∧
      (let vals := colResult (c.flags / 2 % 4) (c.flags / 8 % 4) (c.word 3) g.p g.own (c.word 0 / 2 ^ 32 % 2 ^ 16) c.values
       let work := storesOf [(c.word 2, vals.flatMap (toBytes 4))]
       c.staged = true → c.word 3 ≠ 0 → Stampable s c work →
       ∃ t, Becomes (.collectiveFinish n) s t ∧ Map.find t.cmds n = none ∧ t.nextCsn = s.nextCsn + 1 ∧
         ∃ y ∈ t.commits, y.csn = s.nextCsn ∧ y.grains = s.workGrains c work))) ∧
  (∀ kind f n p own root vals, 0 < p →
    let v := fun r e => ((Map.get [] vals r).getD e 0).toNat
    let out := colResult kind f n p own root vals
    let reduced := fun e y => ∃ x, TreeOf (rankCombine f) ((upto p).map (fun r => v r e)) x ∧
      y = if f ≤ 2 ∧ (∃ q, unpack .f32 x = .nan q) then 0x7FC00000 else x
    (kind = 0 → out.length = n ∧ ∀ e, e < n → reduced e (out.getD e 0)) ∧
    (kind = 1 → out.length = n / p ∧ ∀ e, e < n / p → reduced (n / p * own + e) (out.getD e 0)) ∧
    (kind = 2 → out.length = n * p ∧ ∀ r e, r < p → e < n → out.getD (n * r + e) 0 = v r e) ∧
    (kind = 3 → out.length = n ∧ ∀ e, e < n → out.getD e 0 = v root e))

/-! ## Workgroups and launches (19_launches_and_contexts.md) -/

/-- R24, R236, R293: the next workgroup of the one launch to be served placed: its drills stand in slots of one core of the context's
mask, with the registers of placement: every class of R24. -/
def Obligations.WorkgroupsArePlaced : Prop :=
  ∀ s x s1 l s2, s.mgmt.updating = none → s.lookHeads.cands = [x] → x.saved = none → s.lookHeads.headCheck x.jsn = .pass s1 →
    Map.find s1.launches x.jsn = some l → l.record.cooperative = false → s1.tryPlace x.jsn = some s2 →
    ∃ t w, Becomes .placeWorkgroup s t ∧ Map.find t.wgs s1.nextId = some w ∧ w.launch = x.jsn ∧ w.index = l.next ∧ w.state = .resident ∧
      w.ndrills = l.record.drills ∧ Map.find t.launches x.jsn = some { l with next := l.next + 1, started := true, waiting := s1.clock } ∧
      (∀ c, Map.find s1.ctxs l.asid = some c → l.map = none → c.mask.getLsbD w.core = true) ∧
      ∀ i, i < l.record.drills → ∃ k d, Map.find w.slots i = some k ∧ k / 64 = w.core ∧ Map.find t.drills k = some d ∧ d.wg = s1.nextId ∧
        d.index = i ∧ d.wait = .none ∧ d.csn = 0 ∧ d.reg = 0 ∧ d.regs.pc = BitVec.ofNat 64 l.record.entry ∧ d.regs.em = BitVec.allOnes 64 ∧
        d.regs.stack = [] ∧ d.regs.spilled = 0 ∧ d.regs.status = 0 ∧ d.regs.seed = 0 ∧ d.regs.round = 0 ∧ d.regs.trapvec = 0 ∧
        d.regs.h = false ∧ (∀ n, d.regs.uni n = if n = 0 then BitVec.ofNat 64 l.record.args else 0) ∧ (∀ n l, d.regs.vec n l = 0) ∧
        (∀ n, n < 15 → d.regs.pred n = 0) ∧ (∀ n b, d.regs.tileByte n b = 0) ∧ (∀ n b, d.regs.sideByte n b = 0x60) ∧
        ∀ n e, d.regs.accElem n e = 0

/-- R297, R298, R300, R302: pre-emption saves a workgroup, once its save area is accessible, and frees its slots: the area then reads as the
workgroup's image, in which its drill stands restarted at its chunk's first unit, or as it waits in an operation; a long wait of equal priority asks for
one; resumption puts a legal image's drills back into the slots of a core, with the registers the image holds, and fails the launch with code 11 where
the image is not legal.

The model's choices here: where the save area lies (log 17); a save takes no CSN (log 19); an image has a part for each drill that has not exited,
whether or not others have, and is resumed by as many (log 56); what an older or deferred byte of it waits for, and that a tile is written and read as
any access does (log 79). -/
def Obligations.WorkgroupsStopAndResume : Prop :=
  (∀ id s w k d l, s.mgmt.updating = none → Map.sorted s.drills = true → Map.find s.wgs id = some w → w.state = .resident →
    Map.find s.drills k = some d → s.drillsOf id = [(k, d)] → d.older = none → d.wait ≠ .atom → (∀ c ∈ s.cmds, c.2.wg ≠ id) →
    Map.find s.launches w.launch = some l → s.poolReady w (l.record.areaBytes w.size 1) = .ok s () →
    ∃ t w', Becomes (.preempt id) s t ∧ Map.find t.wgs id = some w' ∧ w'.state = .saved ∧ w'.preempts = w.preempts + 1 ∧
      (∀ j e, Map.find t.drills j = some e → e.wg ≠ id) ∧ w'.launch = w.launch ∧ w'.index = w.index ∧
      (let d2 := match d.wait with
         | .grow dst lines => (d.opWrite dst (128 * lines)).opDone
         | _ => if d.chunk.after.isSome then d else { d with regs := d.chunk.start }
       let image := ({ w with spoiled := s.imageFails id w }.image l.record [] [d2])
       image.length = l.record.areaBytes w.size 1 →
       (w.area + image.length ≤ 2 ^ 48 → w.asid < 2 ^ 16 → s.bad = [] → CacheSorted s → Memory.wf s.bulk = true →
         (∀ b x, b < image.length → s.plotOf w.asid (w.area + b) = .desc x →
           s.headerBad x (grainBase x (locate x (keyOf w.asid (w.area + b)) (w.area + b))) = false) →
         SeenAt s t w.asid w.area image) ∧
       (w.nbar = l.record.barriers → d.nv = l.record.nv → InPart l.record image (l.record.areaBytes w.size 0) d2.savedPc.toNat (d2.csn % 2 ^ 64) d2.regs))) ∧
  (∀ id s w l core slots, s.mgmt.updating = none → Map.find s.wgs id = some w → w.state = .saved → s.coopWg w = false →
    Map.find s.launches w.launch = some l → s.resumeAtCore id w = some (core, slots) → s.poolsReady id w = .ok s () →
    let image := s.savedBytes w.asid w.area (l.record.areaBytes w.size w.slots.length)
    (∀ x, restore l.record w id s.nextOrder image = some x →
      ∃ t w', Becomes (.resumeWorkgroup id) s t ∧ Map.find t.wgs id = some w' ∧ w'.state = .resident ∧ w'.core = core ∧
        w'.waitsFor = none ∧ w'.preempts = x.wg.preempts ∧ t.nextOrder = s.nextOrder + 1 ∧
        ∀ j e k, x.drills[j]? = some e → slots[j]? = some k → k / 64 = core ∧
          Map.find t.drills k = some { e with fetched := [], fenced := s.nextCsn - 1 } ∧
          (w.nbar = l.record.barriers → InPart l.record image
            (l.record.areaBytes w.size 0 + j * (l.record.areaBytes 0 1 - l.record.areaBytes 0 0)) e.regs.pc.toNat e.csn e.regs)) ∧
    (restore l.record w id s.nextOrder image = none → l.failed = none → s.inReplay l = false →
      ∃ t, Becomes (.resumeWorkgroup id) s t ∧ Map.find t.launches w.launch = some { l with failed := some 11 })) ∧
  (∀ s x l c core rest id w, s.mgmt.updating = none → serviceOrder s.cands = [x] → x.saved = none → l.waiting + sliceClocks ≤ s.clock →
    Map.find s.launches x.jsn = some l → Map.find s.ctxs x.asid = some c → l.record.cooperative = false → s.tryPlace x.jsn = none →
    ((s.without [id]).tryPlace x.jsn).isSome = true →
    l.cores c = core :: rest → s.wgs = [(id, w)] → w.core = core → w.state = .resident → w.asid ≠ x.asid → s.policyOf w = 0 →
    s.prioOfWg w = x.prio → w.since + sliceClocks ≤ s.clock → s.coopWg w = false →
    ∃ t, Becomes .timeSlice s t ∧ t = { s with agenda := s.agenda ++ [.preempt id] })

/-- R278, R279, R289, R291: a workgroup leaves after its last drill's exit, or is killed, and its launch is told; a launch whose workgroups
have all ended is completed, its token signalled, its record given the CSN of its last commit (R368). -/
def Obligations.WorkgroupsAndLaunchesEnd : Prop :=
  (∀ id s w l, Map.find s.wgs id = some w → Map.find s.launches w.launch = some l → (∀ c ∈ s.cmds, c.2.wg ≠ id) →
    let gone := fun (t : State) => Map.find t.wgs id = none ∧ (∀ j e, Map.find t.drills j = some e → e.wg ≠ id) ∧
      Map.find t.launches w.launch = some { l with ended := l.ended + 1 } ∧ .placeWorkgroup ∈ t.agenda
    (w.state = .draining → Map.sorted s.drills = true → ∃ t, Becomes (.workgroupExit id) s t ∧ gone t) ∧
    (Map.sorted s.drills = true → (∀ x ∈ s.drillsOf id, x.2.sent = false) → ∃ t, Becomes (.workgroupKill id) s t ∧ gone t)) ∧
  (∀ n s l c, Map.find s.launches n = some l → l.next ≤ l.ended → s.mgmt.updating = none → Map.find s.ctxs l.asid = some c →
    let ends := fun (t : State) (err : Bool) => Map.find t.launches n = none ∧
      (l.record.nosig = false → t.tokenWord l.asid l.record.signal = tokenSignalled (s.tokenWord l.asid l.record.signal) err)
    (l.failed = none → l.record.total ≤ l.next → l.record.turn = false → ∃ t, Becomes (.launchComplete n) s t ∧ ends t false ∧
      ∀ r, Map.find s.journal n = some r → ∃ r', Map.find t.journal n = some r' ∧ r'.state = .completed ∧ r'.csn = l.csn) ∧
    (∀ code, l.failed = some code → ∃ t, Becomes (.launchComplete n) s t ∧ ends t true ∧
      ∀ r, Map.find s.journal n = some r → ∃ r', Map.find t.journal n = some r' ∧ r'.state = .failed ∧ r'.status = code))

/-! ## Paging (20_plots_and_translation.md, 21, 22) -/

/-- R315, R360, R361: the paging agent, with the demand it has come to at its home. A page fetched, over a linked port where it lies at a
source, is resident in the frame given, which it owns; a timeout is retried once; a page whose backing is invalid, at once, or twice
unreachable kills every context that needs it, through a store deferred on it, a drill or a saved workgroup that waits for it or what else has asked
for it and still does, and no context where none needs it; it tells the host's commands that do. Which frame is taken (log 22), that each frame of a
large page has an owner entry of its own (log 21), and who asks for a page without waiting in its name (log 95) are the model's choices. -/
def Obligations.PagingAgent : Prop :=
  ∀ n s d, Map.find s.demands n = some d → s.mgmt.updating = none → s.firstDemand d.home = some n →
    let p := s.pageAt d.code
    let needs := fun asid => (∃ e ∈ (s.home d.home).dsb, p.has e.write.addr = true ∧ e.write.asid = asid) ∨
      (∃ k e, Map.find s.drills k = some e ∧ e.wait = .page n ∧ e.asid = asid) ∨
      (∃ i w, Map.find s.wgs i = some w ∧ w.waitsFor = some n ∧ w.asid = asid) ∨ ∃ x ∈ d.askers, s.asks p x = some asid
    let lost := fun (i : Instr) => (∀ c ∈ s.commits, c.homes = []) → ∃ t, Becomes i s t ∧ Map.find t.demands n = none ∧
      (∀ asid c, needs asid → Map.find s.ctxs asid = some c → ∃ c', Map.find t.ctxs asid = some c' ∧ c'.dead = true) ∧
      ((∀ asid, ¬needs asid) → t.ctxs = s.ctxs) ∧
      ∀ x ∈ s.held, x.demand = some n → ∃ y ∈ t.held, y.jsn = x.jsn ∧ y.lost = true
    (∀ large loc f, s.walk d.code = .page false large loc → (s.home d.home).gated = false → s.locValid loc = true →
      (loc = 0xFFFFFF ∨ s.linked = true) → s.freeFrame p.home p.frames = some f → s.hasEntries p = false → s.records = [] →
      ∃ t, Becomes (.pageFetchComplete n) s t ∧ t.entryOf p = pageEntry true p.large f 0 ∧ Map.find t.demands n = none ∧
        (∀ i, i < p.frames → t.ownerOf p.home (f + i) = p.owner i) ∧
        (∀ k e, Map.find s.drills k = some e → e.wait = .page n → ∃ e', Map.find t.drills k = some e' ∧ e'.wait = .none) ∧
        (entLoc (s.entryOf p) = 0xFFFFFF → ∀ a, p.has a = true → t.byteAt a = 0)) ∧
    (∀ large loc, s.walk d.code = .page false large loc → d.retried = false →
      ∃ t, Becomes (.backingTimeout n) s t ∧ Map.find t.demands n = some { d with retried := true } ∧
        t.agenda = s.agenda ++ [.pageFetchComplete n]) ∧
    (∀ large loc, s.walk d.code = .page false large loc → d.retried = true → lost (.backingTimeout n)) ∧
    (∀ large loc, s.walk d.code = .page false large loc → s.locValid loc = false ∨ (loc ≠ 0xFFFFFF ∧ s.linked = true) →
      lost (.backingNoSuchPage n))

/-- R317, R318, R371: moves within the device change no byte that software sees: a page to another frame, a plot to its new home, a retired
bank's lines to bulk memory.

The model's choices here: which frame is taken (log 22), an owner entry for each frame of a large page (log 21), the pages a migration maps, in one
event (log 25), and which lines a bank holds (log 26). -/
def Obligations.MovesKeepEveryByte : Prop :=
  (∀ h table key la s large loc f, s.walk (addrCode h table key la) = .page true large loc → CacheSorted s →
    let p := s.pageAt (addrCode h table key la)
    (s.home p.home).gated = false → s.freeFrame p.home p.frames = some f →
    ∃ t, Becomes (.frameMove h table key la) s t ∧ t.entryOf p = pageEntry true p.large f 0 ∧ (∀ a, t.byteAt a = s.byteAt a) ∧
      ∀ i, i < p.frames → t.ownerOf p.home (f + i) = p.owner i) ∧
  (∀ key plot target s d s1, key < 2 ^ 16 → plot < 2 ^ 32 → s.plotOf key (plot * 65536) = .desc d → descValid d = true → descM d = true →
    target ≤ 8 → target ≠ dfield d 16 4 → s.plotQuiet key plot = true →
    let parts := plotParts key plot (dfield d 16 4) ++ plotParts key plot target
    (∀ x ∈ parts, (s.home (codeHome x.1)).gated = false) →
    (∀ x ∈ plotParts key plot (dfield d 16 4), ∃ large loc, s.walk x.1 = .page true large loc) →
    (∀ x ∈ parts, ∀ large loc, s.walk x.1 ≠ .page false large loc) →
    s.unknownPlot ((plotParts key plot (dfield d 16 4)).map (fun x => s.pageAt x.1)) = none →
    State.mapParts (plotParts key plot target) s = some s1 → (s1.carryPlot key plot d target).newRoom (plotParts key plot target) = true →
    CacheSorted s → Memory.wf s.bulk = true →
    ∃ t, Becomes (.plotMigrationMove key plot target) s t ∧ ∀ b, b < 65536 →
      t.byteAt (locate (withHome d target) key (plot * 65536 + b)) = s.byteAt (locate d key (plot * 65536 + b))) ∧
  (∀ stack bank s, stack < 8 → bank < 16 → bank ∉ (s.home stack).retired → (s.home stack).retired.length < 8 → CacheSorted s →
    ∃ t, Becomes (.bankRetire stack bank) s t ∧ (t.home stack).retired = bank :: (s.home stack).retired ∧
      (∀ a, t.byteAt a = s.byteAt a) ∧ t.nextJsn = s.nextJsn + 1)

/-! ## Faults, repair, power, bring-up (25_faults_and_repair.md, 27_power_and_bringup.md) -/

/-- R351: a write whose page is not resident is deferred, with a record of kind 1 for each sector it writes, and the page demanded; no byte
changes. R352: the page, when it comes, has the stores deferred on it applied in the order they were made, each with its records of kind 2.

R355 to R359: a record is written into its context's queue and WRITE advanced where the queue has room; else DROPPED is counted.

The model's choices here: a large page's backing is the locators from its own on (log 23); the records of one event come in the order of its grains
and sectors (log 43); TOKEN of the record of a command is the command's own token, with NT = 1 too (log 93). -/
def Obligations.DeferredStoresAndFaultRecords : Prop :=
  (∀ h s c g large loc, s.commits = [c] → h ∈ c.homes → c.grains = [g] → c.drops = [] → c.lastUse = [] → codeHome g.addr = h → g.Plain →
    s.defers g = true → s.walk g.addr = .page false large loc → s.isDead g.asid = false →
    ∃ u, Becomes (.homeApplyCommit h) s (Applied.settle ⟨u, g.records 1 c.csn loc, []⟩) ∧
      (u.home h).dsb = (s.home h).dsb ++ [{ csn := c.csn, write := g, copies := 2 }] ∧ (∀ a, u.byteAt a = s.byteAt a) ∧
      u.records = s.records ∧ ∃ x ∈ u.demands, x.2.code = s.pageOf g.addr ∧ g.asid ∈ u.needing x.1 x.2) ∧
  (∀ n s d large loc f, Map.find s.demands n = some d → s.mgmt.updating = none → s.firstDemand d.home = some n →
    s.walk d.code = .page false large loc → (s.home d.home).gated = false → s.locValid loc = true → (loc = 0xFFFFFF ∨ s.linked = true) →
    let p := s.pageAt d.code
    let es := (s.home p.home).dsb.filter (fun e => p.has e.write.addr)
    s.freeFrame p.home p.frames = some f → CacheSorted s → Memory.wf s.bulk = true → Memory.wf s.backing = true → s.bad = [] →
    (∀ e ∈ es, e.write.Plain) →
    let came := fun a => if p.has a = true then (if loc = 0xFFFFFF then 0 else Map.get (0 : Byte) s.backing (backingAt loc + (a - p.a)))
      else s.byteAt a
    ∃ t u, Becomes (.pageFetchComplete n) s t ∧
      (∀ a, t.byteAt a = (Applied.settle ⟨u, es.flatMap (fun e => e.write.records 2 e.csn 0), []⟩).byteAt a) ∧
      (∀ a, u.byteAt a = (es.foldl (fun m e => e.write.leaves m) came) a) ∧
      (u.home p.home).dsb = (s.home p.home).dsb.filter (fun e => !p.has e.write.addr) ∧ u.records = s.records) ∧
  (∀ n code s c x, Map.find s.cmds n = some c → c.finished = false → Map.find s.ctxs c.asid = some x → s.commits = [] → s.records = [] →
    s.solos = [] → s.bad = [] → CacheSorted s → code < 256 → c.asid < 2 ^ 16 →
    let q := x.faultq.toNat
    let cap := s.numberAt c.asid (q + 16) 4
    let read := s.numberAt c.asid (q + 8) 8
    let write := s.numberAt c.asid q 8
    let slot := q + 64 + 64 * (write % cap)
    q % 64 = 0 → 16 ≤ cap → cap ≤ 65536 → (∃ k, cap = 2 ^ k) → slot + 64 ≤ 2 ^ 48 → s.writable c.asid q 64 = true →
    s.writable c.asid slot 64 = true →
    (∀ a d, (q ≤ a ∧ a < q + 64) ∨ (slot ≤ a ∧ a < slot + 64) → s.plotOf c.asid a = .desc d →
      descG d = false ∧ descM d = false ∧ (s.home (codeHome (locate d (keyOf c.asid a) a))).gated = false) →
    let record := toBytes 1 5 ++ toBytes 1 code ++ toBytes 2 c.asid ++ toBytes 4 0 ++ toBytes 6 0 ++ toBytes 2 (whoOf c.drill)
      ++ toBytes 6 (c.pc.toNat % 2 ^ 48) ++ toBytes 2 c.token ++ toBytes 8 0 ++ toBytes 8 c.launch ++ toBytes 8 0 ++ toBytes 8 write
      ++ toBytes 3 0 ++ toBytes 5 0
    ((write + 2 ^ 64 - read) % 2 ^ 64 < cap →
      ∃ t x', Becomes (.engineFail n code) s t ∧ HoldsAt s t c.asid slot record ∧ HoldsAt s t c.asid q (toBytes 8 (write + 1)) ∧
        HoldsAt s t c.asid (q + 8) (toBytes 8 read) ∧ Map.find t.ctxs c.asid = some x' ∧ x'.faultCount = x.faultCount + 1) ∧
    (cap ≤ (write + 2 ^ 64 - read) % 2 ^ 64 →
      ∃ t x', Becomes (.engineFail n code) s t ∧ HoldsAt s t c.asid (q + 24) (toBytes 8 (s.numberAt c.asid (q + 24) 8 + 1)) ∧
        HoldsAt s t c.asid q (toBytes 8 write) ∧ Map.find t.ctxs c.asid = some x' ∧ x'.faultCount = x.faultCount))

/-- R337, R365, R366, R370, R372, R378: errors, ports, power. A corrected error is only journaled; an uncorrectable one has the outcome of its row of
R365: a sector's code fails where its data leaves (0); a clean line is gone (1); the chunk runs again (2, 6); a scratchpad sector's reader traps (3); a
tile, accumulator or vector file fails as a residue check does (4); a lost checkpoint quarantines the core and spoils the workgroup's image, at that
event, which is the model's choice (5, log 53); the
other copy of a deferred store serves, and with both lost the context dies (7); an entry is dropped (8); the contexts mapped through a table
die (9); the journal is rebuilt (10). How a location is coded is the model's choice (log 28). -/
def Obligations.ErrorsPortsAndPower : Prop :=
  (∀ unit loc s, unit ≤ 10 → ∃ t r, Becomes (.eccError unit loc true) s t ∧ t = { s with journal := t.journal, nextJsn := s.nextJsn + 1 } ∧
    Map.find t.journal s.nextJsn = some r ∧ r.op = 0x80 ∧ r.da = unit ∧ r.db = loc) ∧
  (∀ loc s, ∃ t, Becomes (.eccError 0 loc false) s t ∧ loc ∈ t.bad ∧ (∀ x ∈ s.bad, x ∈ t.bad) ∧ t = { s with bad := t.bad }) ∧
  (∀ k s d, Map.find s.drills k = some d →
    let first := match d.older with | some o => o.chunk | none => d.chunk
    (∀ unit, unit = 2 ∨ unit = 6 → ∃ t d', Becomes (.eccError unit k false) s t ∧ Map.find t.drills k = some d' ∧ d'.regs = first.start ∧
      d'.chunk.units = 0 ∧ d'.older = none ∧
      d'.chunk.sq = if d.older = none ∧ d.between = true then d.chunk.sq else min (first.sq + 1) 4) ∧
    exec (.eccError 4 k false) s = exec (.residueMismatch k) s ∧
    (∀ w, Map.find s.wgs d.wg = some w → w.core = k / 64 → w.state ≠ .saved → (s.core (k / 64)).absent = false → (s.core (k / 64)).repair ≠ 2 →
      ∃ t r, Becomes (.eccError 5 k false) s t ∧ (t.core (k / 64)).repair = 2 ∧ Map.find t.wgs d.wg = some { w with spoiled := true } ∧
        Map.find t.journal s.nextJsn = some r ∧ r.op = 0x81 ∧ r.da = k / 64)) ∧
  (∀ n i x s, i < 65536 → (s.core n).l1[i]? = some x →
    ∃ t, Becomes (.eccError 1 (n * 65536 + i) false) s t ∧ x ∉ (t.core n).l1 ∧ (∀ y ∈ (t.core n).l1, y ∈ (s.core n).l1) ∧
      (∀ c, c ≠ n → t.core c = s.core c) ∧ t = { s with cores := t.cores }) ∧
  (∀ wg q s, q < 65536 → ∃ t, Becomes (.eccError 3 (wg * 65536 + q) false) s t ∧ (wg, q) ∈ t.badScratch ∧
    (∀ x ∈ s.badScratch, x ∈ t.badScratch) ∧ t = { s with badScratch := t.badScratch }) ∧
  (∀ h n e s, n < 65536 → (s.home h).dsb[n]? = some e →
    (1 < e.copies → ∃ t, Becomes (.eccError 7 (h * 65536 + n) false) s t ∧
      (t.home h).dsb = (s.home h).dsb.set n { e with copies := e.copies - 1 } ∧ t = { s with homes := t.homes }) ∧
    (e.copies ≤ 1 → ∀ c, Map.find s.ctxs e.write.asid = some c →
      ∃ t c', Becomes (.eccError 7 (h * 65536 + n) false) s t ∧ Map.find t.ctxs e.write.asid = some c' ∧ c'.dead = true)) ∧
  (∀ n i s, i < 65536 →
    (i < (s.core n).plots.length → ∃ t, Becomes (.eccError 8 (n * 65536 + i) false) s t ∧
      t.core n = { s.core n with plots := (s.core n).plots.eraseIdx i } ∧ t = { s with cores := t.cores }) ∧
    (∀ e, (s.core n).plots.length ≤ i → (s.core n).glaze[i - (s.core n).plots.length]? = some e →
      ∃ t, Becomes (.eccError 8 (n * 65536 + i) false) s t ∧ (∀ x ∈ (t.core n).glaze, x.1 ≠ e.1) ∧
        (∀ x ∈ (t.core n).glaze, x ∈ (s.core n).glaze) ∧ (∀ y ∈ (t.core n).l1, y ∈ (s.core n).l1 ∧ y.refersTo e.1 = false) ∧
        t = { s with cores := t.cores })) ∧
  (∀ loc asid c s, Map.find s.ctxs asid = some c → loc / 2 ^ 39 % 65536 = 0 ∨ loc / 2 ^ 39 % 65536 = asid →
    ∃ t c', Becomes (.eccError 9 loc false) s t ∧ Map.find t.ctxs asid = some c' ∧ c'.dead = true) ∧
  (∀ loc s, Becomes (.eccError 10 loc false) s s) ∧
  (∀ core s, core < Config.cores → (s.core core).absent = false → (s.core core).repair = 0 → s.spareLeft core = true →
    s.coreIdle core = false →
    ∃ t, Becomes (.coreRepair core) s t ∧ (t.core core).repair = 1 ∧ t.wgs = s.wgs ∧
      ∀ id w, Map.find s.wgs id = some w → w.core = core → w.state ≠ .saved → s.coopWg w = false → .preempt id ∈ t.agenda) ∧
  (∀ core s, core < Config.cores → (s.core core).absent = false → (s.core core).repair = 0 → s.spareLeft core = true →
    s.coreIdle core = true → Map.sorted s.cores = true →
    ∃ t r, Becomes (.coreRepair core) s t ∧ (t.core core).repair = 0 ∧ (t.core core).spared = (s.core core).spared + 1 ∧ (t.core core).l1 = [] ∧
      .placeWorkgroup ∈ t.agenda ∧ Map.find t.journal s.nextJsn = some r ∧ r.op = 0x82 ∧ r.da = core) ∧
  (∀ n s p, s.ports[n]? = some p →
    (∃ t, Becomes (.portFailure n) s t ∧ t = { s with ports := s.ports.set n { p with up := false } }) ∧
    (∀ outage, p.up = false → ∃ t r, Becomes (.portRelinked n outage) s t ∧ t.ports = s.ports.set n { p with up := true } ∧
      Map.find t.journal s.nextJsn = some r ∧ r.op = 0x84 ∧ r.da = n ∧ r.db = outage) ∧
    (p.up = true → ∃ t, Becomes (.unsupportedPacket n) s t ∧ t = { s with ports := s.ports.set n { p with drops := p.drops + 1 } })) ∧
  (∀ watts s, 1 ≤ s.mgmt.share → s.mgmt.share ≤ 16 → watts < 65536 → ∃ t, Becomes (.powerAdjust watts) s t ∧
    t = { s with mgmt := { s.mgmt with pwrnow := watts, share := t.mgmt.share } } ∧
    (s.mgmt.pwrcap ≠ 0 → s.mgmt.pwrcap < watts → t.mgmt.share = max 1 (s.mgmt.share - 1)) ∧
    (s.mgmt.pwrcap ≠ 0 → watts ≤ s.mgmt.pwrcap → 95 * s.mgmt.pwrcap ≤ 100 * watts → t.mgmt.share = s.mgmt.share) ∧
    (s.mgmt.pwrcap ≠ 0 → 100 * watts < 95 * s.mgmt.pwrcap → t.mgmt.share = min 16 (s.mgmt.share + 1)))

/-- R3, R379 to R381: a write of a management register that is whole and first in its session takes its place in `Mgmt`, what its table
states nothing of ignored; one of an offset whose register is read-only, or that has none, receives status 2 and changes none. The entries BSRC 0
and 15, which the table reserves, count as none: the model's inference (log 81). An update's image is what a reader sees of the shared window from its address on; how far it goes is the model's
choice (log 102), and so is what a signature covers (log 10). -/
def Obligations.ManagementRegisters : Prop :=
  ∀ n s c x, s.transferReady n = some (c, x) → x.mgmt = true → x.bad = false →
    let v := ofBytes ((upto 8).map (fun k => Map.get (0 : Byte) x.got k))
    let at0 := fun (o : Nat) => x.addr = mgmtBase + o
    let sets := fun (i : Instr) (m : Mgmt) => ∃ t, Becomes i s t ∧ t.mgmt = m ∧ Map.find t.transfers n = none ∧
      ∀ q, Map.find s.sessions c.msg.session = some q → ∃ r, t.replies = s.replies ++ [r] ∧ r.cmdid = c.msg.cmdid ∧ r.status = 0
    let refuses := fun (i : Instr) => ∃ t, Becomes i s t ∧ t.mgmt = s.mgmt ∧
      ∀ q, Map.find s.sessions c.msg.session = some q → ∃ r, t.replies = s.replies ++ [r] ∧ r.cmdid = c.msg.cmdid ∧ r.status = 2
    (at0 0x008 → sets (.pwrcap n) { s.mgmt with pwrcap := v % 2 ^ 16 }) ∧
    (at0 0x040 → sets (.hdrres n) { s.mgmt with hdrres := v % 2 ^ 20 }) ∧
    (∀ j, j < 3 → at0 (0x020 + 8 * j) → sets (.key n) { s.mgmt with keyLow := Map.set s.mgmt.keyLow j (BitVec.ofNat 64 v) }) ∧
    (at0 0x038 → sets (.key n) { s.mgmt with
      key := BitVec.ofNat 256 ((Map.get (0 : DWord) s.mgmt.keyLow 0).toNat + (Map.get (0 : DWord) s.mgmt.keyLow 1).toNat * 2 ^ 64
        + (Map.get (0 : DWord) s.mgmt.keyLow 2).toNat * 2 ^ 128 + v * 2 ^ 192), keyWritten := true, keyLow := [] }) ∧
    (∀ j, 1 ≤ j → j ≤ 14 →
      (at0 (0x100 + 16 * j) → sets (.bsrc n) { s.mgmt with
        bsrc := Map.put (0, 0) s.mgmt.bsrc j (BitVec.ofNat 64 v, (Map.get (0, 0) s.mgmt.bsrc j).2) }) ∧
      (at0 (0x108 + 16 * j) → sets (.bsrc n) { s.mgmt with
        bsrc := Map.put (0, 0) s.mgmt.bsrc j ((Map.get (0, 0) s.mgmt.bsrc j).1, v % 2 ^ 16) })) ∧
    (at0 0x048 → 0xF00000000000 ≤ v → v < 2 ^ 48 → HomesQuiet s → s.records = [] → c.lost = false →
      ∀ ps image, State.imageParts c.jsn windowPlots v s [] = .ok ps → s.rangeGated 0 ps = false → plotsMoving ps = false →
        State.hostPieces c.jsn 0 (hostCodes 0 ps) s [] = .ok image →
        image = seenRange s 0 v image.length ∧
        sets (.update n) (if Config.imageSigned image then { s.mgmt with updating := some (Config.imageVersion image) } else s.mgmt)) ∧
    (at0 0x018 → s.mgmt.moving = [] → s.gateBefore c.jsn = false → sets (.gate n) { s.mgmt with
      gate := BitVec.ofNat 8 v
      moving := ((upto 8).filter (fun j => (BitVec.ofNat 8 v).getLsbD j != s.mgmt.gate.getLsbD j)).map
        (fun j => (j, (BitVec.ofNat 8 v).getLsbD j)) }) ∧
    (∀ o, at0 o → o ≠ 0x008 → o ≠ 0x018 → ¬(0x020 ≤ o ∧ o ≤ 0x040) → o ≠ 0x048 → ¬(0x110 ≤ o ∧ o < 0x1F0) →
      refuses (.mgmtRegWriteOther n))

/-- R373, R379, R382: a cluster's gating and its return; the end of an update; module reset, which leaves what is not volatile; the stages
of bring-up, and a stop in one, that of the port die's own rails (5) leaving the ports down and nothing journaled. That `sr.clock` of a cluster's
cores counts from the end of its gating is the model's choice (log 78). -/
def Obligations.GatingUpdateAndBringUp : Prop :=
  (∀ c s, s.mgmt.moving = [(c, true)] → (∀ k ∈ clusterCores c, s.coreIdle k = true) → (s.home c).dsb = [] → (s.home c).prepares = [] →
    s.nextAt c = none → CacheSorted s →
    ∃ t, Becomes (.gateTransitionEnd c) s t ∧ (t.home c).gated = true ∧ (t.home c).lines = [] ∧ t.mgmt.moving = [] ∧
      ∀ a, t.byteAt a = s.byteAt a) ∧
  (∀ c s, s.mgmt.moving = [(c, false)] →
    ∃ t, Becomes (.gateTransitionEnd c) s t ∧ (t.home c).gated = false ∧ t.mgmt.moving = [] ∧
      ∀ k ∈ clusterCores c, (t.core k).gatedOff = false ∧ (t.core k).draining = false ∧ (t.core k).epoch = s.clock) ∧
  (∀ v s, s.mgmt.updating = some v → s.mgmt.deferred = [] →
    ∃ t r, Becomes .bolhornUpdateDone s t ∧ t.mgmt = { s.mgmt with updating := none, version := v } ∧
      Map.find t.journal s.nextJsn = some r ∧ r.op = 0x85 ∧ r.da = s.mgmt.version ∧ r.db = v) ∧
  (∀ s, ∃ t, Becomes .moduleReset s t ∧ t.drills = [] ∧ t.wgs = [] ∧ t.ctxs = [] ∧ t.sessions = [] ∧ t.held = [] ∧ t.bulk = [] ∧
    t.newer = [] ∧ t.pt = [] ∧ t.owners = [] ∧ t.headers = [] ∧ t.clock = 0 ∧ t.mgmt.bring = 0 ∧ t.mgmt.fail = 0 ∧ t.mgmt.key = s.mgmt.key ∧
    t.mgmt.keyWritten = s.mgmt.keyWritten ∧ t.mgmt.bsrc = s.mgmt.bsrc ∧ t.mgmt.version = s.mgmt.version) ∧
  (∀ s, s.mgmt.bring < 6 → s.mgmt.fail = 0 →
    (∃ t, Becomes (.bringStageDone 0) s t ∧
      t.mgmt = { s.mgmt with bring := s.mgmt.bring + 1, spares := if s.mgmt.bring = 3 then t.mgmt.spares else s.mgmt.spares } ∧
      (s.mgmt.bring = 4 → (∀ p ∈ t.ports, p.up = true) ∧ t.journal = [] ∧ t.nextJsn = 1) ∧
      (s.mgmt.bring = 3 → ∀ k, Map.get 0 t.mgmt.spares k ≤ Config.sparesPerCluster) ∧
      (s.mgmt.bring = 2 → t.pt = [] ∧ t.owners = [] ∧ t.headers = [])) ∧
    (∃ t, Becomes (.bringStageDone 5) s t ∧ t = { s with mgmt := { s.mgmt with fail := 1 } }) ∧
    (∀ f, 1 ≤ f → f ≤ 4 → ∃ t r, Becomes (.bringStageDone f) s t ∧ t.mgmt = { s.mgmt with fail := f } ∧
      Map.find t.journal 1 = some r ∧ r.op = 0x8B ∧ r.da = s.mgmt.bring ∧ r.db = f))

/-! ## Mirem (24_host_and_peers.md) -/

/-- R222, R342: TOKEN.READ, TOKEN.SET and TOKEN.SIGNAL. -/
def Obligations.HostTokens : Prop :=
  ∀ s m x c i, x.cls ≤ 1 → i < 4096 → Map.find s.ctxs m.asid = some c → c.dead = false →
    let old := s.tokenWord m.asid i
    (Taken s m 0x05 x → m.payload = toBytes 2 i ++ toBytes 6 0 →
      ∃ t, Becomes (.tokenRead m) s t ∧ Answered s t m 0 old.toNat [] ∧ t.ctxs = s.ctxs) ∧
    (∀ w, w < 2 ^ 64 → Taken s m 0x06 x → m.payload = toBytes 2 i ++ toBytes 6 0 ++ toBytes 8 w →
      ∃ t, Becomes (.tokenSet m) s t ∧ Answered s t m 0 old.toNat [] ∧ t.tokenWord m.asid i = BitVec.ofNat 64 w) ∧
    (∀ e, e ≤ 1 → Taken s m 0x07 x → m.payload = toBytes 2 i ++ toBytes 1 e ++ toBytes 5 0 →
      ∃ t, Becomes (.tokenSignal m) s t ∧ Answered s t m 0 (tokenSignalled old (e == 1)).toNat [] ∧
        t.tokenWord m.asid i = tokenSignalled old (e == 1))

/-- R304, R340, R343, R361: CTX.CREATE makes the context its payload describes; CTX.DESTROY ends a live context's work, and frees one
with nothing left.

R235, R289, R340, R342: LAUNCH, CANCEL (of a launch that has not ended, or of one the journal still holds) and TAPE.TURN. -/
def Obligations.HostContextsAndLaunches : Prop :=
  ((∀ s m x asid sup pol q pri mask root home pb pl ob ol fq, x.cls ≤ 1 → Taken s m 0x01 x →
     m.payload = toBytes 2 asid ++ toBytes 1 sup ++ toBytes 1 pol ++ toBytes 2 q ++ toBytes 2 0 ++ toBytes 8 pri ++ toBytes 32 mask
       ++ toBytes 8 root ++ toBytes 1 home ++ toBytes 7 0 ++ toBytes 8 pb ++ toBytes 8 pl ++ toBytes 8 ob ++ toBytes 8 ol ++ toBytes 8 fq
       ++ toBytes 24 0 →
     1 ≤ asid → asid < 2 ^ 16 → sup ≤ 1 → pol ≤ 2 → (pol = 2 → sup = 1) → q < 2 ^ 16 → pri < 2 ^ 64 →
     (∀ k, k < 16 → pri / 2 ^ (4 * k + 3) % 2 = 0) → mask < 2 ^ 256 → root % 16384 = 0 → 0xF00000000000 ≤ root → root < 2 ^ 48 → home ≤ 7 →
     pb % 2 ^ 31 = 0 → pl % 2 ^ 31 = 0 → pl ≠ 0 → pb + pl ≤ 2 ^ 48 → ob % 256 = 0 → ol % 256 = 0 → ob + ol ≤ 2 ^ 48 → fq % 64 = 0 →
     fq < 2 ^ 48 → s.ctxs.length < Config.maxContexts → Map.find s.ctxs asid = none →
     ∃ t c, Becomes (.ctxCreate m) s t ∧ Answered s t m 0 0 [] ∧ Map.find t.ctxs asid = some c ∧ c.sup = decide (sup = 1) ∧ c.policy = pol ∧
       c.qexist = BitVec.ofNat 16 q ∧ c.qpri = BitVec.ofNat 64 pri ∧ c.mask = BitVec.ofNat 256 mask ∧ c.root = root ∧ c.rootHome = home ∧
       c.privBase = pb ∧ c.privLen = pl ∧ c.poolBase = ob ∧ c.poolLen = ol ∧ c.faultq = BitVec.ofNat 64 fq ∧ c.dead = false ∧
       c.tokens = [] ∧ c.tape = [] ∧ c.faultCount = 0 ∧ ∀ j, j ≠ asid → Map.find t.ctxs j = Map.find s.ctxs j) ∧
   (∀ s m x c, x.cls ≤ 1 → Taken s m 0x02 x → m.payload = [] → Map.find s.ctxs m.asid = some c →
     (c.dead = false → ∃ t c' p, Becomes (.ctxDestroy m) s t ∧ Pends s t m p ∧ Map.find t.ctxs m.asid = some c' ∧ c'.dead = true ∧
       c'.tape = [] ∧ c'.queues = []) ∧
     (c.dead = true → (∀ w ∈ s.wgs, w.2.asid ≠ m.asid) → (∀ l ∈ s.launches, l.2.asid ≠ m.asid) → (∀ e ∈ s.cmds, e.2.asid ≠ m.asid) →
       HomesQuiet s → s.records = [] → entriesOf s m.asid = [] →
       ∃ t, Becomes (.ctxDestroy m) s t ∧ Answered s t m 0 0 [] ∧ Map.find t.ctxs m.asid = none))) ∧
  (∀ s m x c, x.cls ≤ 1 → Map.find s.ctxs m.asid = some c → c.dead = false →
     (∀ q bs, q < 16 → c.hasQueue q = true → bs.length = 64 → (recordOf bs).placemap = false → (recordOf bs).code = none → Taken s m 0x03 x →
       m.payload = toBytes 1 q ++ toBytes 7 0 ++ bs →
       ∃ t l c', Becomes (.launch m) s t ∧ Answered s t m 0 0 [] ∧ Map.find t.launches s.nextJsn = some l ∧ l.record = recordOf bs ∧
         l.asid = m.asid ∧ l.queue = q ∧ l.failed = none ∧ Map.find t.ctxs m.asid = some c' ∧ c'.queue q = c.queue q ++ [s.nextJsn]) ∧
     (∀ n l, n < 2 ^ 64 → Taken s m 0x04 x → m.payload = toBytes 8 n → (∀ q ∈ s.held, q.jsn ≠ n) → Map.find s.launches n = some l →
       l.asid = m.asid → l.failed = none → s.inReplay l = false →
       ∃ t, Becomes (.cancel m) s t ∧ Answered s t m 0 0 [] ∧ Map.find t.launches n = some { l with failed := some 10 }) ∧
     (∀ n r, Taken s m 0x04 x → m.payload = toBytes 8 n → (∀ q ∈ s.held, q.jsn ≠ n) → Map.find s.launches n = none →
       Map.find s.journal n = some r → r.asid = m.asid → r.launch = true → n < s.nextJsn → s.nextJsn < n + 16384 → n < 2 ^ 64 →
       ∃ t, Becomes (.cancel m) s t ∧ Answered s t m 0 0 [] ∧ t.launches = s.launches) ∧
     (∀ q, q < 16 → c.hasQueue q = true → c.replay = none → Taken s m 0x0C x → m.payload = toBytes 1 q ++ toBytes 7 0 →
       ∃ t c', Becomes (.tapeTurnCmd m) s t ∧ Answered s t m 0 c.tape.length [] ∧ Map.find t.ctxs m.asid = some c' ∧
         c'.replay = if c.tape = [] then none else some (s.nextJsn, q)))

/-- R341, R345: a write of memory is numbered and its transfer opened; a DATA message's bytes are taken into it; with all of them its
command is done, every byte at its address in one commit, whose CSN the reply gives: the event of that commit follows the last byte of a command
that is first in its session. ASID 0 is the global key, and a command accepted before an update of Bolhorn waits for its end: the model's inferences
(logs 27, 100).

R346: a read of memory that its plots and homes allow sends the bytes a reader sees as DATA on its bulk session; its RESULT is the CSN
it is current at. -/
def Obligations.HostWritesAndReads : Prop :=
  ((∀ s m x a n b, x.cls = 1 → Taken s m 0x08 x → Lives s m.asid → m.payload = toBytes 8 a ++ toBytes 8 n ++ toBytes 2 b ++ toBytes 6 0 →
     1 ≤ n → n ≤ 2 ^ 32 → a + n ≤ 2 ^ 48 → b < 2 ^ 16 → s.isBulk b = true →
     ∃ t p, Becomes (.memWrite m) s t ∧ Pends s t m p ∧ Map.find t.transfers s.nextJsn =
       some { cmdid := m.cmdid, asid := m.asid, addr := a, len := n, bulk := b, mgmt := false, got := [], bad := false }) ∧
   (∀ s m x n tr p off bs, s.linked = true → Map.find s.sessions m.session = some x → x.cls = 2 → tagHolds x.key m = true → m.op = 0x12 →
     m.asid = 0 → m.len = m.payload.length → m.payload = toBytes 8 off ++ bs → bs ≠ [] → bs.length ≤ 8192 →
     s.transfers = [(n, tr)] → tr.bulk = m.session → tr.cmdid = m.cmdid → tr.got = [] → tr.bad = false → off + bs.length ≤ tr.len →
     off < 2 ^ 64 → s.held.find? (fun q => q.jsn == n) = some p →
     (s.behind p = true ∨ (p.msg.op = 0x08 ∧ p.cls ≤ 1 ∧ p.msg.reserved = 0 ∧ p.msg.len = p.msg.payload.length ∧ Lives s p.msg.asid ∧
       s.rangeOk p.cls p.msg (2 ^ 32) = true ∧ (tr.mgmt = true → mgmtOk tr.addr tr.len = true))) →
     ∃ t tr', Becomes (.dataMsg m) s t ∧ Map.find t.transfers n = some tr' ∧ tr' = { tr with got := tr'.got } ∧
       (∀ k, Map.find tr'.got k = if off ≤ k ∧ k < off + bs.length then some (bs.getD (k - off) 0) else none) ∧
       t.agenda = s.agenda ++ (if s.behind p = false ∧ s.mgmt.updating = none ∧ bs.length = tr.len then [transferEvent n tr] else [])) ∧
   (∀ s n p tr ps q, s.transferReady n = some (p, tr) → tr.mgmt = false → tr.bad = false → Lives s tr.asid → p.lost = false →
     State.hostPlots p.jsn tr.asid true (rangeParts tr.addr tr.len) s [] = .ok ps → s.rangeGated tr.asid ps = false → plotsMoving ps = false →
     let bytes := (upto tr.len).map (fun k => Map.get 0 tr.got k)
     let gs := s.grainsOf tr.asid tr.addr 1 (Attr.host p.jsn) bytes
     s.chunkRoom gs = true → s.soloHolds (fun _ => true) tr.asid (engineSig gs) = false → Map.find s.sessions p.msg.session = some q →
     ∃ t r, Becomes (.memWriteCommit n) s t ∧ t.nextCsn = s.nextCsn + 1 ∧ (∃ y ∈ t.commits, y.csn = s.nextCsn ∧ y.grains = gs ∧
         Carries s tr.asid [(tr.addr, bytes)] y) ∧ t.replies = s.replies ++ [r] ∧ r.status = 0 ∧ r.csn = s.nextCsn ∧ r.jsn = p.jsn ∧ Map.find t.transfers p.jsn = none)) ∧
  (∀ s m x a n b ps bytes, x.cls = 1 → Taken s m 0x09 x → Lives s m.asid →
     m.payload = toBytes 8 a ++ toBytes 8 n ++ toBytes 2 b ++ toBytes 6 0 → 1 ≤ n → n ≤ 65536 → a + n ≤ 2 ^ 48 → b < 2 ^ 16 →
     s.isBulk b = true → HomesQuiet s → s.records = [] → CacheSorted s →
     State.hostPlots s.nextJsn m.asid false (rangeParts a n) s [] = .ok ps → s.rangeGated m.asid ps = false → plotsMoving ps = false →
     State.hostPieces s.nextJsn m.asid (hostCodes m.asid ps) s [] = .ok bytes → bytes ≠ [] → bytes.length ≤ 8192 →
     ∃ t o, Becomes (.memRead m) s t ∧ Answered s t m 0 (s.nextCsn - 1) [] ∧ t.sent = s.sent ++ [o] ∧ o.session = b ∧ o.cmdid = m.cmdid ∧ o.offset = 0 ∧
       o.bytes = seenRange s m.asid a n ∧ ∀ y, t.byteAt y = s.byteAt y)

/-- R308, R342: PLOT.SET writes its entry as a commit of every core and waits for them; level 3 sets the global key's root. -/
def Obligations.HostPlots : Prop :=
  ∀ s m x va level w, va < 2 ^ 48 → w < 2 ^ 64 → Taken s m 0x0A x →
    m.payload = toBytes 8 va ++ toBytes 1 level ++ toBytes 7 0 ++ toBytes 8 w →
    let under := fun (n : Nat) => some (m.asid, va / 65536 / n * n, n)
    (level = 3 → x.cls = 0 → m.asid = 0 →
      ∃ t p y, Becomes (.plotSet m) s t ∧ Pends s t m p ∧ p.csn = s.nextCsn ∧ p.result = s.globalRoot ∧ t.globalRoot = BitVec.ofNat 64 w ∧
        t.nextCsn = s.nextCsn + 1 ∧ y ∈ t.commits ∧ y.csn = s.nextCsn ∧ y.all = true ∧ y.plot = under (2 ^ 32)) ∧
    (∀ h e old, level ≤ 2 → x.cls ≤ 1 → Lives s m.asid → (m.asid = 0 ↔ 0xF00000000000 ≤ va) → s.entryPlace m.asid va level = .place h e →
      h ≤ 7 → e < 2 ^ 48 → HomesQuiet s → s.records = [] → s.plotEntry s.nodeEntry h e 0 = .desc old →
      s.soloHolds (fun _ => true) 0 (engineSig [s.entryWrite s.nextJsn h e (BitVec.ofNat 64 w)]) = false →
      ∃ t p y g, Becomes (.plotSet m) s t ∧ Pends s t m p ∧ p.csn = s.nextCsn ∧ p.result = old ∧ t.nextCsn = s.nextCsn + 1 ∧
        y ∈ t.commits ∧ y.csn = s.nextCsn ∧ y.all = true ∧ y.plot = under (if level = 0 then 1 else if level = 1 then 2 ^ 11 else 2 ^ 21) ∧
        y.grains = [g] ∧ g.addr ≤ addrCode h 0 0 e ∧
        ∀ k, k < 8 → Map.find g.bytes (addrCode h 0 0 e - g.addr + k) = some (BitVec.ofNat 8 (w / 256 ^ k % 256)))

/-- R315, R316, R342: the page operations, where R315 refuses none of them, with the frames' owner entries.

The model's choices here: which frame is taken (log 22); an owner entry of its own for each frame of a large page (log 21), and the locators from
the one given on for its backing (log 23); that a page mapped resident reads zero (log 33); that MIG is set only while a request waits, and a page
found resident goes on without it (log 46); ASID 0 for the global key (log 27). -/
def Obligations.HostPages : Prop :=
  ∀ s m x op home table flags la loc, x.cls ≤ 1 → Taken s m 0x0B x → Lives s m.asid → m.asid < 2 ^ 16 → home ≤ 7 → table ≤ 1 → flags < 4 →
    loc < 2 ^ 24 →
    m.payload = toBytes 1 op ++ toBytes 1 home ++ toBytes 1 table ++ toBytes 1 flags ++ toBytes 4 0 ++ toBytes 8 la ++ toBytes 3 loc
      ++ toBytes 5 0 →
    let p : Page := { a := addrCode home table m.asid la, large := flags % 2 == 1 }
    la % p.bytes = 0 → la < (if table = 0 then 2 ^ 48 else 2 ^ 45) → (s.home home).gated = false → s.refusal op p (flags / 2 == 1) = none →
    (op = 0 → 2 ≤ flags → loc = 0 → ∀ f, s.freeFrame home p.frames = some f →
      ∃ t, Becomes (.pageMap m) s t ∧ Answered s t m 0 f [] ∧ t.entryOf p = pageEntry true p.large f 0 ∧
        (∀ i, i < p.frames → t.ownerOf home (f + i) = p.owner i) ∧ ∀ a, p.has a = true → t.byteAt a = 0) ∧
    (op = 0 → flags < 2 → ∃ t, Becomes (.pageMap m) s t ∧ Answered s t m 0 0 [] ∧ t.entryOf p = pageEntry false p.large 0 loc) ∧
    (op = 1 → flags < 2 → loc = 0 → entRes (s.entryOf p) = true →
      ∃ t, Becomes (.pageMakeResident m) s t ∧ Answered s t m 0 (entFrame (s.entryOf p)) [] ∧ t.entryOf p = s.entryOf p &&& ~~~(8 : DWord) ∧
        (entMig (s.entryOf p) = false → t.pt = s.pt)) ∧
    (op = 1 → flags < 2 → loc = 0 → entRes (s.entryOf p) = false → entLoc (s.entryOf p) = 0xFFFFFF → s.hasEntries p = false →
      s.records = [] → ∀ f, s.freeFrame home p.frames = some f →
      ∃ t, Becomes (.pageMakeResident m) s t ∧ Answered s t m 0 f [] ∧ t.entryOf p = pageEntry true p.large f 0) ∧
    (op = 2 → flags < 2 → loc ≠ 0 → s.locValid loc = true → entRes (s.entryOf p) = true → HomesQuiet s → s.records = [] → s.badIn p = none →
      CacheSorted s → Memory.wf s.bulk = true →
      ∃ t, Becomes (.pageEvict m) s t ∧ Answered s t m 0 0 [] ∧ t.entryOf p = pageEntry false p.large 0 loc ∧
        (loc ≠ 0xFFFFFF → ∀ k, k < p.bytes → Map.get 0 t.backing (backingAt loc + k) = s.byteAt (p.a + k))) ∧
    (op = 3 → flags < 2 → loc = 0 → s.hasEntries p = false → HomesQuiet s → s.records = [] →
      ∃ t, Becomes (.pageUnmap m) s t ∧ Answered s t m 0 0 [] ∧ t.entryOf p = 0 ∧ (entRes (s.entryOf p) = true →
        ∀ i, i < p.frames → entFrame (s.entryOf p) + i < Config.tableFrames → t.ownerOf home (entFrame (s.entryOf p) + i) = 0))

/-- R338, R340, R341: OPEN keys a session of its class; CLOSE ends one after its reply; a reserved opcode receives status 2 and does nothing
else.

R342, R348, R367: GROUP.CFG, whose first part starts the group afresh and whose later ones go on with it or change nothing; JOURNAL.READ of the
records from a JSN on, or from the oldest held, up to the command's own; STATUS, whole.

That a reserved opcode receives status 2 in bring-up and during an update too is the model's choice (log 109). -/
def Obligations.SessionsAndDeviceCommands : Prop :=
  ((∀ s m cls nonce key, m.op = 0x10 → s.linked = true → cls ≤ 2 → s.baseKey cls 0 = some key → tagHolds key m = true →
     s.mgmt.updating = none → s.mgmt.bring = 6 → m.reserved = 0 → m.asid = 0 → m.len = m.payload.length → nonce < 2 ^ 128 →
     m.payload = toBytes 16 nonce ++ toBytes 1 cls ++ toBytes 7 0 → s.sessions.length < Config.maxSessions →
     ∃ t y r n dn, Becomes (.openMsg m) s t ∧ Map.find s.sessions n = none ∧ Map.find t.sessions n = some y ∧ y.cls = cls ∧
       y.key = Config.hkdf key (BitVec.ofNat 128 nonce) dn cls n ∧ t.replies = s.replies ++ [r] ∧ r.status = 0 ∧
       r.result = BitVec.ofNat 64 n ∧ r.payload = toBytes 16 dn.toNat ∧ t.nextJsn = s.nextJsn + 1) ∧
   (∀ s m x, Taken s m 0x11 x → m.payload = [] → m.asid = 0 →
     ∃ t, Becomes (.closeMsg m) s t ∧ Answered s t m 0 0 [] ∧ Map.find t.sessions m.session = none) ∧
   (∀ s m x, reservedOp m.op = true → s.linked = true → Map.find s.sessions m.session = some x → tagHolds x.key m = true →
     ∃ t r, Becomes (.miremReservedOp m) s t ∧ t.replies = s.replies ++ [r] ∧ r.status = 2 ∧ r.cmdid = m.cmdid ∧
       t = { s with sessions := t.sessions, replies := t.replies })) ∧
  (∀ s m x, m.asid = 0 → x.cls = 0 →
     (∀ g np own key ranks, Taken s m 0x0D x → g < 2 ^ 16 → np ≤ 4096 → own < np → key < 2 ^ 256 → ranks ≠ [] → ranks.length ≤ np →
       ranks.length ≤ 4093 → (∀ r ∈ ranks, r < 2 ^ 128) →
       let part := fun (f : Nat) => m.payload =
         toBytes 2 g ++ toBytes 2 np ++ toBytes 2 own ++ toBytes 2 f ++ toBytes 32 key ++ ranks.flatMap (toBytes 16)
       let idle := ∀ c ∈ s.cmds, c.2.major = 0x79 → c.2.op = 4 → c.2.word 0 / 2 ^ 16 % 2 ^ 16 ≠ g
       let written := fun (y : Group) (f : Nat) => ∀ i, i < ranks.length → Map.find y.ranks (f + i) = some (BitVec.ofNat 128 (ranks.getD i 0))
       (idle → part 0 → ∃ t y, Becomes (.groupCfg m) s t ∧ Answered s t m 0 (np - ranks.length) [] ∧ Map.find t.groups g = some y ∧
         y.p = np ∧ y.own = own ∧ y.key = BitVec.ofNat 256 key ∧ y.calls = 0 ∧ y.early = [] ∧ y.ranks.length = ranks.length ∧ written y 0) ∧
       (∀ f y, idle → part f → 0 < f → f + ranks.length ≤ np → Map.find s.groups g = some y → (∀ i, f ≤ i → Map.find y.ranks i = none) →
         let same := y.p = np ∧ y.own = own ∧ y.key = BitVec.ofNat 256 key ∧ y.ranks.length = f
         (same → ∃ t y', Becomes (.groupCfg m) s t ∧ Answered s t m 0 (np - (f + ranks.length)) [] ∧ Map.find t.groups g = some y' ∧
           y' = { y with ranks := y'.ranks } ∧ y'.ranks.length = f + ranks.length ∧ written y' f ∧
           ∀ i, i < f → Map.find y'.ranks i = Map.find y.ranks i) ∧
         (¬same → ∃ t, Becomes (.groupCfg m) s t ∧ Answered s t m 2 0 [] ∧ t.groups = s.groups)) ∧
       (∀ f, ¬idle → part f → f + ranks.length ≤ np → ∃ t, Becomes (.groupCfg m) s t ∧ Answered s t m 6 0 [] ∧ t.groups = s.groups)) ∧
     (∀ first n (rs : List JRec), Taken s m 0x0E x → m.payload = toBytes 8 first ++ toBytes 2 n ++ toBytes 6 0 → 1 ≤ first → first < 2 ^ 64 →
       1 ≤ n → n ≤ 1024 →
       let a := max first (s.nextJsn + 1 - 16384)
       a ≤ s.nextJsn → (∀ j, s.nextJsn < j → Map.find s.journal j = none) → rs.length = min n (s.nextJsn - a) → (∀ i, i < rs.length → Map.find s.journal (a + i) = rs[i]?) →
       ∃ t own, Becomes (.journalRead m) s t ∧
         Answered s t m 0 a ((upto rs.length).flatMap (fun i => match rs[i]? with | some r => r.bytes (a + i) | none => []) ++ own) ∧
         own.length = if rs.length < n then 64 else 0) ∧
     (Taken s m 0x0F x → m.payload = [] → ∃ t present, Becomes (.statusMsg m) s t ∧
       (∀ c, c < 256 → (present.testBit c = true ↔ (s.core c).absent = false)) ∧
       Answered s t m 0 0 (toBytes 8 (s.mgmt.bring + 16 * s.mgmt.fail) ++ toBytes 8 (s.mgmt.pwrnow + s.mgmt.share * 2 ^ 16)
         ++ toBytes 8 s.mgmt.gate.toNat ++ toBytes 32 present ++ toBytes 2 s.sessions.length ++ toBytes 6 0
         ++ s.sessions.flatMap (fun y => toBytes 2 y.1 ++ toBytes 1 y.2.cls ++ toBytes 1 0))))

/-! ## The machine as a whole -/

/-- R94, R95, R101 to R107: every well-formed instruction that has a word decodes from it to itself, all fields kept; and every word
that decodes is the word of the well-formed instruction it decodes to. -/
def Obligations.EncodeDecodes : Prop :=
  (∀ i w, i.WF → encode i = some w → w < 2 ^ 32 ∧ decodeTableWord 32 w = some i) ∧
  (∀ w i, w < 2 ^ 32 → decodeTableWord 32 w = some i → i.WF ∧ encode i = some w)

/-- Words that the worked programs of the spec give beside their instructions (16, 17, 18, 22, 23, 26), decoded. -/
def Obligations.DecodedWords : Prop :=
  [0xD205800A, 0x8E10CB1A, 0x81258B00, 0xB3000A56, 0xD0044017, 0x80600914, 0x144C9801, 0xB5448000, 0xE8808040, 0xE2010E00, 0x245461C2,
    0xB1008B06, 0xD5884010, 0xD4601030, 0xE0C04889, 0xE6401000, 0x6E001040, 0x42C04083, 0x65C40013, 0x50900009, 0x52900003, 0xF2240000,
    0xF2550200, 0xF0020000, 0xC0000000, 0xD8000000, 0x663C000A, 0xBB430A00, 0x4036AA87, 0x0C00400A, 0xEE020628, 0x90008088,
    0xD100C103].map (decodeTableWord 32) =
  [Instr.bcst 22 0 10, .fcmp 0 4 3 22 26, .frsq 22 22, .st 4 0 5 21 2, .shfl 17 0 23, .fma 0 18 20, .addImm 19 19 1, .ldu 5 9 0,
    .tmvE2m1 2 0 64, .tld 2 7 0 0, .cmp 1 5 1 67 66, .ld 4 1 5 65 2, .lxbHi 4 33 0 16, .lxbLo 3 0 32 48, .mmas 0 1 2 0 0 9, .acst 0 8 0 0,
    .rdsr 1 1, .cmpU 3 0 1 1 3, .bra 3 1 1 19, .ldiU 18 9, .movkU 18 3, .engGrd 16 0 0, .engWt 20 2, .glzScl 8 0, .chkEnd, .barReg 0,
    .jmp 10, .red 5 6 5 0 0, .uniformAlu 13 42 42 7, .intArithVs 0 1 0 10, .adamw 8 12 40, .cvt 0 2 1 0 8,
    .lredAddF32 3 2 3].map some

/-- R94, R98, R99, R237, R239: a step carries out the event enabled first; with none, it tries a command of the host again that waits for that;
with none and no sleeper due, it runs `exec` of the unit fetched at the PC of the drill picked, the other ready drills of its partition
having waited for as long as the step takes, and a unit of one word is the instruction that word decodes to; where the drill's explicit chunk has
LIMIT units, it runs that chunk's end instead (R239). Time passes at each step (log 2), and nothing else where no drill is ready. -/
def Obligations.StepRunsTheDecodedInstruction : Prop :=
  ∀ s,
    (∀ i rest, s.agenda = i :: rest → step s = exec i { s.pass with agenda := rest }) ∧
    (∀ n rest, s.agenda = [] → s.retry = n :: rest → step s = .next ({ s.pass with retry := rest }.tryCommand n)) ∧
    (s.agenda = [] → s.retry = [] →
      (∀ k, s.pass.dueSleeper = some k → step s = exec (.sleepExpiry k) s.pass) ∧
      (s.pass.dueSleeper = none → s.pass.pick = none → step s = .next s.pass) ∧
      (∀ k d, s.pass.dueSleeper = none → s.pass.pick = some k → Map.find s.drills k = some d →
        let s0 : State := { s.pass.waitOthers k (Config.elapsed s.tick) with turn := partKey k + 1 }
        let issues := d.chunk.expl = none ∨ d.chunk.units < d.chunk.limit
        (¬issues → step s = exec (.chunkLimitReached k) s0) ∧
        (∀ s1 h i n, issues → s0.fetch k d = .unit s1 h i n →
          step s = exec i { s1 with cur := k, unit := { hints := h, first := d.regs.pc, words := n } }) ∧
        (∀ s1 w i, issues → s0.fetchWord k d d.regs.pc.toNat = .word s1 w → w < 2 ^ 32 → decodeTableWord 32 w = some i →
          step s = exec i { s1 with cur := k, unit := { hints := Hints.empty, first := d.regs.pc, words := 1 } }) ∧
        (∀ s1 kind detail addr n, issues → s0.fetch k d = .trap s1 kind detail addr n →
          step s = exec (.illegalInstruction kind detail addr)
            { s1 with cur := k, unit := { hints := Hints.empty, first := d.regs.pc, words := n } })))

/-- The model's memories, page tables, headers, drills and workgroups keep their canonical form at every step: keys rising, and nothing
listed that an unlisted key reads as. -/
def Obligations.MemoryStaysCanonical : Prop :=
  ∀ s t, Canonical s → step s = .next t → Canonical t

/-- The device right after module reset (R382) is in canonical form, at BRING 0, with no port up, no session, no context and no drill;
the journal and the commit order are at their start, and every byte reads as the model's zero. -/
def Obligations.ResetIsCanonical : Prop :=
  Canonical State.reset ∧ State.reset.mgmt.bring = 0 ∧ State.reset.mgmt.fail = 0 ∧ (∀ p ∈ State.reset.ports, p.up = false) ∧
    State.reset.sessions = [] ∧ State.reset.ctxs = [] ∧ State.reset.drills = [] ∧ State.reset.wgs = [] ∧ State.reset.agenda = [] ∧
    State.reset.nextCsn = 1 ∧ State.reset.nextJsn = 1 ∧ State.reset.mgmt.updating = none ∧ ∀ a, State.reset.byteAt a = 0
end

