-- ==== Sys2Proof/Laws/Maps.lean ====
section
/-!
SUPPORT. What reading a map or a memory gives after each operation on it, and that every memory operation keeps the canonical form.
-/

namespace Sys2Proof.Machine

variable {α : Type}

/-! ### Reading after an operation -/

@[simp] theorem Map.find_nil (k : Nat) : Map.find ([] : Map α) k = none := rfl

theorem Map.find_cons (k : Nat) (c : Nat × α) (t : Map α) :
    Map.find (c :: t) k = if k = c.1 then some c.2 else Map.find t k := rfl

@[simp] theorem Map.find_set_same (l : Map α) (k : Nat) (x : α) : Map.find (Map.set l k x) k = some x := by
  induction l with
  | nil => simp [Map.set, Map.find]
  | cons c t ih =>
    obtain ⟨j, y⟩ := c
    simp only [Map.set]
    split
    · simp [Map.find]
    · split
      · simp [Map.find]
      · simp [Map.find, *]

theorem Map.find_set_other (l : Map α) {j k : Nat} (x : α) (h : j ≠ k) : Map.find (Map.set l k x) j = Map.find l j := by
  induction l with
  | nil => simp [Map.set, Map.find, h]
  | cons c t ih =>
    obtain ⟨i, y⟩ := c
    simp only [Map.set]
    split
    · simp [Map.find, h]
    · split
      · subst_vars; simp [Map.find, h]
      · simp [Map.find, ih]

theorem Map.find_set (l : Map α) (j k : Nat) (x : α) :
    Map.find (Map.set l k x) j = if j = k then some x else Map.find l j := by
  split
  · subst_vars; simp
  · exact Map.find_set_other l x ‹_›

theorem Map.find_filter_key (l : Map α) (p : Nat → Bool) (j : Nat) :
    Map.find (l.filter (fun c => p c.1)) j = if p j then Map.find l j else none := by
  induction l with
  | nil => simp
  | cons c t ih =>
    obtain ⟨i, y⟩ := c
    by_cases hi : p i
    · by_cases hj : j = i
      · subst hj; simp [hi, Map.find]
      · simp [hi, Map.find, hj, ih]
    · by_cases hj : j = i
      · subst hj; simp [hi, ih]
      · simp [hi, Map.find, hj, ih]

theorem Map.find_erase (l : Map α) (j k : Nat) :
    Map.find (Map.erase l k) j = if j = k then none else Map.find l j := by
  unfold Map.erase
  rw [Map.find_filter_key l (fun i => i != k) j]
  by_cases h : j = k <;> simp [h]

/-- A map over the values keeps the keys. -/
theorem Map.find_map_values (l : Map α) {β : Type} (f : Nat → α → β) (j : Nat) :
    Map.find (l.map (fun c => (c.1, f c.1 c.2))) j = (Map.find l j).map (f j) := by
  induction l with
  | nil => simp
  | cons c t ih =>
    obtain ⟨i, y⟩ := c
    by_cases hj : j = i
    · subst hj; simp [Map.find]
    · simp [Map.find, hj, ih]

theorem Map.find_update (l : Map α) (j k : Nat) (f : α → α) :
    Map.find (Map.update l k f) j = if j = k then (Map.find l k).map f else Map.find l j := by
  unfold Map.update
  cases h : Map.find l k with
  | none => by_cases hj : j = k <;> simp [hj, h]
  | some x => simp [Map.find_set]

theorem Map.get_set (d : α) (l : Map α) (j k : Nat) (x : α) :
    Map.get d (Map.set l k x) j = if j = k then x else Map.get d l j := by
  unfold Map.get
  rw [Map.find_set]
  by_cases h : j = k <;> simp [h]

theorem Map.get_put [DecidableEq α] (d : α) (l : Map α) (j k : Nat) (x : α) :
    Map.get d (Map.put d l k x) j = if j = k then x else Map.get d l j := by
  unfold Map.put
  split
  · subst_vars
    unfold Map.get
    rw [Map.find_erase]
    by_cases h : j = k <;> simp [h]
  · exact Map.get_set d l j k x

/-- Reading a memory after a byte is written. -/
theorem Memory.get_put (m : Memory) (a k : Nat) (b : BitVec 8) :
    Memory.get (Memory.put m k b) a = if a = k then b else Memory.get m a := Map.get_put 0 m a k b

/-! ### The canonical form (R253) -/

theorem Map.risingFrom_cons (lo k : Nat) (x : α) (t : Map α) :
    Map.risingFrom lo ((k, x) :: t) = true ↔ lo ≤ k ∧ Map.risingFrom (k + 1) t = true := by
  simp [Map.risingFrom]

theorem Map.risingFrom_mono {lo hi : Nat} (h : lo ≤ hi) {l : Map α} (hl : Map.risingFrom hi l = true) :
    Map.risingFrom lo l = true := by
  cases l with
  | nil => rfl
  | cons c t =>
    obtain ⟨k, x⟩ := c
    rw [Map.risingFrom_cons] at *
    exact ⟨by omega, hl.2⟩

theorem Map.risingFrom_set {lo k : Nat} (h : lo ≤ k) (x : α) {l : Map α} (hl : Map.risingFrom lo l = true) :
    Map.risingFrom lo (Map.set l k x) = true := by
  induction l generalizing lo with
  | nil => simp [Map.set, Map.risingFrom, h]
  | cons c t ih =>
    obtain ⟨i, y⟩ := c
    rw [Map.risingFrom_cons] at hl
    simp only [Map.set]
    split
    · rw [Map.risingFrom_cons, Map.risingFrom_cons]; exact ⟨h, by omega, hl.2⟩
    · split
      · subst_vars; rw [Map.risingFrom_cons]; exact hl
      · rw [Map.risingFrom_cons]; exact ⟨hl.1, ih (by omega) hl.2⟩

theorem Map.risingFrom_filter {lo : Nat} (p : Nat × α → Bool) {l : Map α} (hl : Map.risingFrom lo l = true) :
    Map.risingFrom lo (l.filter p) = true := by
  induction l generalizing lo with
  | nil => rfl
  | cons c t ih =>
    obtain ⟨i, y⟩ := c
    rw [Map.risingFrom_cons] at hl
    rw [List.filter_cons]
    split
    · rw [Map.risingFrom_cons]; exact ⟨hl.1, ih hl.2⟩
    · exact Map.risingFrom_mono (by omega) (ih hl.2)

theorem Map.sorted_set (l : Map α) (k : Nat) (x : α) (hl : Map.sorted l = true) : Map.sorted (Map.set l k x) = true :=
  Map.risingFrom_set (Nat.zero_le k) x hl

theorem Map.sorted_filter (l : Map α) (p : Nat × α → Bool) (hl : Map.sorted l = true) : Map.sorted (l.filter p) = true :=
  Map.risingFrom_filter p hl

theorem Map.all_set (p : Nat × α → Bool) (l : Map α) (k : Nat) (x : α) (hx : p (k, x) = true) (hl : l.all p = true) :
    (Map.set l k x).all p = true := by
  induction l with
  | nil => simp [Map.set, hx]
  | cons c t ih =>
    obtain ⟨i, y⟩ := c
    simp only [List.all_cons, Bool.and_eq_true] at hl
    simp only [Map.set]
    split
    · simp [hx, hl]
    · split
      · simp [hx, hl]
      · simp [hl.1, ih hl.2]

theorem Map.all_filter (p q : Nat × α → Bool) (l : Map α) (hl : l.all p = true) : (l.filter q).all p = true := by
  rw [List.all_eq_true] at *
  intro c hc
  exact hl c (List.mem_of_mem_filter hc)

theorem Map.canonical_put [DecidableEq α] (d : α) (l : Map α) (k : Nat) (x : α) (hl : Map.canonical d l = true) :
    Map.canonical d (Map.put d l k x) = true := by
  unfold Map.canonical at *
  rw [Bool.and_eq_true] at *
  unfold Map.put
  split
  · exact ⟨Map.sorted_filter l _ hl.1, Map.all_filter _ _ l hl.2⟩
  · exact ⟨Map.sorted_set l k x hl.1, Map.all_set _ l k x (by simpa using ‹¬x = d›) hl.2⟩

theorem Map.canonical_filter [DecidableEq α] (d : α) (l : Map α) (q : Nat × α → Bool) (hl : Map.canonical d l = true) :
    Map.canonical d (l.filter q) = true := by
  unfold Map.canonical at *
  rw [Bool.and_eq_true] at *
  exact ⟨Map.sorted_filter l q hl.1, Map.all_filter _ _ l hl.2⟩

/-- Writing a byte keeps a memory's canonical form. -/
theorem Memory.wf_put (m : Memory) (a : Nat) (b : BitVec 8) (hm : Memory.wf m = true) : Memory.wf (Memory.put m a b) = true :=
  Map.canonical_put 0 m a b hm

/-- Dropping bytes keeps a memory's canonical form. -/
theorem Memory.wf_filter (m : Memory) (p : Nat × BitVec 8 → Bool) (hm : Memory.wf m = true) : Memory.wf (m.filter p) = true :=
  Map.canonical_filter 0 m p hm

/-- Writing any list of bytes keeps a memory's canonical form. -/
theorem Memory.wf_foldl_put {β : Type} (f : β → Nat) (g : β → BitVec 8) (l : List β) (m : Memory) (hm : Memory.wf m = true) :
    Memory.wf (l.foldl (fun m c => Memory.put m (f c) (g c)) m) = true := by
  induction l generalizing m with
  | nil => exact hm
  | cons c t ih => exact ih _ (Memory.wf_put m _ _ hm)

end Sys2Proof.Machine
end

