-- ==== Sys2Proof/Laws/State.lean ====
section
/-!
SUPPORT. One lemma per field and update: what an operation of the state or of a drill leaves as it was.
-/

namespace Sys2Proof.Machine

open Sys2Proof

/-! ### `State.setDrill` -/

@[simp] theorem State.setDrill_agenda (s : State) (k : Nat) (d : Drill) : (s.setDrill k d).agenda = s.agenda := rfl
@[simp] theorem State.setDrill_cur (s : State) (k : Nat) (d : Drill) : (s.setDrill k d).cur = s.cur := rfl
@[simp] theorem State.setDrill_unit (s : State) (k : Nat) (d : Drill) : (s.setDrill k d).unit = s.unit := rfl
@[simp] theorem State.setDrill_turn (s : State) (k : Nat) (d : Drill) : (s.setDrill k d).turn = s.turn := rfl
@[simp] theorem State.setDrill_tick (s : State) (k : Nat) (d : Drill) : (s.setDrill k d).tick = s.tick := rfl
@[simp] theorem State.setDrill_clock (s : State) (k : Nat) (d : Drill) : (s.setDrill k d).clock = s.clock := rfl
@[simp] theorem State.setDrill_drills (s : State) (k : Nat) (d : Drill) : (s.setDrill k d).drills = Map.set s.drills k d := rfl
@[simp] theorem State.setDrill_wgs (s : State) (k : Nat) (d : Drill) : (s.setDrill k d).wgs = s.wgs := rfl
@[simp] theorem State.setDrill_launches (s : State) (k : Nat) (d : Drill) : (s.setDrill k d).launches = s.launches := rfl
@[simp] theorem State.setDrill_ctxs (s : State) (k : Nat) (d : Drill) : (s.setDrill k d).ctxs = s.ctxs := rfl
@[simp] theorem State.setDrill_cores (s : State) (k : Nat) (d : Drill) : (s.setDrill k d).cores = s.cores := rfl
@[simp] theorem State.setDrill_homes (s : State) (k : Nat) (d : Drill) : (s.setDrill k d).homes = s.homes := rfl
@[simp] theorem State.setDrill_bulk (s : State) (k : Nat) (d : Drill) : (s.setDrill k d).bulk = s.bulk := rfl
@[simp] theorem State.setDrill_newer (s : State) (k : Nat) (d : Drill) : (s.setDrill k d).newer = s.newer := rfl
@[simp] theorem State.setDrill_bad (s : State) (k : Nat) (d : Drill) : (s.setDrill k d).bad = s.bad := rfl
@[simp] theorem State.setDrill_badScratch (s : State) (k : Nat) (d : Drill) : (s.setDrill k d).badScratch = s.badScratch := rfl
@[simp] theorem State.setDrill_pt (s : State) (k : Nat) (d : Drill) : (s.setDrill k d).pt = s.pt := rfl
@[simp] theorem State.setDrill_owners (s : State) (k : Nat) (d : Drill) : (s.setDrill k d).owners = s.owners := rfl
@[simp] theorem State.setDrill_headers (s : State) (k : Nat) (d : Drill) : (s.setDrill k d).headers = s.headers := rfl
@[simp] theorem State.setDrill_origins (s : State) (k : Nat) (d : Drill) : (s.setDrill k d).origins = s.origins := rfl
@[simp] theorem State.setDrill_demands (s : State) (k : Nat) (d : Drill) : (s.setDrill k d).demands = s.demands := rfl
@[simp] theorem State.setDrill_fills (s : State) (k : Nat) (d : Drill) : (s.setDrill k d).fills = s.fills := rfl
@[simp] theorem State.setDrill_globalRoot (s : State) (k : Nat) (d : Drill) : (s.setDrill k d).globalRoot = s.globalRoot := rfl
@[simp] theorem State.setDrill_token (s : State) (k : Nat) (d : Drill) : (s.setDrill k d).token = s.token := rfl
@[simp] theorem State.setDrill_nextCsn (s : State) (k : Nat) (d : Drill) : (s.setDrill k d).nextCsn = s.nextCsn := rfl
@[simp] theorem State.setDrill_requests (s : State) (k : Nat) (d : Drill) : (s.setDrill k d).requests = s.requests := rfl
@[simp] theorem State.setDrill_commits (s : State) (k : Nat) (d : Drill) : (s.setDrill k d).commits = s.commits := rfl
@[simp] theorem State.setDrill_solos (s : State) (k : Nat) (d : Drill) : (s.setDrill k d).solos = s.solos := rfl
@[simp] theorem State.setDrill_cmds (s : State) (k : Nat) (d : Drill) : (s.setDrill k d).cmds = s.cmds := rfl
@[simp] theorem State.setDrill_records (s : State) (k : Nat) (d : Drill) : (s.setDrill k d).records = s.records := rfl
@[simp] theorem State.setDrill_nextId (s : State) (k : Nat) (d : Drill) : (s.setDrill k d).nextId = s.nextId := rfl
@[simp] theorem State.setDrill_nextOrder (s : State) (k : Nat) (d : Drill) : (s.setDrill k d).nextOrder = s.nextOrder := rfl
@[simp] theorem State.setDrill_sessions (s : State) (k : Nat) (d : Drill) : (s.setDrill k d).sessions = s.sessions := rfl
@[simp] theorem State.setDrill_ports (s : State) (k : Nat) (d : Drill) : (s.setDrill k d).ports = s.ports := rfl
@[simp] theorem State.setDrill_transfers (s : State) (k : Nat) (d : Drill) : (s.setDrill k d).transfers = s.transfers := rfl
@[simp] theorem State.setDrill_groups (s : State) (k : Nat) (d : Drill) : (s.setDrill k d).groups = s.groups := rfl
@[simp] theorem State.setDrill_journal (s : State) (k : Nat) (d : Drill) : (s.setDrill k d).journal = s.journal := rfl
@[simp] theorem State.setDrill_nextJsn (s : State) (k : Nat) (d : Drill) : (s.setDrill k d).nextJsn = s.nextJsn := rfl
@[simp] theorem State.setDrill_replies (s : State) (k : Nat) (d : Drill) : (s.setDrill k d).replies = s.replies := rfl
@[simp] theorem State.setDrill_sent (s : State) (k : Nat) (d : Drill) : (s.setDrill k d).sent = s.sent := rfl
@[simp] theorem State.setDrill_held (s : State) (k : Nat) (d : Drill) : (s.setDrill k d).held = s.held := rfl
@[simp] theorem State.setDrill_retry (s : State) (k : Nat) (d : Drill) : (s.setDrill k d).retry = s.retry := rfl
@[simp] theorem State.setDrill_backing (s : State) (k : Nat) (d : Drill) : (s.setDrill k d).backing = s.backing := rfl
@[simp] theorem State.setDrill_mgmt (s : State) (k : Nat) (d : Drill) : (s.setDrill k d).mgmt = s.mgmt := rfl

/-! ### `State.updDrill` -/

@[simp] theorem State.updDrill_agenda (s : State) (k : Nat) (f : Drill → Drill) : (s.updDrill k f).agenda = s.agenda := rfl
@[simp] theorem State.updDrill_cur (s : State) (k : Nat) (f : Drill → Drill) : (s.updDrill k f).cur = s.cur := rfl
@[simp] theorem State.updDrill_unit (s : State) (k : Nat) (f : Drill → Drill) : (s.updDrill k f).unit = s.unit := rfl
@[simp] theorem State.updDrill_turn (s : State) (k : Nat) (f : Drill → Drill) : (s.updDrill k f).turn = s.turn := rfl
@[simp] theorem State.updDrill_tick (s : State) (k : Nat) (f : Drill → Drill) : (s.updDrill k f).tick = s.tick := rfl
@[simp] theorem State.updDrill_clock (s : State) (k : Nat) (f : Drill → Drill) : (s.updDrill k f).clock = s.clock := rfl
@[simp] theorem State.updDrill_drills (s : State) (k : Nat) (f : Drill → Drill) : (s.updDrill k f).drills = Map.update s.drills k f := rfl
@[simp] theorem State.updDrill_wgs (s : State) (k : Nat) (f : Drill → Drill) : (s.updDrill k f).wgs = s.wgs := rfl
@[simp] theorem State.updDrill_launches (s : State) (k : Nat) (f : Drill → Drill) : (s.updDrill k f).launches = s.launches := rfl
@[simp] theorem State.updDrill_ctxs (s : State) (k : Nat) (f : Drill → Drill) : (s.updDrill k f).ctxs = s.ctxs := rfl
@[simp] theorem State.updDrill_cores (s : State) (k : Nat) (f : Drill → Drill) : (s.updDrill k f).cores = s.cores := rfl
@[simp] theorem State.updDrill_homes (s : State) (k : Nat) (f : Drill → Drill) : (s.updDrill k f).homes = s.homes := rfl
@[simp] theorem State.updDrill_bulk (s : State) (k : Nat) (f : Drill → Drill) : (s.updDrill k f).bulk = s.bulk := rfl
@[simp] theorem State.updDrill_newer (s : State) (k : Nat) (f : Drill → Drill) : (s.updDrill k f).newer = s.newer := rfl
@[simp] theorem State.updDrill_bad (s : State) (k : Nat) (f : Drill → Drill) : (s.updDrill k f).bad = s.bad := rfl
@[simp] theorem State.updDrill_badScratch (s : State) (k : Nat) (f : Drill → Drill) : (s.updDrill k f).badScratch = s.badScratch := rfl
@[simp] theorem State.updDrill_pt (s : State) (k : Nat) (f : Drill → Drill) : (s.updDrill k f).pt = s.pt := rfl
@[simp] theorem State.updDrill_owners (s : State) (k : Nat) (f : Drill → Drill) : (s.updDrill k f).owners = s.owners := rfl
@[simp] theorem State.updDrill_headers (s : State) (k : Nat) (f : Drill → Drill) : (s.updDrill k f).headers = s.headers := rfl
@[simp] theorem State.updDrill_origins (s : State) (k : Nat) (f : Drill → Drill) : (s.updDrill k f).origins = s.origins := rfl
@[simp] theorem State.updDrill_demands (s : State) (k : Nat) (f : Drill → Drill) : (s.updDrill k f).demands = s.demands := rfl
@[simp] theorem State.updDrill_fills (s : State) (k : Nat) (f : Drill → Drill) : (s.updDrill k f).fills = s.fills := rfl
@[simp] theorem State.updDrill_globalRoot (s : State) (k : Nat) (f : Drill → Drill) : (s.updDrill k f).globalRoot = s.globalRoot := rfl
@[simp] theorem State.updDrill_token (s : State) (k : Nat) (f : Drill → Drill) : (s.updDrill k f).token = s.token := rfl
@[simp] theorem State.updDrill_nextCsn (s : State) (k : Nat) (f : Drill → Drill) : (s.updDrill k f).nextCsn = s.nextCsn := rfl
@[simp] theorem State.updDrill_requests (s : State) (k : Nat) (f : Drill → Drill) : (s.updDrill k f).requests = s.requests := rfl
@[simp] theorem State.updDrill_commits (s : State) (k : Nat) (f : Drill → Drill) : (s.updDrill k f).commits = s.commits := rfl
@[simp] theorem State.updDrill_solos (s : State) (k : Nat) (f : Drill → Drill) : (s.updDrill k f).solos = s.solos := rfl
@[simp] theorem State.updDrill_cmds (s : State) (k : Nat) (f : Drill → Drill) : (s.updDrill k f).cmds = s.cmds := rfl
@[simp] theorem State.updDrill_records (s : State) (k : Nat) (f : Drill → Drill) : (s.updDrill k f).records = s.records := rfl
@[simp] theorem State.updDrill_nextId (s : State) (k : Nat) (f : Drill → Drill) : (s.updDrill k f).nextId = s.nextId := rfl
@[simp] theorem State.updDrill_nextOrder (s : State) (k : Nat) (f : Drill → Drill) : (s.updDrill k f).nextOrder = s.nextOrder := rfl
@[simp] theorem State.updDrill_sessions (s : State) (k : Nat) (f : Drill → Drill) : (s.updDrill k f).sessions = s.sessions := rfl
@[simp] theorem State.updDrill_ports (s : State) (k : Nat) (f : Drill → Drill) : (s.updDrill k f).ports = s.ports := rfl
@[simp] theorem State.updDrill_transfers (s : State) (k : Nat) (f : Drill → Drill) : (s.updDrill k f).transfers = s.transfers := rfl
@[simp] theorem State.updDrill_groups (s : State) (k : Nat) (f : Drill → Drill) : (s.updDrill k f).groups = s.groups := rfl
@[simp] theorem State.updDrill_journal (s : State) (k : Nat) (f : Drill → Drill) : (s.updDrill k f).journal = s.journal := rfl
@[simp] theorem State.updDrill_nextJsn (s : State) (k : Nat) (f : Drill → Drill) : (s.updDrill k f).nextJsn = s.nextJsn := rfl
@[simp] theorem State.updDrill_replies (s : State) (k : Nat) (f : Drill → Drill) : (s.updDrill k f).replies = s.replies := rfl
@[simp] theorem State.updDrill_sent (s : State) (k : Nat) (f : Drill → Drill) : (s.updDrill k f).sent = s.sent := rfl
@[simp] theorem State.updDrill_held (s : State) (k : Nat) (f : Drill → Drill) : (s.updDrill k f).held = s.held := rfl
@[simp] theorem State.updDrill_retry (s : State) (k : Nat) (f : Drill → Drill) : (s.updDrill k f).retry = s.retry := rfl
@[simp] theorem State.updDrill_backing (s : State) (k : Nat) (f : Drill → Drill) : (s.updDrill k f).backing = s.backing := rfl
@[simp] theorem State.updDrill_mgmt (s : State) (k : Nat) (f : Drill → Drill) : (s.updDrill k f).mgmt = s.mgmt := rfl

/-! ### `State.setCore` -/

@[simp] theorem State.setCore_agenda (s : State) (c : Nat) (x : Core) : (s.setCore c x).agenda = s.agenda := rfl
@[simp] theorem State.setCore_cur (s : State) (c : Nat) (x : Core) : (s.setCore c x).cur = s.cur := rfl
@[simp] theorem State.setCore_unit (s : State) (c : Nat) (x : Core) : (s.setCore c x).unit = s.unit := rfl
@[simp] theorem State.setCore_turn (s : State) (c : Nat) (x : Core) : (s.setCore c x).turn = s.turn := rfl
@[simp] theorem State.setCore_tick (s : State) (c : Nat) (x : Core) : (s.setCore c x).tick = s.tick := rfl
@[simp] theorem State.setCore_clock (s : State) (c : Nat) (x : Core) : (s.setCore c x).clock = s.clock := rfl
@[simp] theorem State.setCore_drills (s : State) (c : Nat) (x : Core) : (s.setCore c x).drills = s.drills := rfl
@[simp] theorem State.setCore_wgs (s : State) (c : Nat) (x : Core) : (s.setCore c x).wgs = s.wgs := rfl
@[simp] theorem State.setCore_launches (s : State) (c : Nat) (x : Core) : (s.setCore c x).launches = s.launches := rfl
@[simp] theorem State.setCore_ctxs (s : State) (c : Nat) (x : Core) : (s.setCore c x).ctxs = s.ctxs := rfl
@[simp] theorem State.setCore_cores (s : State) (c : Nat) (x : Core) : (s.setCore c x).cores = Map.set s.cores c x := rfl
@[simp] theorem State.setCore_homes (s : State) (c : Nat) (x : Core) : (s.setCore c x).homes = s.homes := rfl
@[simp] theorem State.setCore_bulk (s : State) (c : Nat) (x : Core) : (s.setCore c x).bulk = s.bulk := rfl
@[simp] theorem State.setCore_newer (s : State) (c : Nat) (x : Core) : (s.setCore c x).newer = s.newer := rfl
@[simp] theorem State.setCore_bad (s : State) (c : Nat) (x : Core) : (s.setCore c x).bad = s.bad := rfl
@[simp] theorem State.setCore_badScratch (s : State) (c : Nat) (x : Core) : (s.setCore c x).badScratch = s.badScratch := rfl
@[simp] theorem State.setCore_pt (s : State) (c : Nat) (x : Core) : (s.setCore c x).pt = s.pt := rfl
@[simp] theorem State.setCore_owners (s : State) (c : Nat) (x : Core) : (s.setCore c x).owners = s.owners := rfl
@[simp] theorem State.setCore_headers (s : State) (c : Nat) (x : Core) : (s.setCore c x).headers = s.headers := rfl
@[simp] theorem State.setCore_origins (s : State) (c : Nat) (x : Core) : (s.setCore c x).origins = s.origins := rfl
@[simp] theorem State.setCore_demands (s : State) (c : Nat) (x : Core) : (s.setCore c x).demands = s.demands := rfl
@[simp] theorem State.setCore_fills (s : State) (c : Nat) (x : Core) : (s.setCore c x).fills = s.fills := rfl
@[simp] theorem State.setCore_globalRoot (s : State) (c : Nat) (x : Core) : (s.setCore c x).globalRoot = s.globalRoot := rfl
@[simp] theorem State.setCore_token (s : State) (c : Nat) (x : Core) : (s.setCore c x).token = s.token := rfl
@[simp] theorem State.setCore_nextCsn (s : State) (c : Nat) (x : Core) : (s.setCore c x).nextCsn = s.nextCsn := rfl
@[simp] theorem State.setCore_requests (s : State) (c : Nat) (x : Core) : (s.setCore c x).requests = s.requests := rfl
@[simp] theorem State.setCore_commits (s : State) (c : Nat) (x : Core) : (s.setCore c x).commits = s.commits := rfl
@[simp] theorem State.setCore_solos (s : State) (c : Nat) (x : Core) : (s.setCore c x).solos = s.solos := rfl
@[simp] theorem State.setCore_cmds (s : State) (c : Nat) (x : Core) : (s.setCore c x).cmds = s.cmds := rfl
@[simp] theorem State.setCore_records (s : State) (c : Nat) (x : Core) : (s.setCore c x).records = s.records := rfl
@[simp] theorem State.setCore_nextId (s : State) (c : Nat) (x : Core) : (s.setCore c x).nextId = s.nextId := rfl
@[simp] theorem State.setCore_nextOrder (s : State) (c : Nat) (x : Core) : (s.setCore c x).nextOrder = s.nextOrder := rfl
@[simp] theorem State.setCore_sessions (s : State) (c : Nat) (x : Core) : (s.setCore c x).sessions = s.sessions := rfl
@[simp] theorem State.setCore_ports (s : State) (c : Nat) (x : Core) : (s.setCore c x).ports = s.ports := rfl
@[simp] theorem State.setCore_transfers (s : State) (c : Nat) (x : Core) : (s.setCore c x).transfers = s.transfers := rfl
@[simp] theorem State.setCore_groups (s : State) (c : Nat) (x : Core) : (s.setCore c x).groups = s.groups := rfl
@[simp] theorem State.setCore_journal (s : State) (c : Nat) (x : Core) : (s.setCore c x).journal = s.journal := rfl
@[simp] theorem State.setCore_nextJsn (s : State) (c : Nat) (x : Core) : (s.setCore c x).nextJsn = s.nextJsn := rfl
@[simp] theorem State.setCore_replies (s : State) (c : Nat) (x : Core) : (s.setCore c x).replies = s.replies := rfl
@[simp] theorem State.setCore_sent (s : State) (c : Nat) (x : Core) : (s.setCore c x).sent = s.sent := rfl
@[simp] theorem State.setCore_held (s : State) (c : Nat) (x : Core) : (s.setCore c x).held = s.held := rfl
@[simp] theorem State.setCore_retry (s : State) (c : Nat) (x : Core) : (s.setCore c x).retry = s.retry := rfl
@[simp] theorem State.setCore_backing (s : State) (c : Nat) (x : Core) : (s.setCore c x).backing = s.backing := rfl
@[simp] theorem State.setCore_mgmt (s : State) (c : Nat) (x : Core) : (s.setCore c x).mgmt = s.mgmt := rfl

/-! ### `State.setHome` -/

@[simp] theorem State.setHome_agenda (s : State) (h : Nat) (x : Home) : (s.setHome h x).agenda = s.agenda := rfl
@[simp] theorem State.setHome_cur (s : State) (h : Nat) (x : Home) : (s.setHome h x).cur = s.cur := rfl
@[simp] theorem State.setHome_unit (s : State) (h : Nat) (x : Home) : (s.setHome h x).unit = s.unit := rfl
@[simp] theorem State.setHome_turn (s : State) (h : Nat) (x : Home) : (s.setHome h x).turn = s.turn := rfl
@[simp] theorem State.setHome_tick (s : State) (h : Nat) (x : Home) : (s.setHome h x).tick = s.tick := rfl
@[simp] theorem State.setHome_clock (s : State) (h : Nat) (x : Home) : (s.setHome h x).clock = s.clock := rfl
@[simp] theorem State.setHome_drills (s : State) (h : Nat) (x : Home) : (s.setHome h x).drills = s.drills := rfl
@[simp] theorem State.setHome_wgs (s : State) (h : Nat) (x : Home) : (s.setHome h x).wgs = s.wgs := rfl
@[simp] theorem State.setHome_launches (s : State) (h : Nat) (x : Home) : (s.setHome h x).launches = s.launches := rfl
@[simp] theorem State.setHome_ctxs (s : State) (h : Nat) (x : Home) : (s.setHome h x).ctxs = s.ctxs := rfl
@[simp] theorem State.setHome_cores (s : State) (h : Nat) (x : Home) : (s.setHome h x).cores = s.cores := rfl
@[simp] theorem State.setHome_homes (s : State) (h : Nat) (x : Home) : (s.setHome h x).homes = Map.set s.homes h x := rfl
@[simp] theorem State.setHome_bulk (s : State) (h : Nat) (x : Home) : (s.setHome h x).bulk = s.bulk := rfl
@[simp] theorem State.setHome_newer (s : State) (h : Nat) (x : Home) : (s.setHome h x).newer = s.newer := rfl
@[simp] theorem State.setHome_bad (s : State) (h : Nat) (x : Home) : (s.setHome h x).bad = s.bad := rfl
@[simp] theorem State.setHome_badScratch (s : State) (h : Nat) (x : Home) : (s.setHome h x).badScratch = s.badScratch := rfl
@[simp] theorem State.setHome_pt (s : State) (h : Nat) (x : Home) : (s.setHome h x).pt = s.pt := rfl
@[simp] theorem State.setHome_owners (s : State) (h : Nat) (x : Home) : (s.setHome h x).owners = s.owners := rfl
@[simp] theorem State.setHome_headers (s : State) (h : Nat) (x : Home) : (s.setHome h x).headers = s.headers := rfl
@[simp] theorem State.setHome_origins (s : State) (h : Nat) (x : Home) : (s.setHome h x).origins = s.origins := rfl
@[simp] theorem State.setHome_demands (s : State) (h : Nat) (x : Home) : (s.setHome h x).demands = s.demands := rfl
@[simp] theorem State.setHome_fills (s : State) (h : Nat) (x : Home) : (s.setHome h x).fills = s.fills := rfl
@[simp] theorem State.setHome_globalRoot (s : State) (h : Nat) (x : Home) : (s.setHome h x).globalRoot = s.globalRoot := rfl
@[simp] theorem State.setHome_token (s : State) (h : Nat) (x : Home) : (s.setHome h x).token = s.token := rfl
@[simp] theorem State.setHome_nextCsn (s : State) (h : Nat) (x : Home) : (s.setHome h x).nextCsn = s.nextCsn := rfl
@[simp] theorem State.setHome_requests (s : State) (h : Nat) (x : Home) : (s.setHome h x).requests = s.requests := rfl
@[simp] theorem State.setHome_commits (s : State) (h : Nat) (x : Home) : (s.setHome h x).commits = s.commits := rfl
@[simp] theorem State.setHome_solos (s : State) (h : Nat) (x : Home) : (s.setHome h x).solos = s.solos := rfl
@[simp] theorem State.setHome_cmds (s : State) (h : Nat) (x : Home) : (s.setHome h x).cmds = s.cmds := rfl
@[simp] theorem State.setHome_records (s : State) (h : Nat) (x : Home) : (s.setHome h x).records = s.records := rfl
@[simp] theorem State.setHome_nextId (s : State) (h : Nat) (x : Home) : (s.setHome h x).nextId = s.nextId := rfl
@[simp] theorem State.setHome_nextOrder (s : State) (h : Nat) (x : Home) : (s.setHome h x).nextOrder = s.nextOrder := rfl
@[simp] theorem State.setHome_sessions (s : State) (h : Nat) (x : Home) : (s.setHome h x).sessions = s.sessions := rfl
@[simp] theorem State.setHome_ports (s : State) (h : Nat) (x : Home) : (s.setHome h x).ports = s.ports := rfl
@[simp] theorem State.setHome_transfers (s : State) (h : Nat) (x : Home) : (s.setHome h x).transfers = s.transfers := rfl
@[simp] theorem State.setHome_groups (s : State) (h : Nat) (x : Home) : (s.setHome h x).groups = s.groups := rfl
@[simp] theorem State.setHome_journal (s : State) (h : Nat) (x : Home) : (s.setHome h x).journal = s.journal := rfl
@[simp] theorem State.setHome_nextJsn (s : State) (h : Nat) (x : Home) : (s.setHome h x).nextJsn = s.nextJsn := rfl
@[simp] theorem State.setHome_replies (s : State) (h : Nat) (x : Home) : (s.setHome h x).replies = s.replies := rfl
@[simp] theorem State.setHome_sent (s : State) (h : Nat) (x : Home) : (s.setHome h x).sent = s.sent := rfl
@[simp] theorem State.setHome_held (s : State) (h : Nat) (x : Home) : (s.setHome h x).held = s.held := rfl
@[simp] theorem State.setHome_retry (s : State) (h : Nat) (x : Home) : (s.setHome h x).retry = s.retry := rfl
@[simp] theorem State.setHome_backing (s : State) (h : Nat) (x : Home) : (s.setHome h x).backing = s.backing := rfl
@[simp] theorem State.setHome_mgmt (s : State) (h : Nat) (x : Home) : (s.setHome h x).mgmt = s.mgmt := rfl

/-! ### `State.later` -/

@[simp] theorem State.later_agenda (s : State) (es : List Instr) : (s.later es).agenda = s.agenda ++ es := rfl
@[simp] theorem State.later_cur (s : State) (es : List Instr) : (s.later es).cur = s.cur := rfl
@[simp] theorem State.later_unit (s : State) (es : List Instr) : (s.later es).unit = s.unit := rfl
@[simp] theorem State.later_turn (s : State) (es : List Instr) : (s.later es).turn = s.turn := rfl
@[simp] theorem State.later_tick (s : State) (es : List Instr) : (s.later es).tick = s.tick := rfl
@[simp] theorem State.later_clock (s : State) (es : List Instr) : (s.later es).clock = s.clock := rfl
@[simp] theorem State.later_drills (s : State) (es : List Instr) : (s.later es).drills = s.drills := rfl
@[simp] theorem State.later_wgs (s : State) (es : List Instr) : (s.later es).wgs = s.wgs := rfl
@[simp] theorem State.later_launches (s : State) (es : List Instr) : (s.later es).launches = s.launches := rfl
@[simp] theorem State.later_ctxs (s : State) (es : List Instr) : (s.later es).ctxs = s.ctxs := rfl
@[simp] theorem State.later_cores (s : State) (es : List Instr) : (s.later es).cores = s.cores := rfl
@[simp] theorem State.later_homes (s : State) (es : List Instr) : (s.later es).homes = s.homes := rfl
@[simp] theorem State.later_bulk (s : State) (es : List Instr) : (s.later es).bulk = s.bulk := rfl
@[simp] theorem State.later_newer (s : State) (es : List Instr) : (s.later es).newer = s.newer := rfl
@[simp] theorem State.later_bad (s : State) (es : List Instr) : (s.later es).bad = s.bad := rfl
@[simp] theorem State.later_badScratch (s : State) (es : List Instr) : (s.later es).badScratch = s.badScratch := rfl
@[simp] theorem State.later_pt (s : State) (es : List Instr) : (s.later es).pt = s.pt := rfl
@[simp] theorem State.later_owners (s : State) (es : List Instr) : (s.later es).owners = s.owners := rfl
@[simp] theorem State.later_headers (s : State) (es : List Instr) : (s.later es).headers = s.headers := rfl
@[simp] theorem State.later_origins (s : State) (es : List Instr) : (s.later es).origins = s.origins := rfl
@[simp] theorem State.later_demands (s : State) (es : List Instr) : (s.later es).demands = s.demands := rfl
@[simp] theorem State.later_fills (s : State) (es : List Instr) : (s.later es).fills = s.fills := rfl
@[simp] theorem State.later_globalRoot (s : State) (es : List Instr) : (s.later es).globalRoot = s.globalRoot := rfl
@[simp] theorem State.later_token (s : State) (es : List Instr) : (s.later es).token = s.token := rfl
@[simp] theorem State.later_nextCsn (s : State) (es : List Instr) : (s.later es).nextCsn = s.nextCsn := rfl
@[simp] theorem State.later_requests (s : State) (es : List Instr) : (s.later es).requests = s.requests := rfl
@[simp] theorem State.later_commits (s : State) (es : List Instr) : (s.later es).commits = s.commits := rfl
@[simp] theorem State.later_solos (s : State) (es : List Instr) : (s.later es).solos = s.solos := rfl
@[simp] theorem State.later_cmds (s : State) (es : List Instr) : (s.later es).cmds = s.cmds := rfl
@[simp] theorem State.later_records (s : State) (es : List Instr) : (s.later es).records = s.records := rfl
@[simp] theorem State.later_nextId (s : State) (es : List Instr) : (s.later es).nextId = s.nextId := rfl
@[simp] theorem State.later_nextOrder (s : State) (es : List Instr) : (s.later es).nextOrder = s.nextOrder := rfl
@[simp] theorem State.later_sessions (s : State) (es : List Instr) : (s.later es).sessions = s.sessions := rfl
@[simp] theorem State.later_ports (s : State) (es : List Instr) : (s.later es).ports = s.ports := rfl
@[simp] theorem State.later_transfers (s : State) (es : List Instr) : (s.later es).transfers = s.transfers := rfl
@[simp] theorem State.later_groups (s : State) (es : List Instr) : (s.later es).groups = s.groups := rfl
@[simp] theorem State.later_journal (s : State) (es : List Instr) : (s.later es).journal = s.journal := rfl
@[simp] theorem State.later_nextJsn (s : State) (es : List Instr) : (s.later es).nextJsn = s.nextJsn := rfl
@[simp] theorem State.later_replies (s : State) (es : List Instr) : (s.later es).replies = s.replies := rfl
@[simp] theorem State.later_sent (s : State) (es : List Instr) : (s.later es).sent = s.sent := rfl
@[simp] theorem State.later_held (s : State) (es : List Instr) : (s.later es).held = s.held := rfl
@[simp] theorem State.later_retry (s : State) (es : List Instr) : (s.later es).retry = s.retry := rfl
@[simp] theorem State.later_backing (s : State) (es : List Instr) : (s.later es).backing = s.backing := rfl
@[simp] theorem State.later_mgmt (s : State) (es : List Instr) : (s.later es).mgmt = s.mgmt := rfl

/-! ### `State.wake` -/

@[simp] theorem State.wake_agenda (s : State) (w : Wait) (p : Nat → Drill → Bool) : (s.wake w p).agenda = s.agenda := rfl
@[simp] theorem State.wake_cur (s : State) (w : Wait) (p : Nat → Drill → Bool) : (s.wake w p).cur = s.cur := rfl
@[simp] theorem State.wake_unit (s : State) (w : Wait) (p : Nat → Drill → Bool) : (s.wake w p).unit = s.unit := rfl
@[simp] theorem State.wake_turn (s : State) (w : Wait) (p : Nat → Drill → Bool) : (s.wake w p).turn = s.turn := rfl
@[simp] theorem State.wake_tick (s : State) (w : Wait) (p : Nat → Drill → Bool) : (s.wake w p).tick = s.tick := rfl
@[simp] theorem State.wake_clock (s : State) (w : Wait) (p : Nat → Drill → Bool) : (s.wake w p).clock = s.clock := rfl
@[simp] theorem State.wake_wgs (s : State) (w : Wait) (p : Nat → Drill → Bool) : (s.wake w p).wgs = s.wgs := rfl
@[simp] theorem State.wake_launches (s : State) (w : Wait) (p : Nat → Drill → Bool) : (s.wake w p).launches = s.launches := rfl
@[simp] theorem State.wake_ctxs (s : State) (w : Wait) (p : Nat → Drill → Bool) : (s.wake w p).ctxs = s.ctxs := rfl
@[simp] theorem State.wake_cores (s : State) (w : Wait) (p : Nat → Drill → Bool) : (s.wake w p).cores = s.cores := rfl
@[simp] theorem State.wake_homes (s : State) (w : Wait) (p : Nat → Drill → Bool) : (s.wake w p).homes = s.homes := rfl
@[simp] theorem State.wake_bulk (s : State) (w : Wait) (p : Nat → Drill → Bool) : (s.wake w p).bulk = s.bulk := rfl
@[simp] theorem State.wake_newer (s : State) (w : Wait) (p : Nat → Drill → Bool) : (s.wake w p).newer = s.newer := rfl
@[simp] theorem State.wake_bad (s : State) (w : Wait) (p : Nat → Drill → Bool) : (s.wake w p).bad = s.bad := rfl
@[simp] theorem State.wake_badScratch (s : State) (w : Wait) (p : Nat → Drill → Bool) : (s.wake w p).badScratch = s.badScratch := rfl
@[simp] theorem State.wake_pt (s : State) (w : Wait) (p : Nat → Drill → Bool) : (s.wake w p).pt = s.pt := rfl
@[simp] theorem State.wake_owners (s : State) (w : Wait) (p : Nat → Drill → Bool) : (s.wake w p).owners = s.owners := rfl
@[simp] theorem State.wake_headers (s : State) (w : Wait) (p : Nat → Drill → Bool) : (s.wake w p).headers = s.headers := rfl
@[simp] theorem State.wake_origins (s : State) (w : Wait) (p : Nat → Drill → Bool) : (s.wake w p).origins = s.origins := rfl
@[simp] theorem State.wake_demands (s : State) (w : Wait) (p : Nat → Drill → Bool) : (s.wake w p).demands = s.demands := rfl
@[simp] theorem State.wake_fills (s : State) (w : Wait) (p : Nat → Drill → Bool) : (s.wake w p).fills = s.fills := rfl
@[simp] theorem State.wake_globalRoot (s : State) (w : Wait) (p : Nat → Drill → Bool) : (s.wake w p).globalRoot = s.globalRoot := rfl
@[simp] theorem State.wake_token (s : State) (w : Wait) (p : Nat → Drill → Bool) : (s.wake w p).token = s.token := rfl
@[simp] theorem State.wake_nextCsn (s : State) (w : Wait) (p : Nat → Drill → Bool) : (s.wake w p).nextCsn = s.nextCsn := rfl
@[simp] theorem State.wake_requests (s : State) (w : Wait) (p : Nat → Drill → Bool) : (s.wake w p).requests = s.requests := rfl
@[simp] theorem State.wake_commits (s : State) (w : Wait) (p : Nat → Drill → Bool) : (s.wake w p).commits = s.commits := rfl
@[simp] theorem State.wake_solos (s : State) (w : Wait) (p : Nat → Drill → Bool) : (s.wake w p).solos = s.solos := rfl
@[simp] theorem State.wake_cmds (s : State) (w : Wait) (p : Nat → Drill → Bool) : (s.wake w p).cmds = s.cmds := rfl
@[simp] theorem State.wake_records (s : State) (w : Wait) (p : Nat → Drill → Bool) : (s.wake w p).records = s.records := rfl
@[simp] theorem State.wake_nextId (s : State) (w : Wait) (p : Nat → Drill → Bool) : (s.wake w p).nextId = s.nextId := rfl
@[simp] theorem State.wake_nextOrder (s : State) (w : Wait) (p : Nat → Drill → Bool) : (s.wake w p).nextOrder = s.nextOrder := rfl
@[simp] theorem State.wake_sessions (s : State) (w : Wait) (p : Nat → Drill → Bool) : (s.wake w p).sessions = s.sessions := rfl
@[simp] theorem State.wake_ports (s : State) (w : Wait) (p : Nat → Drill → Bool) : (s.wake w p).ports = s.ports := rfl
@[simp] theorem State.wake_transfers (s : State) (w : Wait) (p : Nat → Drill → Bool) : (s.wake w p).transfers = s.transfers := rfl
@[simp] theorem State.wake_groups (s : State) (w : Wait) (p : Nat → Drill → Bool) : (s.wake w p).groups = s.groups := rfl
@[simp] theorem State.wake_journal (s : State) (w : Wait) (p : Nat → Drill → Bool) : (s.wake w p).journal = s.journal := rfl
@[simp] theorem State.wake_nextJsn (s : State) (w : Wait) (p : Nat → Drill → Bool) : (s.wake w p).nextJsn = s.nextJsn := rfl
@[simp] theorem State.wake_replies (s : State) (w : Wait) (p : Nat → Drill → Bool) : (s.wake w p).replies = s.replies := rfl
@[simp] theorem State.wake_sent (s : State) (w : Wait) (p : Nat → Drill → Bool) : (s.wake w p).sent = s.sent := rfl
@[simp] theorem State.wake_held (s : State) (w : Wait) (p : Nat → Drill → Bool) : (s.wake w p).held = s.held := rfl
@[simp] theorem State.wake_retry (s : State) (w : Wait) (p : Nat → Drill → Bool) : (s.wake w p).retry = s.retry := rfl
@[simp] theorem State.wake_backing (s : State) (w : Wait) (p : Nat → Drill → Bool) : (s.wake w p).backing = s.backing := rfl
@[simp] theorem State.wake_mgmt (s : State) (w : Wait) (p : Nat → Drill → Bool) : (s.wake w p).mgmt = s.mgmt := rfl

/-! ### `State.putByte` -/

@[simp] theorem State.putByte_agenda (s : State) (a : Nat) (b : Byte) : (s.putByte a b).agenda = s.agenda := rfl
@[simp] theorem State.putByte_cur (s : State) (a : Nat) (b : Byte) : (s.putByte a b).cur = s.cur := rfl
@[simp] theorem State.putByte_unit (s : State) (a : Nat) (b : Byte) : (s.putByte a b).unit = s.unit := rfl
@[simp] theorem State.putByte_turn (s : State) (a : Nat) (b : Byte) : (s.putByte a b).turn = s.turn := rfl
@[simp] theorem State.putByte_tick (s : State) (a : Nat) (b : Byte) : (s.putByte a b).tick = s.tick := rfl
@[simp] theorem State.putByte_clock (s : State) (a : Nat) (b : Byte) : (s.putByte a b).clock = s.clock := rfl
@[simp] theorem State.putByte_drills (s : State) (a : Nat) (b : Byte) : (s.putByte a b).drills = s.drills := rfl
@[simp] theorem State.putByte_wgs (s : State) (a : Nat) (b : Byte) : (s.putByte a b).wgs = s.wgs := rfl
@[simp] theorem State.putByte_launches (s : State) (a : Nat) (b : Byte) : (s.putByte a b).launches = s.launches := rfl
@[simp] theorem State.putByte_ctxs (s : State) (a : Nat) (b : Byte) : (s.putByte a b).ctxs = s.ctxs := rfl
@[simp] theorem State.putByte_cores (s : State) (a : Nat) (b : Byte) : (s.putByte a b).cores = s.cores := rfl
@[simp] theorem State.putByte_homes (s : State) (a : Nat) (b : Byte) : (s.putByte a b).homes = s.homes := rfl
@[simp] theorem State.putByte_bulk (s : State) (a : Nat) (b : Byte) : (s.putByte a b).bulk = s.bulk := rfl
@[simp] theorem State.putByte_newer (s : State) (a : Nat) (b : Byte) : (s.putByte a b).newer = Map.set s.newer a b := rfl
@[simp] theorem State.putByte_bad (s : State) (a : Nat) (b : Byte) : (s.putByte a b).bad = s.bad := rfl
@[simp] theorem State.putByte_badScratch (s : State) (a : Nat) (b : Byte) : (s.putByte a b).badScratch = s.badScratch := rfl
@[simp] theorem State.putByte_pt (s : State) (a : Nat) (b : Byte) : (s.putByte a b).pt = s.pt := rfl
@[simp] theorem State.putByte_owners (s : State) (a : Nat) (b : Byte) : (s.putByte a b).owners = s.owners := rfl
@[simp] theorem State.putByte_headers (s : State) (a : Nat) (b : Byte) : (s.putByte a b).headers = s.headers := rfl
@[simp] theorem State.putByte_origins (s : State) (a : Nat) (b : Byte) : (s.putByte a b).origins = s.origins := rfl
@[simp] theorem State.putByte_demands (s : State) (a : Nat) (b : Byte) : (s.putByte a b).demands = s.demands := rfl
@[simp] theorem State.putByte_fills (s : State) (a : Nat) (b : Byte) : (s.putByte a b).fills = s.fills := rfl
@[simp] theorem State.putByte_globalRoot (s : State) (a : Nat) (b : Byte) : (s.putByte a b).globalRoot = s.globalRoot := rfl
@[simp] theorem State.putByte_token (s : State) (a : Nat) (b : Byte) : (s.putByte a b).token = s.token := rfl
@[simp] theorem State.putByte_nextCsn (s : State) (a : Nat) (b : Byte) : (s.putByte a b).nextCsn = s.nextCsn := rfl
@[simp] theorem State.putByte_requests (s : State) (a : Nat) (b : Byte) : (s.putByte a b).requests = s.requests := rfl
@[simp] theorem State.putByte_commits (s : State) (a : Nat) (b : Byte) : (s.putByte a b).commits = s.commits := rfl
@[simp] theorem State.putByte_solos (s : State) (a : Nat) (b : Byte) : (s.putByte a b).solos = s.solos := rfl
@[simp] theorem State.putByte_cmds (s : State) (a : Nat) (b : Byte) : (s.putByte a b).cmds = s.cmds := rfl
@[simp] theorem State.putByte_records (s : State) (a : Nat) (b : Byte) : (s.putByte a b).records = s.records := rfl
@[simp] theorem State.putByte_nextId (s : State) (a : Nat) (b : Byte) : (s.putByte a b).nextId = s.nextId := rfl
@[simp] theorem State.putByte_nextOrder (s : State) (a : Nat) (b : Byte) : (s.putByte a b).nextOrder = s.nextOrder := rfl
@[simp] theorem State.putByte_sessions (s : State) (a : Nat) (b : Byte) : (s.putByte a b).sessions = s.sessions := rfl
@[simp] theorem State.putByte_ports (s : State) (a : Nat) (b : Byte) : (s.putByte a b).ports = s.ports := rfl
@[simp] theorem State.putByte_transfers (s : State) (a : Nat) (b : Byte) : (s.putByte a b).transfers = s.transfers := rfl
@[simp] theorem State.putByte_groups (s : State) (a : Nat) (b : Byte) : (s.putByte a b).groups = s.groups := rfl
@[simp] theorem State.putByte_journal (s : State) (a : Nat) (b : Byte) : (s.putByte a b).journal = s.journal := rfl
@[simp] theorem State.putByte_nextJsn (s : State) (a : Nat) (b : Byte) : (s.putByte a b).nextJsn = s.nextJsn := rfl
@[simp] theorem State.putByte_replies (s : State) (a : Nat) (b : Byte) : (s.putByte a b).replies = s.replies := rfl
@[simp] theorem State.putByte_sent (s : State) (a : Nat) (b : Byte) : (s.putByte a b).sent = s.sent := rfl
@[simp] theorem State.putByte_held (s : State) (a : Nat) (b : Byte) : (s.putByte a b).held = s.held := rfl
@[simp] theorem State.putByte_retry (s : State) (a : Nat) (b : Byte) : (s.putByte a b).retry = s.retry := rfl
@[simp] theorem State.putByte_backing (s : State) (a : Nat) (b : Byte) : (s.putByte a b).backing = s.backing := rfl
@[simp] theorem State.putByte_mgmt (s : State) (a : Nat) (b : Byte) : (s.putByte a b).mgmt = s.mgmt := rfl

/-! ### `State.discard` -/

@[simp] theorem State.discard_agenda (s : State) (p : Nat → Bool) : (s.discard p).agenda = s.agenda := rfl
@[simp] theorem State.discard_cur (s : State) (p : Nat → Bool) : (s.discard p).cur = s.cur := rfl
@[simp] theorem State.discard_unit (s : State) (p : Nat → Bool) : (s.discard p).unit = s.unit := rfl
@[simp] theorem State.discard_turn (s : State) (p : Nat → Bool) : (s.discard p).turn = s.turn := rfl
@[simp] theorem State.discard_tick (s : State) (p : Nat → Bool) : (s.discard p).tick = s.tick := rfl
@[simp] theorem State.discard_clock (s : State) (p : Nat → Bool) : (s.discard p).clock = s.clock := rfl
@[simp] theorem State.discard_drills (s : State) (p : Nat → Bool) : (s.discard p).drills = s.drills := rfl
@[simp] theorem State.discard_wgs (s : State) (p : Nat → Bool) : (s.discard p).wgs = s.wgs := rfl
@[simp] theorem State.discard_launches (s : State) (p : Nat → Bool) : (s.discard p).launches = s.launches := rfl
@[simp] theorem State.discard_ctxs (s : State) (p : Nat → Bool) : (s.discard p).ctxs = s.ctxs := rfl
@[simp] theorem State.discard_cores (s : State) (p : Nat → Bool) : (s.discard p).cores = s.cores := rfl
@[simp] theorem State.discard_homes (s : State) (p : Nat → Bool) : (s.discard p).homes = s.homes := rfl
@[simp] theorem State.discard_bulk (s : State) (p : Nat → Bool) : (s.discard p).bulk = s.bulk := rfl
@[simp] theorem State.discard_newer (s : State) (p : Nat → Bool) : (s.discard p).newer = s.newer.filter (fun c => !p c.1) := rfl
@[simp] theorem State.discard_bad (s : State) (p : Nat → Bool) : (s.discard p).bad = s.bad := rfl
@[simp] theorem State.discard_badScratch (s : State) (p : Nat → Bool) : (s.discard p).badScratch = s.badScratch := rfl
@[simp] theorem State.discard_pt (s : State) (p : Nat → Bool) : (s.discard p).pt = s.pt := rfl
@[simp] theorem State.discard_owners (s : State) (p : Nat → Bool) : (s.discard p).owners = s.owners := rfl
@[simp] theorem State.discard_headers (s : State) (p : Nat → Bool) : (s.discard p).headers = s.headers := rfl
@[simp] theorem State.discard_origins (s : State) (p : Nat → Bool) : (s.discard p).origins = s.origins := rfl
@[simp] theorem State.discard_demands (s : State) (p : Nat → Bool) : (s.discard p).demands = s.demands := rfl
@[simp] theorem State.discard_fills (s : State) (p : Nat → Bool) : (s.discard p).fills = s.fills := rfl
@[simp] theorem State.discard_globalRoot (s : State) (p : Nat → Bool) : (s.discard p).globalRoot = s.globalRoot := rfl
@[simp] theorem State.discard_token (s : State) (p : Nat → Bool) : (s.discard p).token = s.token := rfl
@[simp] theorem State.discard_nextCsn (s : State) (p : Nat → Bool) : (s.discard p).nextCsn = s.nextCsn := rfl
@[simp] theorem State.discard_requests (s : State) (p : Nat → Bool) : (s.discard p).requests = s.requests := rfl
@[simp] theorem State.discard_commits (s : State) (p : Nat → Bool) : (s.discard p).commits = s.commits := rfl
@[simp] theorem State.discard_solos (s : State) (p : Nat → Bool) : (s.discard p).solos = s.solos := rfl
@[simp] theorem State.discard_cmds (s : State) (p : Nat → Bool) : (s.discard p).cmds = s.cmds := rfl
@[simp] theorem State.discard_records (s : State) (p : Nat → Bool) : (s.discard p).records = s.records := rfl
@[simp] theorem State.discard_nextId (s : State) (p : Nat → Bool) : (s.discard p).nextId = s.nextId := rfl
@[simp] theorem State.discard_nextOrder (s : State) (p : Nat → Bool) : (s.discard p).nextOrder = s.nextOrder := rfl
@[simp] theorem State.discard_sessions (s : State) (p : Nat → Bool) : (s.discard p).sessions = s.sessions := rfl
@[simp] theorem State.discard_ports (s : State) (p : Nat → Bool) : (s.discard p).ports = s.ports := rfl
@[simp] theorem State.discard_transfers (s : State) (p : Nat → Bool) : (s.discard p).transfers = s.transfers := rfl
@[simp] theorem State.discard_groups (s : State) (p : Nat → Bool) : (s.discard p).groups = s.groups := rfl
@[simp] theorem State.discard_journal (s : State) (p : Nat → Bool) : (s.discard p).journal = s.journal := rfl
@[simp] theorem State.discard_nextJsn (s : State) (p : Nat → Bool) : (s.discard p).nextJsn = s.nextJsn := rfl
@[simp] theorem State.discard_replies (s : State) (p : Nat → Bool) : (s.discard p).replies = s.replies := rfl
@[simp] theorem State.discard_sent (s : State) (p : Nat → Bool) : (s.discard p).sent = s.sent := rfl
@[simp] theorem State.discard_held (s : State) (p : Nat → Bool) : (s.discard p).held = s.held := rfl
@[simp] theorem State.discard_retry (s : State) (p : Nat → Bool) : (s.discard p).retry = s.retry := rfl
@[simp] theorem State.discard_backing (s : State) (p : Nat → Bool) : (s.discard p).backing = s.backing := rfl
@[simp] theorem State.discard_mgmt (s : State) (p : Nat → Bool) : (s.discard p).mgmt = s.mgmt := rfl

/-! ### `State.writeBack` -/

@[simp] theorem State.writeBack_agenda (s : State) (p : Nat → Bool) : (s.writeBack p).agenda = s.agenda := rfl
@[simp] theorem State.writeBack_cur (s : State) (p : Nat → Bool) : (s.writeBack p).cur = s.cur := rfl
@[simp] theorem State.writeBack_unit (s : State) (p : Nat → Bool) : (s.writeBack p).unit = s.unit := rfl
@[simp] theorem State.writeBack_turn (s : State) (p : Nat → Bool) : (s.writeBack p).turn = s.turn := rfl
@[simp] theorem State.writeBack_tick (s : State) (p : Nat → Bool) : (s.writeBack p).tick = s.tick := rfl
@[simp] theorem State.writeBack_clock (s : State) (p : Nat → Bool) : (s.writeBack p).clock = s.clock := rfl
@[simp] theorem State.writeBack_drills (s : State) (p : Nat → Bool) : (s.writeBack p).drills = s.drills := rfl
@[simp] theorem State.writeBack_wgs (s : State) (p : Nat → Bool) : (s.writeBack p).wgs = s.wgs := rfl
@[simp] theorem State.writeBack_launches (s : State) (p : Nat → Bool) : (s.writeBack p).launches = s.launches := rfl
@[simp] theorem State.writeBack_ctxs (s : State) (p : Nat → Bool) : (s.writeBack p).ctxs = s.ctxs := rfl
@[simp] theorem State.writeBack_cores (s : State) (p : Nat → Bool) : (s.writeBack p).cores = s.cores := rfl
@[simp] theorem State.writeBack_homes (s : State) (p : Nat → Bool) : (s.writeBack p).homes = s.homes := rfl
@[simp] theorem State.writeBack_newer (s : State) (p : Nat → Bool) : (s.writeBack p).newer = s.newer.filter (fun c => !p c.1) := rfl
@[simp] theorem State.writeBack_bad (s : State) (p : Nat → Bool) : (s.writeBack p).bad = s.bad := rfl
@[simp] theorem State.writeBack_badScratch (s : State) (p : Nat → Bool) : (s.writeBack p).badScratch = s.badScratch := rfl
@[simp] theorem State.writeBack_pt (s : State) (p : Nat → Bool) : (s.writeBack p).pt = s.pt := rfl
@[simp] theorem State.writeBack_owners (s : State) (p : Nat → Bool) : (s.writeBack p).owners = s.owners := rfl
@[simp] theorem State.writeBack_headers (s : State) (p : Nat → Bool) : (s.writeBack p).headers = s.headers := rfl
@[simp] theorem State.writeBack_origins (s : State) (p : Nat → Bool) : (s.writeBack p).origins = s.origins := rfl
@[simp] theorem State.writeBack_demands (s : State) (p : Nat → Bool) : (s.writeBack p).demands = s.demands := rfl
@[simp] theorem State.writeBack_fills (s : State) (p : Nat → Bool) : (s.writeBack p).fills = s.fills := rfl
@[simp] theorem State.writeBack_globalRoot (s : State) (p : Nat → Bool) : (s.writeBack p).globalRoot = s.globalRoot := rfl
@[simp] theorem State.writeBack_token (s : State) (p : Nat → Bool) : (s.writeBack p).token = s.token := rfl
@[simp] theorem State.writeBack_nextCsn (s : State) (p : Nat → Bool) : (s.writeBack p).nextCsn = s.nextCsn := rfl
@[simp] theorem State.writeBack_requests (s : State) (p : Nat → Bool) : (s.writeBack p).requests = s.requests := rfl
@[simp] theorem State.writeBack_commits (s : State) (p : Nat → Bool) : (s.writeBack p).commits = s.commits := rfl
@[simp] theorem State.writeBack_solos (s : State) (p : Nat → Bool) : (s.writeBack p).solos = s.solos := rfl
@[simp] theorem State.writeBack_cmds (s : State) (p : Nat → Bool) : (s.writeBack p).cmds = s.cmds := rfl
@[simp] theorem State.writeBack_records (s : State) (p : Nat → Bool) : (s.writeBack p).records = s.records := rfl
@[simp] theorem State.writeBack_nextId (s : State) (p : Nat → Bool) : (s.writeBack p).nextId = s.nextId := rfl
@[simp] theorem State.writeBack_nextOrder (s : State) (p : Nat → Bool) : (s.writeBack p).nextOrder = s.nextOrder := rfl
@[simp] theorem State.writeBack_sessions (s : State) (p : Nat → Bool) : (s.writeBack p).sessions = s.sessions := rfl
@[simp] theorem State.writeBack_ports (s : State) (p : Nat → Bool) : (s.writeBack p).ports = s.ports := rfl
@[simp] theorem State.writeBack_transfers (s : State) (p : Nat → Bool) : (s.writeBack p).transfers = s.transfers := rfl
@[simp] theorem State.writeBack_groups (s : State) (p : Nat → Bool) : (s.writeBack p).groups = s.groups := rfl
@[simp] theorem State.writeBack_journal (s : State) (p : Nat → Bool) : (s.writeBack p).journal = s.journal := rfl
@[simp] theorem State.writeBack_nextJsn (s : State) (p : Nat → Bool) : (s.writeBack p).nextJsn = s.nextJsn := rfl
@[simp] theorem State.writeBack_replies (s : State) (p : Nat → Bool) : (s.writeBack p).replies = s.replies := rfl
@[simp] theorem State.writeBack_sent (s : State) (p : Nat → Bool) : (s.writeBack p).sent = s.sent := rfl
@[simp] theorem State.writeBack_held (s : State) (p : Nat → Bool) : (s.writeBack p).held = s.held := rfl
@[simp] theorem State.writeBack_retry (s : State) (p : Nat → Bool) : (s.writeBack p).retry = s.retry := rfl
@[simp] theorem State.writeBack_backing (s : State) (p : Nat → Bool) : (s.writeBack p).backing = s.backing := rfl
@[simp] theorem State.writeBack_mgmt (s : State) (p : Nat → Bool) : (s.writeBack p).mgmt = s.mgmt := rfl

/-! ### `State.addRecord` -/

@[simp] theorem State.addRecord_agenda (s : State) (r : JRec) : (s.addRecord r).agenda = s.agenda := rfl
@[simp] theorem State.addRecord_cur (s : State) (r : JRec) : (s.addRecord r).cur = s.cur := rfl
@[simp] theorem State.addRecord_unit (s : State) (r : JRec) : (s.addRecord r).unit = s.unit := rfl
@[simp] theorem State.addRecord_turn (s : State) (r : JRec) : (s.addRecord r).turn = s.turn := rfl
@[simp] theorem State.addRecord_tick (s : State) (r : JRec) : (s.addRecord r).tick = s.tick := rfl
@[simp] theorem State.addRecord_clock (s : State) (r : JRec) : (s.addRecord r).clock = s.clock := rfl
@[simp] theorem State.addRecord_drills (s : State) (r : JRec) : (s.addRecord r).drills = s.drills := rfl
@[simp] theorem State.addRecord_wgs (s : State) (r : JRec) : (s.addRecord r).wgs = s.wgs := rfl
@[simp] theorem State.addRecord_launches (s : State) (r : JRec) : (s.addRecord r).launches = s.launches := rfl
@[simp] theorem State.addRecord_ctxs (s : State) (r : JRec) : (s.addRecord r).ctxs = s.ctxs := rfl
@[simp] theorem State.addRecord_cores (s : State) (r : JRec) : (s.addRecord r).cores = s.cores := rfl
@[simp] theorem State.addRecord_homes (s : State) (r : JRec) : (s.addRecord r).homes = s.homes := rfl
@[simp] theorem State.addRecord_bulk (s : State) (r : JRec) : (s.addRecord r).bulk = s.bulk := rfl
@[simp] theorem State.addRecord_newer (s : State) (r : JRec) : (s.addRecord r).newer = s.newer := rfl
@[simp] theorem State.addRecord_bad (s : State) (r : JRec) : (s.addRecord r).bad = s.bad := rfl
@[simp] theorem State.addRecord_badScratch (s : State) (r : JRec) : (s.addRecord r).badScratch = s.badScratch := rfl
@[simp] theorem State.addRecord_pt (s : State) (r : JRec) : (s.addRecord r).pt = s.pt := rfl
@[simp] theorem State.addRecord_owners (s : State) (r : JRec) : (s.addRecord r).owners = s.owners := rfl
@[simp] theorem State.addRecord_headers (s : State) (r : JRec) : (s.addRecord r).headers = s.headers := rfl
@[simp] theorem State.addRecord_origins (s : State) (r : JRec) : (s.addRecord r).origins = s.origins := rfl
@[simp] theorem State.addRecord_demands (s : State) (r : JRec) : (s.addRecord r).demands = s.demands := rfl
@[simp] theorem State.addRecord_fills (s : State) (r : JRec) : (s.addRecord r).fills = s.fills := rfl
@[simp] theorem State.addRecord_globalRoot (s : State) (r : JRec) : (s.addRecord r).globalRoot = s.globalRoot := rfl
@[simp] theorem State.addRecord_token (s : State) (r : JRec) : (s.addRecord r).token = s.token := rfl
@[simp] theorem State.addRecord_nextCsn (s : State) (r : JRec) : (s.addRecord r).nextCsn = s.nextCsn := rfl
@[simp] theorem State.addRecord_requests (s : State) (r : JRec) : (s.addRecord r).requests = s.requests := rfl
@[simp] theorem State.addRecord_commits (s : State) (r : JRec) : (s.addRecord r).commits = s.commits := rfl
@[simp] theorem State.addRecord_solos (s : State) (r : JRec) : (s.addRecord r).solos = s.solos := rfl
@[simp] theorem State.addRecord_cmds (s : State) (r : JRec) : (s.addRecord r).cmds = s.cmds := rfl
@[simp] theorem State.addRecord_records (s : State) (r : JRec) : (s.addRecord r).records = s.records := rfl
@[simp] theorem State.addRecord_nextId (s : State) (r : JRec) : (s.addRecord r).nextId = s.nextId := rfl
@[simp] theorem State.addRecord_nextOrder (s : State) (r : JRec) : (s.addRecord r).nextOrder = s.nextOrder := rfl
@[simp] theorem State.addRecord_sessions (s : State) (r : JRec) : (s.addRecord r).sessions = s.sessions := rfl
@[simp] theorem State.addRecord_ports (s : State) (r : JRec) : (s.addRecord r).ports = s.ports := rfl
@[simp] theorem State.addRecord_transfers (s : State) (r : JRec) : (s.addRecord r).transfers = s.transfers := rfl
@[simp] theorem State.addRecord_groups (s : State) (r : JRec) : (s.addRecord r).groups = s.groups := rfl
@[simp] theorem State.addRecord_nextJsn (s : State) (r : JRec) : (s.addRecord r).nextJsn = s.nextJsn + 1 := rfl
@[simp] theorem State.addRecord_replies (s : State) (r : JRec) : (s.addRecord r).replies = s.replies := rfl
@[simp] theorem State.addRecord_sent (s : State) (r : JRec) : (s.addRecord r).sent = s.sent := rfl
@[simp] theorem State.addRecord_held (s : State) (r : JRec) : (s.addRecord r).held = s.held := rfl
@[simp] theorem State.addRecord_retry (s : State) (r : JRec) : (s.addRecord r).retry = s.retry := rfl
@[simp] theorem State.addRecord_backing (s : State) (r : JRec) : (s.addRecord r).backing = s.backing := rfl
@[simp] theorem State.addRecord_mgmt (s : State) (r : JRec) : (s.addRecord r).mgmt = s.mgmt := rfl

/-! ### `State.setRecord` -/

@[simp] theorem State.setRecord_agenda (s : State) (n : Nat) (f : JRec → JRec) : (s.setRecord n f).agenda = s.agenda := rfl
@[simp] theorem State.setRecord_cur (s : State) (n : Nat) (f : JRec → JRec) : (s.setRecord n f).cur = s.cur := rfl
@[simp] theorem State.setRecord_unit (s : State) (n : Nat) (f : JRec → JRec) : (s.setRecord n f).unit = s.unit := rfl
@[simp] theorem State.setRecord_turn (s : State) (n : Nat) (f : JRec → JRec) : (s.setRecord n f).turn = s.turn := rfl
@[simp] theorem State.setRecord_tick (s : State) (n : Nat) (f : JRec → JRec) : (s.setRecord n f).tick = s.tick := rfl
@[simp] theorem State.setRecord_clock (s : State) (n : Nat) (f : JRec → JRec) : (s.setRecord n f).clock = s.clock := rfl
@[simp] theorem State.setRecord_drills (s : State) (n : Nat) (f : JRec → JRec) : (s.setRecord n f).drills = s.drills := rfl
@[simp] theorem State.setRecord_wgs (s : State) (n : Nat) (f : JRec → JRec) : (s.setRecord n f).wgs = s.wgs := rfl
@[simp] theorem State.setRecord_launches (s : State) (n : Nat) (f : JRec → JRec) : (s.setRecord n f).launches = s.launches := rfl
@[simp] theorem State.setRecord_ctxs (s : State) (n : Nat) (f : JRec → JRec) : (s.setRecord n f).ctxs = s.ctxs := rfl
@[simp] theorem State.setRecord_cores (s : State) (n : Nat) (f : JRec → JRec) : (s.setRecord n f).cores = s.cores := rfl
@[simp] theorem State.setRecord_homes (s : State) (n : Nat) (f : JRec → JRec) : (s.setRecord n f).homes = s.homes := rfl
@[simp] theorem State.setRecord_bulk (s : State) (n : Nat) (f : JRec → JRec) : (s.setRecord n f).bulk = s.bulk := rfl
@[simp] theorem State.setRecord_newer (s : State) (n : Nat) (f : JRec → JRec) : (s.setRecord n f).newer = s.newer := rfl
@[simp] theorem State.setRecord_bad (s : State) (n : Nat) (f : JRec → JRec) : (s.setRecord n f).bad = s.bad := rfl
@[simp] theorem State.setRecord_badScratch (s : State) (n : Nat) (f : JRec → JRec) : (s.setRecord n f).badScratch = s.badScratch := rfl
@[simp] theorem State.setRecord_pt (s : State) (n : Nat) (f : JRec → JRec) : (s.setRecord n f).pt = s.pt := rfl
@[simp] theorem State.setRecord_owners (s : State) (n : Nat) (f : JRec → JRec) : (s.setRecord n f).owners = s.owners := rfl
@[simp] theorem State.setRecord_headers (s : State) (n : Nat) (f : JRec → JRec) : (s.setRecord n f).headers = s.headers := rfl
@[simp] theorem State.setRecord_origins (s : State) (n : Nat) (f : JRec → JRec) : (s.setRecord n f).origins = s.origins := rfl
@[simp] theorem State.setRecord_demands (s : State) (n : Nat) (f : JRec → JRec) : (s.setRecord n f).demands = s.demands := rfl
@[simp] theorem State.setRecord_fills (s : State) (n : Nat) (f : JRec → JRec) : (s.setRecord n f).fills = s.fills := rfl
@[simp] theorem State.setRecord_globalRoot (s : State) (n : Nat) (f : JRec → JRec) : (s.setRecord n f).globalRoot = s.globalRoot := rfl
@[simp] theorem State.setRecord_token (s : State) (n : Nat) (f : JRec → JRec) : (s.setRecord n f).token = s.token := rfl
@[simp] theorem State.setRecord_nextCsn (s : State) (n : Nat) (f : JRec → JRec) : (s.setRecord n f).nextCsn = s.nextCsn := rfl
@[simp] theorem State.setRecord_requests (s : State) (n : Nat) (f : JRec → JRec) : (s.setRecord n f).requests = s.requests := rfl
@[simp] theorem State.setRecord_commits (s : State) (n : Nat) (f : JRec → JRec) : (s.setRecord n f).commits = s.commits := rfl
@[simp] theorem State.setRecord_solos (s : State) (n : Nat) (f : JRec → JRec) : (s.setRecord n f).solos = s.solos := rfl
@[simp] theorem State.setRecord_cmds (s : State) (n : Nat) (f : JRec → JRec) : (s.setRecord n f).cmds = s.cmds := rfl
@[simp] theorem State.setRecord_records (s : State) (n : Nat) (f : JRec → JRec) : (s.setRecord n f).records = s.records := rfl
@[simp] theorem State.setRecord_nextId (s : State) (n : Nat) (f : JRec → JRec) : (s.setRecord n f).nextId = s.nextId := rfl
@[simp] theorem State.setRecord_nextOrder (s : State) (n : Nat) (f : JRec → JRec) : (s.setRecord n f).nextOrder = s.nextOrder := rfl
@[simp] theorem State.setRecord_sessions (s : State) (n : Nat) (f : JRec → JRec) : (s.setRecord n f).sessions = s.sessions := rfl
@[simp] theorem State.setRecord_ports (s : State) (n : Nat) (f : JRec → JRec) : (s.setRecord n f).ports = s.ports := rfl
@[simp] theorem State.setRecord_transfers (s : State) (n : Nat) (f : JRec → JRec) : (s.setRecord n f).transfers = s.transfers := rfl
@[simp] theorem State.setRecord_groups (s : State) (n : Nat) (f : JRec → JRec) : (s.setRecord n f).groups = s.groups := rfl
@[simp] theorem State.setRecord_nextJsn (s : State) (n : Nat) (f : JRec → JRec) : (s.setRecord n f).nextJsn = s.nextJsn := rfl
@[simp] theorem State.setRecord_replies (s : State) (n : Nat) (f : JRec → JRec) : (s.setRecord n f).replies = s.replies := rfl
@[simp] theorem State.setRecord_sent (s : State) (n : Nat) (f : JRec → JRec) : (s.setRecord n f).sent = s.sent := rfl
@[simp] theorem State.setRecord_held (s : State) (n : Nat) (f : JRec → JRec) : (s.setRecord n f).held = s.held := rfl
@[simp] theorem State.setRecord_retry (s : State) (n : Nat) (f : JRec → JRec) : (s.setRecord n f).retry = s.retry := rfl
@[simp] theorem State.setRecord_backing (s : State) (n : Nat) (f : JRec → JRec) : (s.setRecord n f).backing = s.backing := rfl
@[simp] theorem State.setRecord_mgmt (s : State) (n : Nat) (f : JRec → JRec) : (s.setRecord n f).mgmt = s.mgmt := rfl

/-! ### `State.setBarrier` -/

@[simp] theorem State.setBarrier_agenda (s : State) (w n : Nat) (b : Barrier) : (s.setBarrier w n b).agenda = s.agenda := rfl
@[simp] theorem State.setBarrier_cur (s : State) (w n : Nat) (b : Barrier) : (s.setBarrier w n b).cur = s.cur := rfl
@[simp] theorem State.setBarrier_unit (s : State) (w n : Nat) (b : Barrier) : (s.setBarrier w n b).unit = s.unit := rfl
@[simp] theorem State.setBarrier_turn (s : State) (w n : Nat) (b : Barrier) : (s.setBarrier w n b).turn = s.turn := rfl
@[simp] theorem State.setBarrier_tick (s : State) (w n : Nat) (b : Barrier) : (s.setBarrier w n b).tick = s.tick := rfl
@[simp] theorem State.setBarrier_clock (s : State) (w n : Nat) (b : Barrier) : (s.setBarrier w n b).clock = s.clock := rfl
@[simp] theorem State.setBarrier_drills (s : State) (w n : Nat) (b : Barrier) : (s.setBarrier w n b).drills = s.drills := rfl
@[simp] theorem State.setBarrier_launches (s : State) (w n : Nat) (b : Barrier) : (s.setBarrier w n b).launches = s.launches := rfl
@[simp] theorem State.setBarrier_ctxs (s : State) (w n : Nat) (b : Barrier) : (s.setBarrier w n b).ctxs = s.ctxs := rfl
@[simp] theorem State.setBarrier_cores (s : State) (w n : Nat) (b : Barrier) : (s.setBarrier w n b).cores = s.cores := rfl
@[simp] theorem State.setBarrier_homes (s : State) (w n : Nat) (b : Barrier) : (s.setBarrier w n b).homes = s.homes := rfl
@[simp] theorem State.setBarrier_bulk (s : State) (w n : Nat) (b : Barrier) : (s.setBarrier w n b).bulk = s.bulk := rfl
@[simp] theorem State.setBarrier_newer (s : State) (w n : Nat) (b : Barrier) : (s.setBarrier w n b).newer = s.newer := rfl
@[simp] theorem State.setBarrier_bad (s : State) (w n : Nat) (b : Barrier) : (s.setBarrier w n b).bad = s.bad := rfl
@[simp] theorem State.setBarrier_badScratch (s : State) (w n : Nat) (b : Barrier) : (s.setBarrier w n b).badScratch = s.badScratch := rfl
@[simp] theorem State.setBarrier_pt (s : State) (w n : Nat) (b : Barrier) : (s.setBarrier w n b).pt = s.pt := rfl
@[simp] theorem State.setBarrier_owners (s : State) (w n : Nat) (b : Barrier) : (s.setBarrier w n b).owners = s.owners := rfl
@[simp] theorem State.setBarrier_headers (s : State) (w n : Nat) (b : Barrier) : (s.setBarrier w n b).headers = s.headers := rfl
@[simp] theorem State.setBarrier_origins (s : State) (w n : Nat) (b : Barrier) : (s.setBarrier w n b).origins = s.origins := rfl
@[simp] theorem State.setBarrier_demands (s : State) (w n : Nat) (b : Barrier) : (s.setBarrier w n b).demands = s.demands := rfl
@[simp] theorem State.setBarrier_fills (s : State) (w n : Nat) (b : Barrier) : (s.setBarrier w n b).fills = s.fills := rfl
@[simp] theorem State.setBarrier_globalRoot (s : State) (w n : Nat) (b : Barrier) : (s.setBarrier w n b).globalRoot = s.globalRoot := rfl
@[simp] theorem State.setBarrier_token (s : State) (w n : Nat) (b : Barrier) : (s.setBarrier w n b).token = s.token := rfl
@[simp] theorem State.setBarrier_nextCsn (s : State) (w n : Nat) (b : Barrier) : (s.setBarrier w n b).nextCsn = s.nextCsn := rfl
@[simp] theorem State.setBarrier_requests (s : State) (w n : Nat) (b : Barrier) : (s.setBarrier w n b).requests = s.requests := rfl
@[simp] theorem State.setBarrier_commits (s : State) (w n : Nat) (b : Barrier) : (s.setBarrier w n b).commits = s.commits := rfl
@[simp] theorem State.setBarrier_solos (s : State) (w n : Nat) (b : Barrier) : (s.setBarrier w n b).solos = s.solos := rfl
@[simp] theorem State.setBarrier_cmds (s : State) (w n : Nat) (b : Barrier) : (s.setBarrier w n b).cmds = s.cmds := rfl
@[simp] theorem State.setBarrier_records (s : State) (w n : Nat) (b : Barrier) : (s.setBarrier w n b).records = s.records := rfl
@[simp] theorem State.setBarrier_nextId (s : State) (w n : Nat) (b : Barrier) : (s.setBarrier w n b).nextId = s.nextId := rfl
@[simp] theorem State.setBarrier_nextOrder (s : State) (w n : Nat) (b : Barrier) : (s.setBarrier w n b).nextOrder = s.nextOrder := rfl
@[simp] theorem State.setBarrier_sessions (s : State) (w n : Nat) (b : Barrier) : (s.setBarrier w n b).sessions = s.sessions := rfl
@[simp] theorem State.setBarrier_ports (s : State) (w n : Nat) (b : Barrier) : (s.setBarrier w n b).ports = s.ports := rfl
@[simp] theorem State.setBarrier_transfers (s : State) (w n : Nat) (b : Barrier) : (s.setBarrier w n b).transfers = s.transfers := rfl
@[simp] theorem State.setBarrier_groups (s : State) (w n : Nat) (b : Barrier) : (s.setBarrier w n b).groups = s.groups := rfl
@[simp] theorem State.setBarrier_journal (s : State) (w n : Nat) (b : Barrier) : (s.setBarrier w n b).journal = s.journal := rfl
@[simp] theorem State.setBarrier_nextJsn (s : State) (w n : Nat) (b : Barrier) : (s.setBarrier w n b).nextJsn = s.nextJsn := rfl
@[simp] theorem State.setBarrier_replies (s : State) (w n : Nat) (b : Barrier) : (s.setBarrier w n b).replies = s.replies := rfl
@[simp] theorem State.setBarrier_sent (s : State) (w n : Nat) (b : Barrier) : (s.setBarrier w n b).sent = s.sent := rfl
@[simp] theorem State.setBarrier_held (s : State) (w n : Nat) (b : Barrier) : (s.setBarrier w n b).held = s.held := rfl
@[simp] theorem State.setBarrier_retry (s : State) (w n : Nat) (b : Barrier) : (s.setBarrier w n b).retry = s.retry := rfl
@[simp] theorem State.setBarrier_backing (s : State) (w n : Nat) (b : Barrier) : (s.setBarrier w n b).backing = s.backing := rfl
@[simp] theorem State.setBarrier_mgmt (s : State) (w n : Nat) (b : Barrier) : (s.setBarrier w n b).mgmt = s.mgmt := rfl

/-! ### A drill's registers -/

@[simp] theorem Drill.note_regs (d : Drill) (i : LogItem) : (d.note i).regs = d.regs := by unfold Drill.note; split <;> rfl
@[simp] theorem Drill.note_wg (d : Drill) (i : LogItem) : (d.note i).wg = d.wg := by unfold Drill.note; split <;> rfl
@[simp] theorem Drill.note_index (d : Drill) (i : LogItem) : (d.note i).index = d.index := by unfold Drill.note; split <;> rfl
@[simp] theorem Drill.note_asid (d : Drill) (i : LogItem) : (d.note i).asid = d.asid := by unfold Drill.note; split <;> rfl
@[simp] theorem Drill.note_launch (d : Drill) (i : LogItem) : (d.note i).launch = d.launch := by unfold Drill.note; split <;> rfl
@[simp] theorem Drill.note_nv (d : Drill) (i : LogItem) : (d.note i).nv = d.nv := by unfold Drill.note; split <;> rfl
@[simp] theorem Drill.note_nt (d : Drill) (i : LogItem) : (d.note i).nt = d.nt := by unfold Drill.note; split <;> rfl
@[simp] theorem Drill.note_na (d : Drill) (i : LogItem) : (d.note i).na = d.na := by unfold Drill.note; split <;> rfl
@[simp] theorem Drill.note_priv (d : Drill) (i : LogItem) : (d.note i).priv = d.priv := by unfold Drill.note; split <;> rfl
@[simp] theorem Drill.note_older (d : Drill) (i : LogItem) : (d.note i).older = d.older := by unfold Drill.note; split <;> rfl
@[simp] theorem Drill.note_csn (d : Drill) (i : LogItem) : (d.note i).csn = d.csn := by unfold Drill.note; split <;> rfl
@[simp] theorem Drill.note_reg (d : Drill) (i : LogItem) : (d.note i).reg = d.reg := by unfold Drill.note; split <;> rfl
@[simp] theorem Drill.note_wait (d : Drill) (i : LogItem) : (d.note i).wait = d.wait := by unfold Drill.note; split <;> rfl
@[simp] theorem Drill.note_order (d : Drill) (i : LogItem) : (d.note i).order = d.order := by unfold Drill.note; split <;> rfl
@[simp] theorem Drill.note_waited (d : Drill) (i : LogItem) : (d.note i).waited = d.waited := by unfold Drill.note; split <;> rfl
@[simp] theorem Drill.note_yielded (d : Drill) (i : LogItem) : (d.note i).yielded = d.yielded := by unfold Drill.note; split <;> rfl
@[simp] theorem Drill.note_inflight (d : Drill) (i : LogItem) : (d.note i).inflight = d.inflight := by unfold Drill.note; split <;> rfl
@[simp] theorem Drill.note_pendingStreams (d : Drill) (i : LogItem) : (d.note i).pendingStreams = d.pendingStreams := by unfold Drill.note; split <;> rfl
@[simp] theorem Drill.note_fetched (d : Drill) (i : LogItem) : (d.note i).fetched = d.fetched := by unfold Drill.note; split <;> rfl
@[simp] theorem Drill.note_fenced (d : Drill) (i : LogItem) : (d.note i).fenced = d.fenced := by unfold Drill.note; split <;> rfl

@[simp] theorem Drill.setPc_wg (d : Drill) (a : DWord) : (d.setPc a).wg = d.wg := rfl
@[simp] theorem Drill.setPc_index (d : Drill) (a : DWord) : (d.setPc a).index = d.index := rfl
@[simp] theorem Drill.setPc_asid (d : Drill) (a : DWord) : (d.setPc a).asid = d.asid := rfl
@[simp] theorem Drill.setPc_launch (d : Drill) (a : DWord) : (d.setPc a).launch = d.launch := rfl
@[simp] theorem Drill.setPc_nv (d : Drill) (a : DWord) : (d.setPc a).nv = d.nv := rfl
@[simp] theorem Drill.setPc_nt (d : Drill) (a : DWord) : (d.setPc a).nt = d.nt := rfl
@[simp] theorem Drill.setPc_na (d : Drill) (a : DWord) : (d.setPc a).na = d.na := rfl
@[simp] theorem Drill.setPc_priv (d : Drill) (a : DWord) : (d.setPc a).priv = d.priv := rfl
@[simp] theorem Drill.setPc_chunk (d : Drill) (a : DWord) : (d.setPc a).chunk = d.chunk := rfl
@[simp] theorem Drill.setPc_older (d : Drill) (a : DWord) : (d.setPc a).older = d.older := rfl
@[simp] theorem Drill.setPc_csn (d : Drill) (a : DWord) : (d.setPc a).csn = d.csn := rfl
@[simp] theorem Drill.setPc_reg (d : Drill) (a : DWord) : (d.setPc a).reg = d.reg := rfl
@[simp] theorem Drill.setPc_wait (d : Drill) (a : DWord) : (d.setPc a).wait = d.wait := rfl
@[simp] theorem Drill.setPc_order (d : Drill) (a : DWord) : (d.setPc a).order = d.order := rfl
@[simp] theorem Drill.setPc_waited (d : Drill) (a : DWord) : (d.setPc a).waited = d.waited := rfl
@[simp] theorem Drill.setPc_yielded (d : Drill) (a : DWord) : (d.setPc a).yielded = d.yielded := rfl
@[simp] theorem Drill.setPc_inflight (d : Drill) (a : DWord) : (d.setPc a).inflight = d.inflight := rfl
@[simp] theorem Drill.setPc_pendingStreams (d : Drill) (a : DWord) : (d.setPc a).pendingStreams = d.pendingStreams := rfl
@[simp] theorem Drill.setPc_fetched (d : Drill) (a : DWord) : (d.setPc a).fetched = d.fetched := rfl
@[simp] theorem Drill.setPc_fenced (d : Drill) (a : DWord) : (d.setPc a).fenced = d.fenced := rfl
@[simp] theorem Drill.setPc_pc (d : Drill) (a : DWord) : (d.setPc a).regs.pc = a := rfl
@[simp] theorem Drill.setPc_regs_em (d : Drill) (a : DWord) : (d.setPc a).regs.em = d.regs.em := rfl
@[simp] theorem Drill.setPc_regs_stack (d : Drill) (a : DWord) : (d.setPc a).regs.stack = d.regs.stack := rfl
@[simp] theorem Drill.setPc_regs_spilled (d : Drill) (a : DWord) : (d.setPc a).regs.spilled = d.regs.spilled := rfl
@[simp] theorem Drill.setPc_regs_v (d : Drill) (a : DWord) : (d.setPc a).regs.v = d.regs.v := rfl
@[simp] theorem Drill.setPc_regs_u (d : Drill) (a : DWord) : (d.setPc a).regs.u = d.regs.u := rfl
@[simp] theorem Drill.setPc_regs_p (d : Drill) (a : DWord) : (d.setPc a).regs.p = d.regs.p := rfl
@[simp] theorem Drill.setPc_regs_tile (d : Drill) (a : DWord) : (d.setPc a).regs.tile = d.regs.tile := rfl
@[simp] theorem Drill.setPc_regs_side (d : Drill) (a : DWord) : (d.setPc a).regs.side = d.regs.side := rfl
@[simp] theorem Drill.setPc_regs_acc (d : Drill) (a : DWord) : (d.setPc a).regs.acc = d.regs.acc := rfl
@[simp] theorem Drill.setPc_regs_status (d : Drill) (a : DWord) : (d.setPc a).regs.status = d.regs.status := rfl
@[simp] theorem Drill.setPc_regs_seed (d : Drill) (a : DWord) : (d.setPc a).regs.seed = d.regs.seed := rfl
@[simp] theorem Drill.setPc_regs_round (d : Drill) (a : DWord) : (d.setPc a).regs.round = d.regs.round := rfl
@[simp] theorem Drill.setPc_regs_trapvec (d : Drill) (a : DWord) : (d.setPc a).regs.trapvec = d.regs.trapvec := rfl
@[simp] theorem Drill.setPc_regs_h (d : Drill) (a : DWord) : (d.setPc a).regs.h = d.regs.h := rfl

/-! ### Home and core after an update -/

theorem State.core_setCore (s : State) (c k : Nat) (x : Core) : (s.setCore c x).core k = if k = c then x else s.core k :=
  Map.get_set Core.reset s.cores k c x

theorem State.home_setHome (s : State) (h k : Nat) (x : Home) : (s.setHome h x).home k = if k = h then x else s.home k :=
  Map.get_set Home.reset s.homes k h x

end Sys2Proof.Machine
end

