-- ==== Sys2Proof/Laws/Drill.lean ====
section
/-!
SUPPORT. What a drill's registers read as after each way of writing them, and what noting a write costs in the checkpoint log.
-/

namespace Sys2Proof.Machine

open Sys2Proof

/-! ### The checkpoint log (R33) -/

theorem logBytes_foldl (l : List LogItem) (n : Nat) : l.foldl (fun n i => n + i.bytes) n = n + logBytes l := by
  unfold logBytes
  induction l generalizing n with
  | nil => simp
  | cons i t ih =>
    rw [List.foldl_cons, ih, List.foldl_cons, ih (0 + i.bytes)]
    omega

theorem logBytes_cons (i : LogItem) (l : List LogItem) : logBytes (i :: l) = i.bytes + logBytes l := by
  conv_lhs => unfold logBytes
  rw [List.foldl_cons, logBytes_foldl]
  omega

/-- A drill that differs from d in its registers, its wait and its marks alone, and holds at most n bytes of log more. -/
structure Drill.Near (d d' : Drill) (n : Nat) : Prop where
  eq : d' = { d with regs := d'.regs, wait := d'.wait, yielded := d'.yielded, chunk := { d.chunk with logged := d'.chunk.logged } }
  log : logBytes d'.chunk.logged ≤ logBytes d.chunk.logged + n

theorem Drill.Near.refl (d : Drill) : d.Near d 0 := ⟨rfl, by omega⟩

theorem Drill.Near.trans {a b c : Drill} {m n : Nat} (h : a.Near b m) (k : b.Near c n) : a.Near c (m + n) := by
  refine ⟨?_, by have := h.log; have := k.log; omega⟩
  rw [k.eq, h.eq]

theorem Drill.Near.mono {a b : Drill} {m n : Nat} (h : a.Near b m) (k : m ≤ n) : a.Near b n :=
  ⟨h.eq, by have := h.log; omega⟩

theorem Drill.near_regs (d : Drill) (r : Regs) : d.Near { d with regs := r } 0 := ⟨rfl, by simp⟩

theorem Drill.near_wait (d : Drill) (w : Wait) : d.Near { d with wait := w } 0 := ⟨rfl, by simp⟩

theorem Drill.near_note (d : Drill) (i : LogItem) : d.Near (d.note i) i.bytes := by
  unfold Drill.note
  split
  · exact (Drill.Near.refl d).mono (Nat.zero_le _)
  · exact ⟨rfl, by simp [logBytes_cons]; omega⟩

/-- Registers replaced and the item noted: the shape of every write. -/
theorem Drill.near_write (d : Drill) (r : Regs) (i : LogItem) : d.Near (({ d with regs := r } : Drill).note i) i.bytes := by
  have := (d.near_regs r).trans (Drill.near_note { d with regs := r } i)
  simpa using this

theorem Drill.near_setVec (d : Drill) (n : Nat) (ls : List Nat) (f : Nat → Nat) : d.Near (d.setVec n ls f) 256 := by
  unfold Drill.setVec
  split
  · exact (Drill.Near.refl d).mono (Nat.zero_le _)
  · exact d.near_write _ _

theorem Drill.near_setPair (d : Drill) (n : Nat) (ls : List Nat) (f : Nat → Nat) : d.Near (d.setPair n ls f) 512 :=
  (d.near_setVec n ls f).trans (Drill.near_setVec _ _ _ _)

theorem Drill.near_setWide (d : Drill) (wide : Bool) (n : Nat) (ls : List Nat) (f : Nat → Nat) :
    d.Near (d.setWide wide n ls f) 512 := by
  unfold Drill.setWide
  split
  · exact d.near_setPair n ls f
  · exact (d.near_setVec n ls f).mono (by omega)

theorem Drill.near_setUni (d : Drill) (n x : Nat) : d.Near (d.setUni n x) 8 := d.near_write _ _

theorem Drill.near_setEm (d : Drill) (m : DWord) : d.Near (d.setEm m) 8 := d.near_write _ _

theorem Drill.near_setPred (d : Drill) (n : Nat) (m : DWord) : d.Near (d.setPred n m) 8 := by
  unfold Drill.setPred
  split
  · exact (Drill.Near.refl d).mono (Nat.zero_le _)
  · exact d.near_write _ _

theorem Drill.near_setPredLanes (d : Drill) (n : Nat) (ls : List Nat) (f : Nat → Bool) : d.Near (d.setPredLanes n ls f) 8 := by
  unfold Drill.setPredLanes
  split
  · exact (Drill.Near.refl d).mono (Nat.zero_le _)
  · exact d.near_setPred _ _

theorem Drill.near_raise (d : Drill) (fl : Flags) : d.Near (d.raise fl) 8 := by
  unfold Drill.raise
  split
  · exact (Drill.Near.refl d).mono (Nat.zero_le _)
  · exact d.near_write _ _

theorem Drill.near_setTile (d : Drill) (n : Nat) (f : Nat → Nat) : d.Near (d.setTile n f) 1280 := d.near_write _ _

theorem Drill.near_setSide (d : Drill) (n : Nat) (f : Nat → Nat) : d.Near (d.setSide n f) 1280 := d.near_write _ _

theorem Drill.near_setAcc (d : Drill) (n : Nat) (f : Nat → Nat) : d.Near (d.setAcc n f) 4096 := d.near_write _ _

theorem Drill.near_countNonFinite (d : Drill) (n : Nat) : d.Near (d.countNonFinite n) 8 := by
  unfold Drill.countNonFinite
  split
  · exact (Drill.Near.refl d).mono (Nat.zero_le _)
  · exact d.near_write _ _

theorem Drill.near_countSr (d : Drill) (m : Mode) : d.Near (d.countSr m) 8 := by
  unfold Drill.countSr
  split
  · exact d.near_write _ _
  · exact (Drill.Near.refl d).mono (Nat.zero_le _)

theorem Drill.near_setPc (d : Drill) (a : DWord) : d.Near (d.setPc a) 0 := d.near_regs _

/-! ### Lanes -/

theorem written_lt {r : Regs} {h : Hints} {l : Nat} (hl : l ∈ written r h) : l < 64 := by
  unfold written lanes at hl
  simpa using (List.mem_filter.mp hl).1

theorem get_putLanes (m : Map Word) (k : Nat) (ls : List Nat) (f : Nat → Nat) (j : Nat) :
    Map.get 0 (putLanes m k ls f) j = if k ≤ j ∧ j - k ∈ ls then BitVec.ofNat 32 (f (j - k)) else Map.get 0 m j := by
  unfold putLanes
  induction ls generalizing m with
  | nil => simp
  | cons l t ih =>
    rw [List.foldl_cons, ih, Map.get_put]
    by_cases h1 : k ≤ j ∧ j - k ∈ t
    · rw [if_pos h1, if_pos ⟨h1.1, List.mem_cons_of_mem _ h1.2⟩]
    · rw [if_neg h1]
      by_cases h2 : j = k + l
      · subst h2
        simp
      · rw [if_neg h2, if_neg]
        rintro ⟨h3, h4⟩
        rcases List.mem_cons.mp h4 with h5 | h5
        · omega
        · exact h1 ⟨h3, h5⟩

/-- A vector register after a write: element l of vm. -/
theorem Drill.vec_setVec (d : Drill) (n : Nat) (ls : List Nat) (f : Nat → Nat) (hls : ∀ l ∈ ls, l < 64) (m l : Nat) (hl : l < 64) :
    (d.setVec n ls f).regs.vec m l = if m = n ∧ l ∈ ls then BitVec.ofNat 32 (f l) else d.regs.vec m l := by
  unfold Drill.setVec
  split
  · have : ls = [] := by simpa using ‹ls.isEmpty = true›
    simp [this]
  · simp only [Drill.note_regs]
    unfold Regs.vec
    rw [get_putLanes]
    by_cases h : m = n ∧ l ∈ ls
    · rw [if_pos h]
      obtain ⟨rfl, h2⟩ := h
      simp [h2]
    · rw [if_neg h, if_neg]
      rintro ⟨h1, h2⟩
      have := hls _ h2
      have : m = n := by omega
      subst this
      exact h ⟨rfl, by simpa using h2⟩

/-- What a vector write leaves of the other registers. -/
theorem Drill.regs_setVec (d : Drill) (n : Nat) (ls : List Nat) (f : Nat → Nat) :
    (d.setVec n ls f).regs = { d.regs with v := (d.setVec n ls f).regs.v } := by
  unfold Drill.setVec
  split <;> simp

theorem Drill.regs_setPair (d : Drill) (n : Nat) (ls : List Nat) (f : Nat → Nat) :
    (d.setPair n ls f).regs = { d.regs with v := (d.setPair n ls f).regs.v } := by
  unfold Drill.setPair
  rw [Drill.regs_setVec, Drill.regs_setVec d n ls f]

theorem Drill.regs_setWide (d : Drill) (wide : Bool) (n : Nat) (ls : List Nat) (f : Nat → Nat) :
    (d.setWide wide n ls f).regs = { d.regs with v := (d.setWide wide n ls f).regs.v } := by
  unfold Drill.setWide
  cases wide
  · simpa using Drill.regs_setVec d n ls f
  · simpa using Drill.regs_setPair d n ls f

/-- A register or pair after a write to the lanes an instruction writes. -/
theorem Drill.vec_setWide (d : Drill) (wide : Bool) (n : Nat) (h : Hints) (r : Regs) (hr : d.regs.vec = r.vec) (f : Nat → Nat)
    (m l : Nat) (hl : l < 64) :
    (d.setWide wide n (written r h) f).regs.vec m l = lanesWith r h wide n f m l := by
  have hw : ∀ l ∈ written r h, l < 64 := fun l => written_lt
  unfold Drill.setWide lanesWith
  cases wide
  · simp [Drill.vec_setVec _ _ _ _ hw _ _ hl, hr]
  · simp only [if_true, Drill.setPair]
    rw [Drill.vec_setVec _ _ _ _ hw _ _ hl, Drill.vec_setVec _ _ _ _ hw _ _ hl, hr]
    by_cases h1 : m = n
    · subst h1; simp
    · simp [h1]

/-! ### Uniform registers, predicates, flags -/

theorem Drill.regs_setUni (d : Drill) (n x : Nat) : (d.setUni n x).regs = { d.regs with u := (d.setUni n x).regs.u } := by
  unfold Drill.setUni
  simp

theorem Drill.uni_setUni (d : Drill) (n x m : Nat) : (d.setUni n x).regs.uni m = uniWith d.regs n x m := by
  unfold Drill.setUni uniWith Regs.uni
  simp [Map.get_put]

theorem Drill.regs_setPred (d : Drill) (n : Nat) (m : DWord) :
    (d.setPred n m).regs = { d.regs with p := (d.setPred n m).regs.p } := by
  unfold Drill.setPred
  split <;> simp

theorem Drill.pred_setPred (d : Drill) (n : Nat) (m : DWord) (k : Nat) : (d.setPred n m).regs.pred k = predWith d.regs n m k := by
  unfold Drill.setPred predWith Regs.pred
  by_cases h : n = 15
  · subst h; by_cases hk : k = 15 <;> simp [hk]
  · by_cases hk : k = 15
    · simp [hk]
    · by_cases hkn : k = n <;> simp [h, hk, hkn, Map.get_put]

theorem Drill.regs_raise (d : Drill) (fl : Flags) : (d.raise fl).regs = { d.regs with status := d.regs.status ||| fl } := by
  unfold Drill.raise
  split
  · subst_vars; simp
  · simp

theorem Drill.regs_setEm (d : Drill) (m : DWord) : (d.setEm m).regs = { d.regs with em := m } := by
  unfold Drill.setEm
  simp

/-! ### Bits of a predicate by lane -/

theorem bitAt_oneShift (l j : Nat) (hj : j < 64) : ((1 : DWord) <<< l).getLsbD j = decide (j = l) := by
  rw [BitVec.getLsbD_shiftLeft]
  by_cases h : j = l
  · subst h; simp [hj]
  · by_cases hl : j < l
    · simp [hl, h]
    · have : j - l ≠ 0 := by omega
      simp [h, hj, hl, BitVec.getLsbD_one, this]

theorem bitAt_maskWith (m : DWord) (ls : List Nat) (f : Nat → Bool) (j : Nat) (hj : j < 64) :
    bitAt (maskWith m ls f) j = if j ∈ ls then f j else bitAt m j := by
  unfold maskWith bitAt
  induction ls generalizing m with
  | nil => simp
  | cons l t ih =>
    rw [List.foldl_cons, ih]
    by_cases h1 : j ∈ t
    · simp [h1]
    · rw [if_neg h1]
      have hb := bitAt_oneShift l j hj
      have hm : (j ∈ l :: t) = (j = l) := by simp [h1]
      simp only [hm]
      by_cases h2 : j = l
      · subst h2
        rw [if_pos rfl]
        cases h : f j
        · rw [if_neg (by simp), BitVec.getLsbD_and, BitVec.getLsbD_not, hb]
          simp
        · rw [if_pos rfl, BitVec.getLsbD_or, hb]
          simp
      · have h3 : (if j = l then f j else m.getLsbD j) = m.getLsbD j := if_neg h2
        rw [h3]
        cases f l
        · rw [if_neg (by simp), BitVec.getLsbD_and, BitVec.getLsbD_not, hb]
          simp [hj, h2]
        · rw [if_pos rfl, BitVec.getLsbD_or, hb]
          simp [h2]

/-- A predicate after its bits of the lanes written are written. -/
theorem Drill.pred_setPredLanes (d : Drill) (n : Nat) (h : Hints) (r : Regs) (hr : r.pred = d.regs.pred) (f : Nat → Bool) (k : Nat) :
    (d.setPredLanes n (written r h) f).regs.pred k = predLanesWith r h n f k := by
  have hp : ∀ (j : Nat), d.regs.pred j = r.pred j := fun j => by rw [hr]
  have key : maskWith (d.regs.pred n) (written r h) f
      = BitVec.ofFnLE (fun (l : Fin 64) => if l.val ∈ written r h then f l.val else bitAt (r.pred n) l.val) := by
    apply BitVec.eq_of_getLsbD_eq
    intro j hj
    have := bitAt_maskWith (d.regs.pred n) (written r h) f j hj
    unfold bitAt at this ⊢
    rw [this, BitVec.getLsbD_ofFnLE, dif_pos hj, hp]
  unfold Drill.setPredLanes
  split
  · have he : written r h = [] := by simpa using ‹(written r h).isEmpty = true›
    unfold predLanesWith
    rw [← key, he]
    unfold maskWith predWith
    simp only [List.foldl_nil]
    split
    · rename_i h1; rw [h1.1]
    · rw [hp]
  · rw [Drill.pred_setPred, key]
    unfold predLanesWith predWith
    rw [hp]

theorem Drill.regs_setPredLanes (d : Drill) (n : Nat) (ls : List Nat) (f : Nat → Bool) :
    (d.setPredLanes n ls f).regs = { d.regs with p := (d.setPredLanes n ls f).regs.p } := by
  unfold Drill.setPredLanes
  split
  · simp
  · exact Drill.regs_setPred _ _ _

end Sys2Proof.Machine
end

