-- ==== Sys2Proof/Laws/Ops.lean ====
section
/-!
SUPPORT. What the shared operations of a unit can do: the frame of `asUnit` for a unit that executes, and what its end leaves.
-/

namespace Sys2Proof.Machine

open Sys2Proof

/-! ### The end of a unit that does not end its chunk -/

theorem Drill.settled_unyield (d : Drill) : ({ d with yielded := false } : Drill).settled = d.settled := rfl

theorem State.drills_issued (s : State) (k : Nat) : ∃ f : Nat → Drill → Drill,
    (s.issued k).drills = s.drills.map (fun c => (c.1, f c.1 c.2)) ∧ ∀ i x, (f i x).settled = x.settled := by
  refine ⟨fun i x => if x.yielded ∧ i ≠ k ∧ coreOf i = coreOf k ∧ partOf i = partOf k then { x with yielded := false } else x, ?_, ?_⟩
  · unfold State.issued
    simp only [State.setCore_drills]
    apply List.map_congr_left
    intro c _
    split <;> rfl
  · intro i x
    dsimp only
    split <;> rfl

theorem State.find_issued (s : State) (k j : Nat) :
    (Map.find (s.issued k).drills j).map Drill.settled = (Map.find s.drills j).map Drill.settled := by
  obtain ⟨f, hf, hs⟩ := s.drills_issued k
  rw [hf, Map.find_map_values]
  cases Map.find s.drills j with
  | none => rfl
  | some x => simp [hs]

theorem State.core_issued (s : State) (k c : Nat) :
    (s.issued k).core c = { s.core c with last := ((s.issued k).core c).last } := by
  have h : (s.issued k).core c = (s.setCore (coreOf k) { s.core (coreOf k) with
      last := Map.set (s.core (coreOf k)).last (partOf k) k }).core c := rfl
  rw [h, State.core_setCore]
  split
  · subst_vars; rfl
  · rfl

theorem State.rest_issued (s : State) (k : Nat) :
    s.issued k = { s with drills := (s.issued k).drills, cores := (s.issued k).cores } := rfl

/-- The step of a unit that changes its drill alone. -/
theorem State.finish_step (s : State) (d d1 : Drill) (n : Nat) (hn : d.Near d1 n) :
    UnitStep s (s.finish s.cur d1) d { d1.counted with waited := 0 } := by
  have hu : d1.chunk.units = d.chunk.units ∧ d1.chunk.limit = d.chunk.limit ∧ d1.chunk.expl = d.chunk.expl := by
    rw [hn.eq]; exact ⟨rfl, rfl, rfl⟩
  have hcore : ∀ (x : Drill) c, ((s.issued s.cur).setDrill s.cur x).core c = (s.issued s.cur).core c := fun _ _ => rfl
  refine ⟨?_, ?_, ?_, ?_, ?_, ?_, ?_⟩
  · unfold State.finish
    dsimp only
    split <;> simp [State.later_drills]
  · conv_lhs => rw [hn.eq]
    rfl
  · intro k hk
    have : Map.find (s.finish s.cur d1).drills k = Map.find (s.issued s.cur).drills k := by
      unfold State.finish
      dsimp only
      split <;> simp [Map.find_set_other _ _ hk]
    rw [this, State.find_issued]
  · intro c
    have : (s.finish s.cur d1).core c = (s.issued s.cur).core c := by
      unfold State.finish
      dsimp only
      split <;> rfl
    rw [this]
    exact State.core_issued s s.cur c
  · unfold State.finish
    dsimp only [Drill.counted]
    simp only [hu.1, hu.2.1, hu.2.2, Option.isNone_iff_eq_none]
    split <;> simp [State.issued]
  · unfold State.finish
    dsimp only
    split <;> simp [State.later, State.setDrill, State.issued, State.setCore]
  · intro a
    unfold State.finish
    dsimp only
    split <;> rfl

/-- A unit with room stands in its chunk. -/
theorem overLimit_none {s : State} {d d1 : Drill} {n : Nat} (hr : HasRoom s d n) (hn : d.Near d1 n) :
    overLimit s s.cur d1 = none := by
  have h1 : d1.logHeld ≤ d.logHeld + n := by
    have := hn.log
    unfold Drill.logHeld
    rw [hn.eq] at this ⊢
    dsimp only at this ⊢
    omega
  have h2 : d1.chunk.lines = d.chunk.lines := by rw [hn.eq]
  have h3 : s.noVictim s.cur d1 = s.noVictim s.cur d := by rw [hn.eq]; rfl
  have h5 : s.glazeFull s.cur d1 = s.glazeFull s.cur d := by rw [hn.eq]; rfl
  have h4 : d1.chunk.expl = d.chunk.expl ∧ d1.chunk.rsig = d.chunk.rsig ∧ d1.chunk.wsig = d.chunk.wsig := by
    rw [hn.eq]; exact ⟨rfl, rfl, rfl⟩
  have hl := hr.log
  unfold overLimit
  rw [if_neg (by omega), if_neg (by rw [h2, h3, h5, hr.ways, hr.heads]; have := hr.lines; simp; omega), if_neg]
  rw [h4.1, h4.2.1, h4.2.2]
  rcases hr.sigs with h | ⟨ha, hb⟩
  · simp [Option.isNone_iff_eq_none]
    intro he; rw [he] at h; simp at h
  · simp [ha, hb]

/-- The frame of a unit that executes and changes its drill alone: `body` is what it does to the drill whose PC is past the unit. -/
theorem asUnit_effect {i : Instr} {s : State} {d d1 : Drill} {n : Nat} (he : Executes s d i) (hr : HasRoom s d n)
    (hi : endsByNature i = false) (body : State → Drill → Res)
    (hb : body s ({ d with wait := .none }.setPc s.unit.after) = .done s d1) (hn : d.Near d1 n) :
    asUnit i s body = .next (s.finish s.cur d1) := by
  unfold asUnit asUnitWith
  rw [he.here]
  dsimp only
  rw [he.passes]
  dsimp only
  unfold State.runUnit
  rw [hi]
  simp only [Bool.false_and, Bool.false_eq_true, if_false, hb]
  unfold State.carry
  dsimp only
  rw [overLimit_none hr hn]

/-- As `asUnit_effect`, with everything the step does. -/
theorem asUnit_step {i : Instr} {s : State} {d d1 : Drill} {n : Nat} (he : Executes s d i) (hr : HasRoom s d n)
    (hi : endsByNature i = false) (body : State → Drill → Res)
    (hb : body s ({ d with wait := .none }.setPc s.unit.after) = .done s d1) (hn : d.Near d1 n) :
    ∃ t d', asUnit i s body = .next t ∧ UnitStep s t d d' ∧ d'.wait = d1.wait ∧ d'.yielded = d1.yielded ∧ d'.regs = d1.regs :=
  ⟨_, _, asUnit_effect he hr hi body hb hn, s.finish_step d d1 n hn, rfl, rfl, rfl⟩

/-- The drill as a unit's body finds it. -/
theorem Drill.near_start (d : Drill) (a : DWord) : d.Near ({ d with wait := .none }.setPc a) 0 :=
  (d.near_wait .none).trans (Drill.near_setPc _ _)

/-- What a change of a drill keeps of its wait and its marks. -/
structure Drill.Kept (d d' : Drill) : Prop where
  wait : d'.wait = d.wait
  yielded : d'.yielded = d.yielded

/-- An instruction that only changes its drill's registers has the effect `post` if its function gives it. -/
theorem regUnit_effect {i : Instr} {n : Nat} {f : Hints → Drill → Drill} {post : State → Regs → Regs → Prop}
    (hx : ∀ s, exec i s = regUnit i s f) (hi : endsByNature i = false) (hn : ∀ (h : Hints) (d : Drill), d.Near (f h d) n)
    (hk : ∀ (h : Hints) (d : Drill), d.Kept (f h d))
    (hp : ∀ s (d : Drill), post s d.regs (f s.unit.hints ({ d with wait := .none }.setPc s.unit.after)).regs) :
    Effect i n (fun s d d' => post s d.regs d'.regs) := by
  intro s d he hr
  have hn' : d.Near (f s.unit.hints ({ d with wait := .none }.setPc s.unit.after)) n := by
    have := (d.near_start s.unit.after).trans (hn s.unit.hints ({ d with wait := .none }.setPc s.unit.after))
    simpa using this
  obtain ⟨t, d', h1, h2, h3, h4, h5⟩ := asUnit_step he hr hi (fun s d => .done s (f s.unit.hints d)) rfl hn'
  refine ⟨t, d', by rw [hx]; exact h1, h2, ?_, ?_, ?_⟩
  · rw [h3, (hk _ _).wait]; rfl
  · rw [h4, (hk _ _).yielded]; rfl
  · dsimp only
    rw [h5]
    exact hp s d

end Sys2Proof.Machine
end

