-- ==== Sys2Proof/Laws/Effects.lean ====
section
/-!
SUPPORT. The effect of an instruction that only changes its drill's registers, by the shape of the change: lanes of a vector
register or pair with flags, a uniform register, a predicate, bits of a predicate by lane.
-/

namespace Sys2Proof.Machine

open Sys2Proof

/-! ### Waits and marks are kept by every write of a register -/

theorem Drill.Kept.refl (d : Drill) : d.Kept d := ⟨rfl, rfl⟩

theorem Drill.Kept.trans {a b c : Drill} (h : a.Kept b) (k : b.Kept c) : a.Kept c :=
  ⟨k.wait.trans h.wait, k.yielded.trans h.yielded⟩

theorem Drill.kept_write (d : Drill) (r : Regs) (i : LogItem) : d.Kept (({ d with regs := r } : Drill).note i) := ⟨by simp, by simp⟩

theorem Drill.kept_setVec (d : Drill) (n : Nat) (ls : List Nat) (f : Nat → Nat) : d.Kept (d.setVec n ls f) := by
  unfold Drill.setVec
  split
  · exact .refl d
  · exact d.kept_write _ _

theorem Drill.kept_setWide (d : Drill) (wide : Bool) (n : Nat) (ls : List Nat) (f : Nat → Nat) : d.Kept (d.setWide wide n ls f) := by
  unfold Drill.setWide Drill.setPair
  split
  · exact (d.kept_setVec n ls f).trans (Drill.kept_setVec _ _ _ _)
  · exact d.kept_setVec n ls f

theorem Drill.kept_raise (d : Drill) (fl : Flags) : d.Kept (d.raise fl) := by
  unfold Drill.raise
  split
  · exact .refl d
  · exact d.kept_write _ _

theorem Drill.kept_setUni (d : Drill) (n x : Nat) : d.Kept (d.setUni n x) := d.kept_write _ _

theorem Drill.kept_setEm (d : Drill) (m : DWord) : d.Kept (d.setEm m) := d.kept_write _ _

theorem Drill.kept_setPred (d : Drill) (n : Nat) (m : DWord) : d.Kept (d.setPred n m) := by
  unfold Drill.setPred
  split
  · exact .refl d
  · exact d.kept_write _ _

theorem Drill.kept_setPredLanes (d : Drill) (n : Nat) (ls : List Nat) (f : Nat → Bool) : d.Kept (d.setPredLanes n ls f) := by
  unfold Drill.setPredLanes
  split
  · exact .refl d
  · exact d.kept_setPred _ _

theorem Drill.raise_zero (d : Drill) : d.raise 0 = d := by simp [Drill.raise]

/-! ### Effects by shape -/

/-- The drill as its body finds it differs from d in its registers by the PC alone. -/
theorem Drill.regs_start (d : Drill) (a : DWord) : ({ d with wait := .none }.setPc a).regs = { d.regs with pc := a } := rfl

theorem writesLanes_of {i : Instr} {wide : Bool} {dst : Nat} {f : Hints → Regs → Nat → Nat} {fl : Hints → Regs → Flags}
    {g : Hints → Drill → Drill} (hx : ∀ s, exec i s = regUnit i s g) (hi : endsByNature i = false)
    (hg : ∀ (h : Hints) (d : Drill), g h d = (d.setWide wide dst (written d.regs h) (f h d.regs)).raise (fl h d.regs))
    (hf : ∀ (h : Hints) (r : Regs) (a : DWord), f h { r with pc := a } = f h r)
    (hfl : ∀ (h : Hints) (r : Regs) (a : DWord), fl h { r with pc := a } = fl h r) :
    WritesLanes i wide dst f fl := by
  refine regUnit_effect (post := fun s r r' => RegsAre r r' s.unit.after (lanesWith r s.unit.hints wide dst (f s.unit.hints r))
    r.uni r.pred (r.status ||| fl s.unit.hints r) r.seed) hx hi ?_ ?_ ?_
  · intro h d
    rw [hg]
    exact (d.near_setWide _ _ _ _).trans (Drill.near_raise _ _)
  · intro h d
    rw [hg]
    exact (d.kept_setWide _ _ _ _).trans (Drill.kept_raise _ _)
  · intro s d
    rw [hg, Drill.regs_raise, Drill.regs_setWide, Drill.regs_start, hf, hfl]
    refine ⟨rfl, fun n l hl => ?_, fun _ => rfl, fun _ => rfl⟩
    exact Drill.vec_setWide ({ d with wait := .none }.setPc s.unit.after) wide dst s.unit.hints d.regs rfl
      (f s.unit.hints d.regs) n l hl

theorem writesPlain_of {i : Instr} {wide : Bool} {dst : Nat} {f : Hints → Regs → Nat → Nat} {g : Hints → Drill → Drill}
    (hx : ∀ s, exec i s = regUnit i s g) (hi : endsByNature i = false)
    (hg : ∀ (h : Hints) (d : Drill), g h d = d.setWide wide dst (written d.regs h) (f h d.regs))
    (hf : ∀ (h : Hints) (r : Regs) (a : DWord), f h { r with pc := a } = f h r) : WritesPlain i wide dst f :=
  writesLanes_of hx hi (fun h d => by rw [hg, Drill.raise_zero]) hf (fun _ _ _ => rfl)

theorem writesUni_of {i : Instr} {dst : Nat} {x : Hints → Regs → Nat} {g : Hints → Drill → Drill}
    (hx : ∀ s, exec i s = regUnit i s g) (hi : endsByNature i = false)
    (hg : ∀ (h : Hints) (d : Drill), g h d = d.setUni dst (x h d.regs))
    (hf : ∀ (h : Hints) (r : Regs) (a : DWord), x h { r with pc := a } = x h r) : WritesUni i dst x := by
  refine regUnit_effect (post := fun s r r' => RegsAre r r' s.unit.after r.vec (uniWith r dst (x s.unit.hints r)) r.pred r.status r.seed)
    hx hi ?_ ?_ ?_
  · intro h d; rw [hg]; exact d.near_setUni _ _
  · intro h d; rw [hg]; exact d.kept_setUni _ _
  · intro s d
    rw [hg, Drill.regs_start, hf]
    exact ⟨by rw [Drill.regs_setUni]; rfl, fun n l _ => by rw [Drill.regs_setUni]; rfl, fun n => by rw [Drill.uni_setUni]; rfl,
      fun n => by rw [Drill.regs_setUni]; rfl⟩

theorem writesPred_of {i : Instr} {dst : Nat} {m : Regs → DWord} {g : Hints → Drill → Drill}
    (hx : ∀ s, exec i s = regUnit i s g) (hi : endsByNature i = false)
    (hg : ∀ (h : Hints) (d : Drill), g h d = d.setPred dst (m d.regs))
    (hf : ∀ (r : Regs) (a : DWord), m { r with pc := a } = m r) : WritesPred i dst m := by
  refine regUnit_effect (post := fun s r r' => RegsAre r r' s.unit.after r.vec r.uni (predWith r dst (m r)) r.status r.seed) hx hi ?_ ?_ ?_
  · intro h d; rw [hg]; exact d.near_setPred _ _
  · intro h d; rw [hg]; exact d.kept_setPred _ _
  · intro s d
    rw [hg, Drill.regs_start, hf]
    exact ⟨by rw [Drill.regs_setPred]; rfl, fun n l _ => by rw [Drill.regs_setPred]; rfl, fun n => by rw [Drill.regs_setPred]; rfl,
      fun n => by rw [Drill.pred_setPred]; rfl⟩

theorem writesPredLanes_of {i : Instr} {dst : Nat} {f : Regs → Nat → Bool} {g : Hints → Drill → Drill}
    (hx : ∀ s, exec i s = regUnit i s g) (hi : endsByNature i = false)
    (hg : ∀ (h : Hints) (d : Drill), g h d = d.setPredLanes dst (written d.regs h) (f d.regs))
    (hf : ∀ (r : Regs) (a : DWord), f { r with pc := a } = f r) : WritesPredLanes i dst f := by
  refine regUnit_effect (post := fun s r r' => RegsAre r r' s.unit.after r.vec r.uni (predLanesWith r s.unit.hints dst (f r)) r.status r.seed)
    hx hi ?_ ?_ ?_
  · intro h d; rw [hg]; exact d.near_setPredLanes _ _ _
  · intro h d; rw [hg]; exact d.kept_setPredLanes _ _ _
  · intro s d
    rw [hg, Drill.regs_start, hf]
    exact ⟨by rw [Drill.regs_setPredLanes]; rfl, fun n l _ => by rw [Drill.regs_setPredLanes]; rfl,
      fun n => by rw [Drill.regs_setPredLanes]; rfl,
      fun n => Drill.pred_setPredLanes ({ d with wait := .none }.setPc s.unit.after) dst s.unit.hints d.regs rfl (f d.regs) n⟩

/-! ### The tables of chapter 07 -/

theorem tableA_eq (f w : Nat) (sat : Bool) (a b : Nat) (hf : f ≤ 15) (h12 : f ≠ 12) (h13 : f ≠ 13) :
    tableA f w sat a b =
      narrowed (sat && admitsSat f) (signedA f) w (exactA f w (valueOf (signedA f) w a) (valueOf (signedA f) w b)) := by
  have cases : f = 0 ∨ f = 1 ∨ f = 2 ∨ f = 3 ∨ f = 4 ∨ f = 5 ∨ f = 6 ∨ f = 7 ∨ f = 8 ∨ f = 9 ∨ f = 10 ∨ f = 11 ∨ f = 14 ∨ f = 15 := by
    omega
  have hmax : ∀ x y : Int, (if y ≤ x then x else y) = max x y := fun x y => by rw [max_def]; split <;> split <;> omega
  rcases cases with h | h | h | h | h | h | h | h | h | h | h | h | h | h <;> subst h <;> cases sat <;>
    simp [tableA, narrowed, admitsSat, signedA, exactA, min_def, hmax]

theorem writesTableA_of {i : Instr} {f : Nat} {wide : Bool} {dst : Nat} {a b : Regs → Nat → Nat}
    (hx : ∀ s, exec i s = regUnit i s (arithLanes f wide dst a b)) (hi : endsByNature i = false)
    (hf : f ≤ 15) (h12 : f ≠ 12) (h13 : f ≠ 13)
    (ha : ∀ (r : Regs) (p : DWord), a { r with pc := p } = a r) (hb : ∀ (r : Regs) (p : DWord), b { r with pc := p } = b r) :
    WritesTableA i f wide dst a b := by
  unfold WritesTableA
  refine writesLanes_of hx hi ?_ ?_ ?_
  · intro h d
    unfold arithLanes
    rw [if_neg h12, if_neg h13]
    unfold lanesSat
    simp only [tableA_eq f (formBits wide) _ _ _ hf h12 h13]
    rfl
  · intro h r p
    simp only [ha, hb]
  · intro h r p
    simp only [ha, hb]
    rfl

end Sys2Proof.Machine
end

