-- ==== Sys2Proof/Laws/Order.lean ====
section
/-!
SUPPORT. What the operations that order work can do: attempts one after another, requests decided, queues served, waits counted,
copies made stale.
-/

namespace Sys2Proof.Machine

/-! ### Attempts one after another -/

@[simp] theorem Got.then_ok {α β : Type} (s : State) (x : α) (f : State → α → Got β) : (Got.ok s x).then f = f s x := rfl
@[simp] theorem Got.then_hold {α β : Type} (s : State) (b : Bool) (n : Option Nat) (f : State → α → Got β) : (Got.hold s b n).then f = .hold s b n := rfl
@[simp] theorem Got.then_dies {α β : Type} (x : Death) (f : State → α → Got β) : (Got.dies x : Got α).then f = .dies x := rfl
@[simp] theorem Got.then_fail {α β : Type} (n : Nat) (f : State → α → Got β) : (Got.fail n : Got α).then f = .fail n := rfl

/-- Two attempts succeed only where each does. -/
theorem Got.then_eq_ok {α β : Type} {g : Got α} {f : State → α → Got β} {t : State} {y : β} (h : g.then f = .ok t y) :
    ∃ s x, g = .ok s x ∧ f s x = .ok t y := by
  cases g with
  | ok s x => exact ⟨s, x, rfl, h⟩
  | hold _ _ _ => cases h
  | dies _ => cases h
  | fail _ => cases h

/-! ### Requests at a slice (R243, R250) -/

@[simp] theorem decideUpTo_nil (n : Nat) (s : State) : decideUpTo n [] s = s := by cases n <;> rfl
@[simp] theorem decideUpTo_zero (l : List Request) (s : State) : decideUpTo 0 l s = s := by cases l <;> rfl

/-- A request that a reservation holds back is passed over and is none of the n. -/
theorem decideUpTo_held {n : Nat} {q : Request} {l : List Request} {s : State} (h : s.decidable q = false) :
    decideUpTo (n + 1) (q :: l) s = decideUpTo (n + 1) l s := by simp [decideUpTo, h]

/-- One that none holds back is decided, and the rest after it. -/
theorem decideUpTo_decided {n : Nat} {q : Request} {l : List Request} {s : State} (h : s.decidable q = true) :
    decideUpTo (n + 1) (q :: l) s = decideUpTo n l (s.decideRequest q) := by simp [decideUpTo, h]

/-- A request behind any number of held ones is decided (R250). -/
theorem decideUpTo_behind {n : Nat} {q : Request} {s : State} (hq : s.decidable q = true) {held rest : List Request}
    (h : ∀ x ∈ held, s.decidable x = false) :
    decideUpTo (n + 1) (held ++ q :: rest) s = decideUpTo n rest (s.decideRequest q) := by
  induction held with
  | nil => exact decideUpTo_decided hq
  | cons x xs ih =>
    rw [List.cons_append, decideUpTo_held (h x (by simp))]
    exact ih (fun y m => h y (by simp [m]))

/-! ### Queues served (R296) -/

@[simp] theorem Context.served_lastQueue (c : Context) (q : Nat) : (c.served q).lastQueue = Map.set c.lastQueue (c.prioOf q) q := rfl
@[simp] theorem Context.served_queues (c : Context) (q : Nat) : (c.served q).queues = c.queues := rfl
@[simp] theorem Context.served_pointer (c : Context) (q : Nat) : (c.served q).pointer = c.pointer := rfl

/-! ### Clocks in which a partition may issue (R378) -/

/-- At share 16 it may issue in every clock. -/
@[simp] theorem issueClocks_full (c e : Nat) : issueClocks 16 c e = e := by unfold issueClocks; omega

/-- Clocks counted in two parts are counted once. -/
theorem issueClocks_add (n c a b : Nat) : issueClocks n c (a + b) = issueClocks n c a + issueClocks n (c + a) b := by
  unfold issueClocks
  have h1 : c * n / 16 ≤ (c + a) * n / 16 := Nat.div_le_div_right (Nat.mul_le_mul_right n (by omega))
  have h2 : (c + a) * n / 16 ≤ (c + a + b) * n / 16 := Nat.div_le_div_right (Nat.mul_le_mul_right n (by omega))
  rw [← Nat.add_assoc]
  omega

/-- In any 16 clocks it may issue in exactly N. -/
theorem issueClocks_sixteen (n c : Nat) : issueClocks n c 16 = n := by
  unfold issueClocks
  rw [Nat.add_mul]
  omega

/-! ### Copies made stale (R255) -/

@[simp] theorem State.staleFills_drills (s : State) (c : Nat) (p : Fill → Bool) : (s.staleFills c p).drills = s.drills := rfl
@[simp] theorem State.staleFills_cores (s : State) (c : Nat) (p : Fill → Bool) : (s.staleFills c p).cores = s.cores := rfl
@[simp] theorem State.staleFills_bulk (s : State) (c : Nat) (p : Fill → Bool) : (s.staleFills c p).bulk = s.bulk := rfl
@[simp] theorem State.staleFills_newer (s : State) (c : Nat) (p : Fill → Bool) : (s.staleFills c p).newer = s.newer := rfl

/-- A fill of the core that the home has served, and that meets p, is stale; every other is as it was. -/
theorem State.find_staleFills (s : State) (c : Nat) (p : Fill → Bool) (n : Nat) :
    Map.find (s.staleFills c p).fills n =
      (Map.find s.fills n).map (fun f => if f.core = c ∧ f.served = true ∧ p f = true then { f with stale := true } else f) := by
  have h := Map.find_map_values s.fills (fun (_ : Nat) (f : Fill) => if f.core = c ∧ f.served = true ∧ p f = true then { f with stale := true } else f) n
  rw [← h]
  unfold State.staleFills
  congr 1
  refine List.map_congr_left (fun x _ => ?_)
  dsimp only
  split <;> rfl

end Sys2Proof.Machine
end

