-- ==== Sys2Proof/Laws/PerInstr.lean ====
section
/-!
SUPPORT. Per constructor: the word of a well-formed instruction has 32 bits (R94).
-/

namespace Sys2Proof.Laws.Encoding

set_option Elab.async false

/-- The word of a well-formed instruction, if it has one, has 32 bits. -/
def Statement (i : Instr) : Prop := i.WF → ∀ w, encode i = some w → w < 2 ^ 32

theorem add (t : Nat) (d : Nat) (a : Nat) (b : Nat) : Statement (.add t d a b) := by
  intro h w e
  cases e
  simp only [Instr.WF] at h
  omega

theorem sub (t : Nat) (d : Nat) (a : Nat) (b : Nat) : Statement (.sub t d a b) := by
  intro h w e
  cases e
  simp only [Instr.WF] at h
  omega

theorem mul (t : Nat) (d : Nat) (a : Nat) (b : Nat) : Statement (.mul t d a b) := by
  intro h w e
  cases e
  simp only [Instr.WF] at h
  omega

theorem mulh (t : Nat) (d : Nat) (a : Nat) (b : Nat) : Statement (.mulh t d a b) := by
  intro h w e
  cases e
  simp only [Instr.WF] at h
  omega

theorem min (t : Nat) (d : Nat) (a : Nat) (b : Nat) : Statement (.min t d a b) := by
  intro h w e
  cases e
  simp only [Instr.WF] at h
  omega

theorem max (t : Nat) (d : Nat) (a : Nat) (b : Nat) : Statement (.max t d a b) := by
  intro h w e
  cases e
  simp only [Instr.WF] at h
  omega

theorem addc (d : Nat) (a : Nat) (b : Nat) : Statement (.addc d a b) := by
  intro h w e
  cases e
  simp only [Instr.WF] at h
  omega

theorem subb (d : Nat) (a : Nat) (b : Nat) : Statement (.subb d a b) := by
  intro h w e
  cases e
  simp only [Instr.WF] at h
  omega

theorem abs (d : Nat) (a : Nat) : Statement (.abs d a) := by
  intro h w e
  cases e
  simp only [Instr.WF] at h
  omega

theorem neg (d : Nat) (a : Nat) : Statement (.neg d a) := by
  intro h w e
  cases e
  simp only [Instr.WF] at h
  omega

theorem intArith64 (f : Nat) (d : Nat) (a : Nat) (b : Nat) : Statement (.intArith64 f d a b) := by
  intro h w e
  cases e
  simp only [Instr.WF] at h
  omega

theorem intArithVs (f : Nat) (d : Nat) (a : Nat) (sb : Nat) : Statement (.intArithVs f d a sb) := by
  intro h w e
  cases e
  simp only [Instr.WF] at h
  omega

theorem intArith64Vs (f : Nat) (d : Nat) (a : Nat) (sb : Nat) : Statement (.intArith64Vs f d a sb) := by
  intro h w e
  cases e
  simp only [Instr.WF] at h
  omega

theorem and (d : Nat) (a : Nat) (b : Nat) : Statement (.and d a b) := by
  intro h w e
  cases e
  simp only [Instr.WF] at h
  omega

theorem or (d : Nat) (a : Nat) (b : Nat) : Statement (.or d a b) := by
  intro h w e
  cases e
  simp only [Instr.WF] at h
  omega

theorem xor (d : Nat) (a : Nat) (b : Nat) : Statement (.xor d a b) := by
  intro h w e
  cases e
  simp only [Instr.WF] at h
  omega

theorem andn (d : Nat) (a : Nat) (b : Nat) : Statement (.andn d a b) := by
  intro h w e
  cases e
  simp only [Instr.WF] at h
  omega

theorem not (d : Nat) (a : Nat) : Statement (.not d a) := by
  intro h w e
  cases e
  simp only [Instr.WF] at h
  omega

theorem shl (d : Nat) (a : Nat) (b : Nat) : Statement (.shl d a b) := by
  intro h w e
  cases e
  simp only [Instr.WF] at h
  omega

theorem shr (d : Nat) (a : Nat) (b : Nat) : Statement (.shr d a b) := by
  intro h w e
  cases e
  simp only [Instr.WF] at h
  omega

theorem sra (d : Nat) (a : Nat) (b : Nat) : Statement (.sra d a b) := by
  intro h w e
  cases e
  simp only [Instr.WF] at h
  omega

theorem rol (d : Nat) (a : Nat) (b : Nat) : Statement (.rol d a b) := by
  intro h w e
  cases e
  simp only [Instr.WF] at h
  omega

theorem popc (d : Nat) (a : Nat) : Statement (.popc d a) := by
  intro h w e
  cases e
  simp only [Instr.WF] at h
  omega

theorem clz (d : Nat) (a : Nat) : Statement (.clz d a) := by
  intro h w e
  cases e
  simp only [Instr.WF] at h
  omega

theorem ctz (d : Nat) (a : Nat) : Statement (.ctz d a) := by
  intro h w e
  cases e
  simp only [Instr.WF] at h
  omega

theorem brev (d : Nat) (a : Nat) : Statement (.brev d a) := by
  intro h w e
  cases e
  simp only [Instr.WF] at h
  omega

theorem mov (d : Nat) (a : Nat) : Statement (.mov d a) := by
  intro h w e
  cases e
  simp only [Instr.WF] at h
  omega

theorem logic64 (f : Nat) (d : Nat) (a : Nat) (b : Nat) : Statement (.logic64 f d a b) := by
  intro h w e
  cases e
  simp only [Instr.WF] at h
  omega

theorem logicVs (f : Nat) (d : Nat) (a : Nat) (sb : Nat) : Statement (.logicVs f d a sb) := by
  intro h w e
  cases e
  simp only [Instr.WF] at h
  omega

theorem logic64Vs (f : Nat) (d : Nat) (a : Nat) (sb : Nat) : Statement (.logic64Vs f d a sb) := by
  intro h w e
  cases e
  simp only [Instr.WF] at h
  omega

theorem mad (d : Nat) (a : Nat) (b : Nat) : Statement (.mad d a b) := by
  intro h w e
  cases e
  simp only [Instr.WF] at h
  omega

theorem bfxN32 (d : Nat) (a : Nat) (b : Nat) : Statement (.bfxN32 d a b) := by
  intro h w e
  cases e
  simp only [Instr.WF] at h
  omega

theorem bfxI32 (d : Nat) (a : Nat) (b : Nat) : Statement (.bfxI32 d a b) := by
  intro h w e
  cases e
  simp only [Instr.WF] at h
  omega

theorem bfi (d : Nat) (a : Nat) (b : Nat) : Statement (.bfi d a b) := by
  intro h w e
  cases e
  simp only [Instr.WF] at h
  omega

theorem lea (k : Nat) (d : Nat) (a : Nat) (b : Nat) : Statement (.lea k d a b) := by
  intro h w e
  cases e
  simp only [Instr.WF] at h
  omega

theorem cvti (c : Nat) (d : Nat) (a : Nat) : Statement (.cvti c d a) := by
  intro h w e
  cases e
  simp only [Instr.WF] at h
  omega

theorem addImm (d : Nat) (a : Nat) (imm : Nat) : Statement (.addImm d a imm) := by
  intro h w e
  cases e
  simp only [Instr.WF] at h
  omega

theorem mulImm (d : Nat) (a : Nat) (imm : Nat) : Statement (.mulImm d a imm) := by
  intro h w e
  cases e
  simp only [Instr.WF] at h
  omega

theorem andImm (d : Nat) (a : Nat) (imm : Nat) : Statement (.andImm d a imm) := by
  intro h w e
  cases e
  simp only [Instr.WF] at h
  omega

theorem orImm (d : Nat) (a : Nat) (imm : Nat) : Statement (.orImm d a imm) := by
  intro h w e
  cases e
  simp only [Instr.WF] at h
  omega

theorem xorImm (d : Nat) (a : Nat) (imm : Nat) : Statement (.xorImm d a imm) := by
  intro h w e
  cases e
  simp only [Instr.WF] at h
  omega

theorem shiftImm (d : Nat) (a : Nat) (o : Nat) (c : Nat) : Statement (.shiftImm d a o c) := by
  intro h w e
  cases e
  simp only [Instr.WF] at h
  omega

theorem ldi (d : Nat) (imm : Nat) : Statement (.ldi d imm) := by
  intro h w e
  cases e
  simp only [Instr.WF] at h
  omega

theorem movk (d : Nat) (imm : Nat) : Statement (.movk d imm) := by
  intro h w e
  cases e
  simp only [Instr.WF] at h
  omega

theorem cmp (t : Nat) (c : Nat) (p : Nat) (a : Nat) (b : Nat) : Statement (.cmp t c p a b) := by
  intro h w e
  cases e
  simp only [Instr.WF] at h
  omega

theorem cmpVs (t : Nat) (c : Nat) (p : Nat) (a : Nat) (sb : Nat) : Statement (.cmpVs t c p a sb) := by
  intro h w e
  cases e
  simp only [Instr.WF] at h
  omega

theorem sel (n : Nat) (d : Nat) (a : Nat) (b : Nat) : Statement (.sel n d a b) := by
  intro h w e
  cases e
  simp only [Instr.WF] at h
  omega

theorem uniformAlu (f : Nat) (d : Nat) (a : Nat) (b : Nat) : Statement (.uniformAlu f d a b) := by
  intro h w e
  cases e
  simp only [Instr.WF] at h
  omega

theorem cmpU (t : Nat) (c : Nat) (p : Nat) (a : Nat) (b : Nat) : Statement (.cmpU t c p a b) := by
  intro h w e
  cases e
  simp only [Instr.WF] at h
  omega

theorem addImmU (d : Nat) (a : Nat) (imm : Nat) : Statement (.addImmU d a imm) := by
  intro h w e
  cases e
  simp only [Instr.WF] at h
  omega

theorem mulImmU (d : Nat) (a : Nat) (imm : Nat) : Statement (.mulImmU d a imm) := by
  intro h w e
  cases e
  simp only [Instr.WF] at h
  omega

theorem andImmU (d : Nat) (a : Nat) (imm : Nat) : Statement (.andImmU d a imm) := by
  intro h w e
  cases e
  simp only [Instr.WF] at h
  omega

theorem orImmU (d : Nat) (a : Nat) (imm : Nat) : Statement (.orImmU d a imm) := by
  intro h w e
  cases e
  simp only [Instr.WF] at h
  omega

theorem xorImmU (d : Nat) (a : Nat) (imm : Nat) : Statement (.xorImmU d a imm) := by
  intro h w e
  cases e
  simp only [Instr.WF] at h
  omega

theorem shiftImmU (d : Nat) (a : Nat) (o : Nat) (c : Nat) : Statement (.shiftImmU d a o c) := by
  intro h w e
  cases e
  simp only [Instr.WF] at h
  omega

theorem ldiU (d : Nat) (imm : Nat) : Statement (.ldiU d imm) := by
  intro h w e
  cases e
  simp only [Instr.WF] at h
  omega

theorem movkU (d : Nat) (imm : Nat) : Statement (.movkU d imm) := by
  intro h w e
  cases e
  simp only [Instr.WF] at h
  omega

theorem pand (d : Nat) (a : Nat) (b : Nat) : Statement (.pand d a b) := by
  intro h w e
  cases e
  simp only [Instr.WF] at h
  omega

theorem por (d : Nat) (a : Nat) (b : Nat) : Statement (.por d a b) := by
  intro h w e
  cases e
  simp only [Instr.WF] at h
  omega

theorem pxor (d : Nat) (a : Nat) (b : Nat) : Statement (.pxor d a b) := by
  intro h w e
  cases e
  simp only [Instr.WF] at h
  omega

theorem pnot (d : Nat) (a : Nat) : Statement (.pnot d a) := by
  intro h w e
  cases e
  simp only [Instr.WF] at h
  omega

theorem pmovPp (d : Nat) (a : Nat) : Statement (.pmovPp d a) := by
  intro h w e
  cases e
  simp only [Instr.WF] at h
  omega

theorem pcnt (d : Nat) (a : Nat) : Statement (.pcnt d a) := by
  intro h w e
  cases e
  simp only [Instr.WF] at h
  omega

theorem pfirst (d : Nat) (a : Nat) : Statement (.pfirst d a) := by
  intro h w e
  cases e
  simp only [Instr.WF] at h
  omega

theorem pmovSp (d : Nat) (a : Nat) : Statement (.pmovSp d a) := by
  intro h w e
  cases e
  simp only [Instr.WF] at h
  omega

theorem pmovPs (d : Nat) (a : Nat) : Statement (.pmovPs d a) := by
  intro h w e
  cases e
  simp only [Instr.WF] at h
  omega

theorem bra (h : Nat) (n : Nat) (p : Nat) (o : Nat) : Statement (.bra h n p o) := by
  intro h w e
  cases e
  simp only [Instr.WF] at h
  omega

theorem jmp (o : Nat) : Statement (.jmp o) := by
  intro h w e
  cases e
  simp only [Instr.WF] at h
  omega

theorem call (o : Nat) : Statement (.call o) := by
  intro h w e
  cases e
  simp only [Instr.WF] at h
  omega

theorem rcv (o : Nat) : Statement (.rcv o) := by
  intro h w e
  cases e
  simp only [Instr.WF] at h
  omega

theorem jmpReg (a : Nat) : Statement (.jmpReg a) := by
  intro h w e
  cases e
  simp only [Instr.WF] at h
  omega

theorem rdsr (d : Nat) (n : Nat) : Statement (.rdsr d n) := by
  intro h w e
  cases e
  simp only [Instr.WF] at h
  omega

theorem wrsr (n : Nat) (a : Nat) : Statement (.wrsr n a) := by
  intro h w e
  cases e
  simp only [Instr.WF] at h
  omega

theorem rdsrV (d : Nat) (n : Nat) : Statement (.rdsrV d n) := by
  intro h w e
  cases e
  simp only [Instr.WF] at h
  omega

theorem fadd (d : Nat) (a : Nat) (b : Nat) : Statement (.fadd d a b) := by
  intro h w e
  cases e
  simp only [Instr.WF] at h
  omega

theorem fsub (d : Nat) (a : Nat) (b : Nat) : Statement (.fsub d a b) := by
  intro h w e
  cases e
  simp only [Instr.WF] at h
  omega

theorem fmul (d : Nat) (a : Nat) (b : Nat) : Statement (.fmul d a b) := by
  intro h w e
  cases e
  simp only [Instr.WF] at h
  omega

theorem fma (d : Nat) (a : Nat) (b : Nat) : Statement (.fma d a b) := by
  intro h w e
  cases e
  simp only [Instr.WF] at h
  omega

theorem fmin (d : Nat) (a : Nat) (b : Nat) : Statement (.fmin d a b) := by
  intro h w e
  cases e
  simp only [Instr.WF] at h
  omega

theorem fmax (d : Nat) (a : Nat) (b : Nat) : Statement (.fmax d a b) := by
  intro h w e
  cases e
  simp only [Instr.WF] at h
  omega

theorem fdiv (d : Nat) (a : Nat) (b : Nat) : Statement (.fdiv d a b) := by
  intro h w e
  cases e
  simp only [Instr.WF] at h
  omega

theorem fsqrt (d : Nat) (a : Nat) : Statement (.fsqrt d a) := by
  intro h w e
  cases e
  simp only [Instr.WF] at h
  omega

theorem frcp (d : Nat) (a : Nat) : Statement (.frcp d a) := by
  intro h w e
  cases e
  simp only [Instr.WF] at h
  omega

theorem frsq (d : Nat) (a : Nat) : Statement (.frsq d a) := by
  intro h w e
  cases e
  simp only [Instr.WF] at h
  omega

theorem frnd (d : Nat) (a : Nat) : Statement (.frnd d a) := by
  intro h w e
  cases e
  simp only [Instr.WF] at h
  omega

theorem fabs (d : Nat) (a : Nat) : Statement (.fabs d a) := by
  intro h w e
  cases e
  simp only [Instr.WF] at h
  omega

theorem fneg (d : Nat) (a : Nat) : Statement (.fneg d a) := by
  intro h w e
  cases e
  simp only [Instr.WF] at h
  omega

theorem fcpsgn (d : Nat) (a : Nat) (b : Nat) : Statement (.fcpsgn d a b) := by
  intro h w e
  cases e
  simp only [Instr.WF] at h
  omega

theorem fcls (d : Nat) (a : Nat) : Statement (.fcls d a) := by
  intro h w e
  cases e
  simp only [Instr.WF] at h
  omega

theorem fpF16 (f : Nat) (d : Nat) (a : Nat) (b : Nat) : Statement (.fpF16 f d a b) := by
  intro h w e
  cases e
  simp only [Instr.WF] at h
  omega

theorem fpBf16 (f : Nat) (d : Nat) (a : Nat) (b : Nat) : Statement (.fpBf16 f d a b) := by
  intro h w e
  cases e
  simp only [Instr.WF] at h
  omega

theorem fpVs (f : Nat) (d : Nat) (a : Nat) (sb : Nat) : Statement (.fpVs f d a sb) := by
  intro h w e
  cases e
  simp only [Instr.WF] at h
  omega

theorem fex2 (d : Nat) (a : Nat) : Statement (.fex2 d a) := by
  intro h w e
  cases e
  simp only [Instr.WF] at h
  omega

theorem flg2 (d : Nat) (a : Nat) : Statement (.flg2 d a) := by
  intro h w e
  cases e
  simp only [Instr.WF] at h
  omega

theorem fsin (d : Nat) (a : Nat) : Statement (.fsin d a) := by
  intro h w e
  cases e
  simp only [Instr.WF] at h
  omega

theorem fcos (d : Nat) (a : Nat) : Statement (.fcos d a) := by
  intro h w e
  cases e
  simp only [Instr.WF] at h
  omega

theorem ftanh (d : Nat) (a : Nat) : Statement (.ftanh d a) := by
  intro h w e
  cases e
  simp only [Instr.WF] at h
  omega

theorem faddImm (d : Nat) (a : Nat) (imm : Nat) : Statement (.faddImm d a imm) := by
  intro h w e
  cases e
  simp only [Instr.WF] at h
  omega

theorem fmulImm (d : Nat) (a : Nat) (imm : Nat) : Statement (.fmulImm d a imm) := by
  intro h w e
  cases e
  simp only [Instr.WF] at h
  omega

theorem fcmp (t : Nat) (c : Nat) (p : Nat) (a : Nat) (b : Nat) : Statement (.fcmp t c p a b) := by
  intro h w e
  cases e
  simp only [Instr.WF] at h
  omega

theorem cvt (f : Nat) (d : Nat) (a : Nat) (e : Nat) (src : Nat) : Statement (.cvt f d a e src) := by
  intro h w e
  cases e
  simp only [Instr.WF] at h
  omega

theorem pk2F16 (d : Nat) (a : Nat) (b : Nat) : Statement (.pk2F16 d a b) := by
  intro h w e
  cases e
  simp only [Instr.WF] at h
  omega

theorem pk2Bf16 (d : Nat) (a : Nat) (b : Nat) : Statement (.pk2Bf16 d a b) := by
  intro h w e
  cases e
  simp only [Instr.WF] at h
  omega

theorem upk2F16 (d : Nat) (a : Nat) : Statement (.upk2F16 d a) := by
  intro h w e
  cases e
  simp only [Instr.WF] at h
  omega

theorem upk2Bf16 (d : Nat) (a : Nat) : Statement (.upk2Bf16 d a) := by
  intro h w e
  cases e
  simp only [Instr.WF] at h
  omega

theorem hadd2F16 (d : Nat) (a : Nat) (b : Nat) : Statement (.hadd2F16 d a b) := by
  intro h w e
  cases e
  simp only [Instr.WF] at h
  omega

theorem hmul2F16 (d : Nat) (a : Nat) (b : Nat) : Statement (.hmul2F16 d a b) := by
  intro h w e
  cases e
  simp only [Instr.WF] at h
  omega

theorem hfma2F16 (d : Nat) (a : Nat) (b : Nat) : Statement (.hfma2F16 d a b) := by
  intro h w e
  cases e
  simp only [Instr.WF] at h
  omega

theorem hmin2F16 (d : Nat) (a : Nat) (b : Nat) : Statement (.hmin2F16 d a b) := by
  intro h w e
  cases e
  simp only [Instr.WF] at h
  omega

theorem hmax2F16 (d : Nat) (a : Nat) (b : Nat) : Statement (.hmax2F16 d a b) := by
  intro h w e
  cases e
  simp only [Instr.WF] at h
  omega

theorem hadd2Bf16 (d : Nat) (a : Nat) (b : Nat) : Statement (.hadd2Bf16 d a b) := by
  intro h w e
  cases e
  simp only [Instr.WF] at h
  omega

theorem hmul2Bf16 (d : Nat) (a : Nat) (b : Nat) : Statement (.hmul2Bf16 d a b) := by
  intro h w e
  cases e
  simp only [Instr.WF] at h
  omega

theorem hfma2Bf16 (d : Nat) (a : Nat) (b : Nat) : Statement (.hfma2Bf16 d a b) := by
  intro h w e
  cases e
  simp only [Instr.WF] at h
  omega

theorem hmin2Bf16 (d : Nat) (a : Nat) (b : Nat) : Statement (.hmin2Bf16 d a b) := by
  intro h w e
  cases e
  simp only [Instr.WF] at h
  omega

theorem hmax2Bf16 (d : Nat) (a : Nat) (b : Nat) : Statement (.hmax2Bf16 d a b) := by
  intro h w e
  cases e
  simp only [Instr.WF] at h
  omega

theorem iadd2 (t : Nat) (d : Nat) (a : Nat) (b : Nat) : Statement (.iadd2 t d a b) := by
  intro h w e
  cases e
  simp only [Instr.WF] at h
  omega

theorem imax2 (t : Nat) (d : Nat) (a : Nat) (b : Nat) : Statement (.imax2 t d a b) := by
  intro h w e
  cases e
  simp only [Instr.WF] at h
  omega

theorem imin2 (t : Nat) (d : Nat) (a : Nat) (b : Nat) : Statement (.imin2 t d a b) := by
  intro h w e
  cases e
  simp only [Instr.WF] at h
  omega

theorem ld (o : Nat) (d : Nat) (base : Nat) (v : Nat) (c : Nat) : Statement (.ld o d base v c) := by
  intro h w e
  cases e
  simp only [Instr.WF] at h
  omega

theorem st (o : Nat) (d : Nat) (base : Nat) (v : Nat) (c : Nat) : Statement (.st o d base v c) := by
  intro h w e
  cases e
  simp only [Instr.WF] at h
  omega

theorem ldu (o : Nat) (d : Nat) (base : Nat) : Statement (.ldu o d base) := by
  intro h w e
  cases e
  simp only [Instr.WF] at h
  omega

theorem atom (o : Nat) (d : Nat) (base : Nat) (v : Nat) (c : Nat) : Statement (.atom o d base v c) := by
  intro h w e
  cases e
  simp only [Instr.WF] at h
  omega

theorem atomCas (d : Nat) (base : Nat) (v : Nat) (c : Nat) : Statement (.atomCas d base v c) := by
  intro h w e
  cases e
  simp only [Instr.WF] at h
  omega

theorem atom64 (o : Nat) (d : Nat) (base : Nat) (v : Nat) (c : Nat) : Statement (.atom64 o d base v c) := by
  intro h w e
  cases e
  simp only [Instr.WF] at h
  omega

theorem atom64Cas (d : Nat) (base : Nat) (v : Nat) (c : Nat) : Statement (.atom64Cas d base v c) := by
  intro h w e
  cases e
  simp only [Instr.WF] at h
  omega

theorem red (o : Nat) (d : Nat) (base : Nat) (v : Nat) (c : Nat) : Statement (.red o d base v c) := by
  intro h w e
  cases e
  simp only [Instr.WF] at h
  omega

theorem pfL1 (base : Nat) (v : Nat) (c : Nat) : Statement (.pfL1 base v c) := by
  intro h w e
  cases e
  simp only [Instr.WF] at h
  omega

theorem pfMc (base : Nat) (v : Nat) (c : Nat) : Statement (.pfMc base v c) := by
  intro h w e
  cases e
  simp only [Instr.WF] at h
  omega

theorem chkBeg (o : Nat) : Statement (.chkBeg o) := by
  intro h w e
  cases e
  simp only [Instr.WF] at h
  omega

theorem chkAbt (c : Nat) : Statement (.chkAbt c) := by
  intro h w e
  cases e
  simp only [Instr.WF] at h
  omega

theorem flr (a : Nat) (b : Nat) : Statement (.flr a b) := by
  intro h w e
  cases e
  simp only [Instr.WF] at h
  omega

theorem ivr (a : Nat) (b : Nat) : Statement (.ivr a b) := by
  intro h w e
  cases e
  simp only [Instr.WF] at h
  omega

theorem drop (a : Nat) (b : Nat) : Statement (.drop a b) := by
  intro h w e
  cases e
  simp only [Instr.WF] at h
  omega

theorem scrGrow (d : Nat) (a : Nat) : Statement (.scrGrow d a) := by
  intro h w e
  cases e
  simp only [Instr.WF] at h
  omega

theorem scrShrk (d : Nat) (a : Nat) : Statement (.scrShrk d a) := by
  intro h w e
  cases e
  simp only [Instr.WF] at h
  omega

theorem scrWait (a : Nat) (b : Nat) : Statement (.scrWait a b) := by
  intro h w e
  cases e
  simp only [Instr.WF] at h
  omega

theorem plp (d : Nat) (a : Nat) : Statement (.plp d a) := by
  intro h w e
  cases e
  simp only [Instr.WF] at h
  omega

theorem shfl (d : Nat) (a : Nat) (b : Nat) : Statement (.shfl d a b) := by
  intro h w e
  cases e
  simp only [Instr.WF] at h
  omega

theorem lscanAddI32 (d : Nat) (a : Nat) (p : Nat) : Statement (.lscanAddI32 d a p) := by
  intro h w e
  cases e
  simp only [Instr.WF] at h
  omega

theorem lscanAddF32 (d : Nat) (a : Nat) (p : Nat) : Statement (.lscanAddF32 d a p) := by
  intro h w e
  cases e
  simp only [Instr.WF] at h
  omega

theorem lscanMaxI32 (d : Nat) (a : Nat) (p : Nat) : Statement (.lscanMaxI32 d a p) := by
  intro h w e
  cases e
  simp only [Instr.WF] at h
  omega

theorem lscanMinI32 (d : Nat) (a : Nat) (p : Nat) : Statement (.lscanMinI32 d a p) := by
  intro h w e
  cases e
  simp only [Instr.WF] at h
  omega

theorem lscanMaxF32 (d : Nat) (a : Nat) (p : Nat) : Statement (.lscanMaxF32 d a p) := by
  intro h w e
  cases e
  simp only [Instr.WF] at h
  omega

theorem lscanMinF32 (d : Nat) (a : Nat) (p : Nat) : Statement (.lscanMinF32 d a p) := by
  intro h w e
  cases e
  simp only [Instr.WF] at h
  omega

theorem lredAddI32 (d : Nat) (a : Nat) (p : Nat) : Statement (.lredAddI32 d a p) := by
  intro h w e
  cases e
  simp only [Instr.WF] at h
  omega

theorem lredAddF32 (d : Nat) (a : Nat) (p : Nat) : Statement (.lredAddF32 d a p) := by
  intro h w e
  cases e
  simp only [Instr.WF] at h
  omega

theorem lredMaxI32 (d : Nat) (a : Nat) (p : Nat) : Statement (.lredMaxI32 d a p) := by
  intro h w e
  cases e
  simp only [Instr.WF] at h
  omega

theorem lredMinI32 (d : Nat) (a : Nat) (p : Nat) : Statement (.lredMinI32 d a p) := by
  intro h w e
  cases e
  simp only [Instr.WF] at h
  omega

theorem lredMaxF32 (d : Nat) (a : Nat) (p : Nat) : Statement (.lredMaxF32 d a p) := by
  intro h w e
  cases e
  simp only [Instr.WF] at h
  omega

theorem lredMinF32 (d : Nat) (a : Nat) (p : Nat) : Statement (.lredMinF32 d a p) := by
  intro h w e
  cases e
  simp only [Instr.WF] at h
  omega

theorem bcst (d : Nat) (a : Nat) (sb : Nat) : Statement (.bcst d a sb) := by
  intro h w e
  cases e
  simp only [Instr.WF] at h
  omega

theorem bcstImm (d : Nat) (a : Nat) (n : Nat) : Statement (.bcstImm d a n) := by
  intro h w e
  cases e
  simp only [Instr.WF] at h
  omega

theorem lxbLo (f : Nat) (d : Nat) (a : Nat) (b : Nat) : Statement (.lxbLo f d a b) := by
  intro h w e
  cases e
  simp only [Instr.WF] at h
  omega

theorem lxbHi (f : Nat) (d : Nat) (a : Nat) (b : Nat) : Statement (.lxbHi f d a b) := by
  intro h w e
  cases e
  simp only [Instr.WF] at h
  omega

theorem voteAny (p : Nat) (a : Nat) : Statement (.voteAny p a) := by
  intro h w e
  cases e
  simp only [Instr.WF] at h
  omega

theorem voteAll (p : Nat) (a : Nat) : Statement (.voteAll p a) := by
  intro h w e
  cases e
  simp only [Instr.WF] at h
  omega

theorem voteUni (p : Nat) (a : Nat) : Statement (.voteUni p a) := by
  intro h w e
  cases e
  simp only [Instr.WF] at h
  omega

theorem barReg (b : Nat) : Statement (.barReg b) := by
  intro h w e
  cases e
  simp only [Instr.WF] at h
  omega

theorem barArv (b : Nat) : Statement (.barArv b) := by
  intro h w e
  cases e
  simp only [Instr.WF] at h
  omega

theorem barWt (b : Nat) : Statement (.barWt b) := by
  intro h w e
  cases e
  simp only [Instr.WF] at h
  omega

theorem barDrp (b : Nat) : Statement (.barDrp b) := by
  intro h w e
  cases e
  simp only [Instr.WF] at h
  omega

theorem trap (n : Nat) : Statement (.trap n) := by
  intro h w e
  cases e
  simp only [Instr.WF] at h
  omega

theorem sleep (a : Nat) : Statement (.sleep a) := by
  intro h w e
  cases e
  simp only [Instr.WF] at h
  omega

theorem fltq (d : Nat) : Statement (.fltq d) := by
  intro h w e
  cases e
  simp only [Instr.WF] at h
  omega

theorem mma (f : Nat) (d : Nat) (a : Nat) (b : Nat) (x : Nat) (y : Nat) : Statement (.mma f d a b x y) := by
  intro h w e
  cases e
  simp only [Instr.WF] at h
  omega

theorem mmas (d : Nat) (a : Nat) (b : Nat) (x : Nat) (y : Nat) (u : Nat) : Statement (.mmas d a b x y u) := by
  intro h w e
  cases e
  simp only [Instr.WF] at h
  omega

theorem tld (t : Nat) (base : Nat) (v : Nat) (c : Nat) : Statement (.tld t base v c) := by
  intro h w e
  cases e
  simp only [Instr.WF] at h
  omega

theorem tst (t : Nat) (base : Nat) (v : Nat) (c : Nat) : Statement (.tst t base v c) := by
  intro h w e
  cases e
  simp only [Instr.WF] at h
  omega

theorem acld (a : Nat) (base : Nat) (v : Nat) (c : Nat) : Statement (.acld a base v c) := by
  intro h w e
  cases e
  simp only [Instr.WF] at h
  omega

theorem acst (a : Nat) (base : Nat) (v : Nat) (c : Nat) : Statement (.acst a base v c) := by
  intro h w e
  cases e
  simp only [Instr.WF] at h
  omega

theorem tmvBf16 (t : Nat) (a : Nat) : Statement (.tmvBf16 t a) := by
  intro h w e
  cases e
  simp only [Instr.WF] at h
  omega

theorem tmvF16 (t : Nat) (a : Nat) : Statement (.tmvF16 t a) := by
  intro h w e
  cases e
  simp only [Instr.WF] at h
  omega

theorem tmvE4m3 (t : Nat) (a : Nat) : Statement (.tmvE4m3 t a) := by
  intro h w e
  cases e
  simp only [Instr.WF] at h
  omega

theorem tmvE5m2 (t : Nat) (a : Nat) : Statement (.tmvE5m2 t a) := by
  intro h w e
  cases e
  simp only [Instr.WF] at h
  omega

theorem tmvE2m1 (t : Nat) (a : Nat) (b : Nat) : Statement (.tmvE2m1 t a b) := by
  intro h w e
  cases e
  simp only [Instr.WF] at h
  omega

theorem tmvRaw (t : Nat) (a : Nat) : Statement (.tmvRaw t a) := by
  intro h w e
  cases e
  simp only [Instr.WF] at h
  omega

theorem tmvToVec (d : Nat) (t : Nat) : Statement (.tmvToVec d t) := by
  intro h w e
  cases e
  simp only [Instr.WF] at h
  omega

theorem acmvToVec (d : Nat) (a : Nat) : Statement (.acmvToVec d a) := by
  intro h w e
  cases e
  simp only [Instr.WF] at h
  omega

theorem acmvFromVec (c : Nat) (a : Nat) : Statement (.acmvFromVec c a) := by
  intro h w e
  cases e
  simp only [Instr.WF] at h
  omega

theorem tzero (t : Nat) : Statement (.tzero t) := by
  intro h w e
  cases e
  simp only [Instr.WF] at h
  omega

theorem acz (a : Nat) : Statement (.acz a) := by
  intro h w e
  cases e
  simp only [Instr.WF] at h
  omega

theorem exph (a : Nat) (sb : Nat) : Statement (.exph a sb) := by
  intro h w e
  cases e
  simp only [Instr.WF] at h
  omega

theorem adamw (d : Nat) (a : Nat) (sb : Nat) : Statement (.adamw d a sb) := by
  intro h w e
  cases e
  simp only [Instr.WF] at h
  omega

theorem glzScl (run : Nat) (n : Nat) : Statement (.glzScl run n) := by
  intro h w e
  cases e
  simp only [Instr.WF] at h
  omega

theorem glzOff (run : Nat) (n : Nat) : Statement (.glzOff run n) := by
  intro h w e
  cases e
  simp only [Instr.WF] at h
  omega

theorem glzClp (run : Nat) (n : Nat) : Statement (.glzClp run n) := by
  intro h w e
  cases e
  simp only [Instr.WF] at h
  omega

theorem glzFil (run : Nat) (n : Nat) : Statement (.glzFil run n) := by
  intro h w e
  cases e
  simp only [Instr.WF] at h
  omega

theorem glzPrm (run : Nat) (n : Nat) : Statement (.glzPrm run n) := by
  intro h w e
  cases e
  simp only [Instr.WF] at h
  omega

theorem glzMap (run : Nat) (n : Nat) : Statement (.glzMap run n) := by
  intro h w e
  cases e
  simp only [Instr.WF] at h
  omega

theorem glzFire (run : Nat) (n : Nat) : Statement (.glzFire run n) := by
  intro h w e
  cases e
  simp only [Instr.WF] at h
  omega

theorem glzRdh (run : Nat) (n : Nat) : Statement (.glzRdh run n) := by
  intro h w e
  cases e
  simp only [Instr.WF] at h
  omega

theorem engCpy (run : Nat) (n : Nat) : Statement (.engCpy run n) := by
  intro h w e
  cases e
  simp only [Instr.WF] at h
  omega

theorem engGth (run : Nat) (p : Nat) (n : Nat) : Statement (.engGth run p n) := by
  intro h w e
  cases e
  simp only [Instr.WF] at h
  omega

theorem engGrd (run : Nat) (p : Nat) (n : Nat) : Statement (.engGrd run p n) := by
  intro h w e
  cases e
  simp only [Instr.WF] at h
  omega

theorem engSct (run : Nat) (p : Nat) (n : Nat) : Statement (.engSct run p n) := by
  intro h w e
  cases e
  simp only [Instr.WF] at h
  omega

theorem engCol (run : Nat) (f : Nat) (k : Nat) (n : Nat) : Statement (.engCol run f k n) := by
  intro h w e
  cases e
  simp only [Instr.WF] at h
  omega

theorem engWt (run : Nat) (d : Nat) : Statement (.engWt run d) := by
  intro h w e
  cases e
  simp only [Instr.WF] at h
  omega

theorem engTst (run : Nat) (d : Nat) : Statement (.engTst run d) := by
  intro h w e
  cases e
  simp only [Instr.WF] at h
  omega

theorem tapePush (run : Nat) (d : Nat) : Statement (.tapePush run d) := by
  intro h w e
  cases e
  simp only [Instr.WF] at h
  omega

theorem tapeTurn (run : Nat) (d : Nat) : Statement (.tapeTurn run d) := by
  intro h w e
  cases e
  simp only [Instr.WF] at h
  omega

theorem lnch (run : Nat) (q : Nat) : Statement (.lnch run q) := by
  intro h w e
  cases e
  simp only [Instr.WF] at h
  omega

theorem illegalInstruction (kind : Nat) (detail : Nat) (addr : Nat) : Statement (.illegalInstruction kind detail addr) := by
  intro _ w e
  cases e

theorem chunkLimitReached (d : Nat) : Statement (.chunkLimitReached d) := by
  intro _ w e
  cases e

theorem instructionComplete (d : Nat) : Statement (.instructionComplete d) := by
  intro _ w e
  cases e

theorem fillReturn (fill : Nat) : Statement (.fillReturn fill) := by
  intro _ w e
  cases e

theorem commitPrepare (d : Nat) : Statement (.commitPrepare d) := by
  intro _ w e
  cases e

theorem commitRequest (d : Nat) : Statement (.commitRequest d) := by
  intro _ w e
  cases e

theorem homeApplyCommit (home : Nat) : Statement (.homeApplyCommit home) := by
  intro _ w e
  cases e

theorem broadcastApply (core : Nat) : Statement (.broadcastApply core) := by
  intro _ w e
  cases e

theorem soloGrant (d : Nat) : Statement (.soloGrant d) := by
  intro _ w e
  cases e

theorem streamAck (home : Nat) (csn : Nat) : Statement (.streamAck home csn) := by
  intro _ w e
  cases e

theorem sleepExpiry (d : Nat) : Statement (.sleepExpiry d) := by
  intro _ w e
  cases e

theorem barrierOperation (d : Nat) : Statement (.barrierOperation d) := by
  intro _ w e
  cases e

theorem commandHandoff (d : Nat) : Statement (.commandHandoff d) := by
  intro _ w e
  cases e

theorem lnchAppend (d : Nat) : Statement (.lnchAppend d) := by
  intro _ w e
  cases e

theorem sectorLand (cmd : Nat) : Statement (.sectorLand cmd) := by
  intro _ w e
  cases e

theorem engineChunkCommit (cmd : Nat) : Statement (.engineChunkCommit cmd) := by
  intro _ w e
  cases e

theorem engineFail (cmd : Nat) (code : Nat) : Statement (.engineFail cmd code) := by
  intro _ w e
  cases e

theorem engWtReturn (d : Nat) : Statement (.engWtReturn d) := by
  intro _ w e
  cases e

theorem scrGrowComplete (d : Nat) : Statement (.scrGrowComplete d) := by
  intro _ w e
  cases e

theorem resumeWorkgroup (wg : Nat) : Statement (.resumeWorkgroup wg) := by
  intro _ w e
  cases e

theorem preempt (wg : Nat) : Statement (.preempt wg) := by
  intro _ w e
  cases e

theorem workgroupExit (wg : Nat) : Statement (.workgroupExit wg) := by
  intro _ w e
  cases e

theorem workgroupKill (wg : Nat) : Statement (.workgroupKill wg) := by
  intro _ w e
  cases e

theorem launchComplete (jsn : Nat) : Statement (.launchComplete jsn) := by
  intro _ w e
  cases e

theorem tapePop (asid : Nat) : Statement (.tapePop asid) := by
  intro _ w e
  cases e

theorem homeFillRequest (fill : Nat) : Statement (.homeFillRequest fill) := by
  intro _ w e
  cases e

theorem walkRestart (fill : Nat) : Statement (.walkRestart fill) := by
  intro _ w e
  cases e

theorem homePrepare (home : Nat) (d : Nat) : Statement (.homePrepare home d) := by
  intro _ w e
  cases e

theorem pageFetchComplete (demand : Nat) : Statement (.pageFetchComplete demand) := by
  intro _ w e
  cases e

theorem backingTimeout (demand : Nat) : Statement (.backingTimeout demand) := by
  intro _ w e
  cases e

theorem pageWaitTimeout (d : Nat) : Statement (.pageWaitTimeout d) := by
  intro _ w e
  cases e

theorem memWriteCommit (xfer : Nat) : Statement (.memWriteCommit xfer) := by
  intro _ w e
  cases e

theorem collectiveFinish (cmd : Nat) : Statement (.collectiveFinish cmd) := by
  intro _ w e
  cases e

theorem pwrcap (xfer : Nat) : Statement (.pwrcap xfer) := by
  intro _ w e
  cases e

theorem gate (xfer : Nat) : Statement (.gate xfer) := by
  intro _ w e
  cases e

theorem key (xfer : Nat) : Statement (.key xfer) := by
  intro _ w e
  cases e

theorem hdrres (xfer : Nat) : Statement (.hdrres xfer) := by
  intro _ w e
  cases e

theorem update (xfer : Nat) : Statement (.update xfer) := by
  intro _ w e
  cases e

theorem bsrc (xfer : Nat) : Statement (.bsrc xfer) := by
  intro _ w e
  cases e

theorem mgmtRegWriteOther (xfer : Nat) : Statement (.mgmtRegWriteOther xfer) := by
  intro _ w e
  cases e

theorem flrWriteBackDone (d : Nat) : Statement (.flrWriteBackDone d) := by
  intro _ w e
  cases e

theorem backingNoSuchPage (demand : Nat) : Statement (.backingNoSuchPage demand) := by
  intro _ w e
  cases e

theorem gateTransitionEnd (cluster : Nat) : Statement (.gateTransitionEnd cluster) := by
  intro _ w e
  cases e

theorem ageCap (d : Nat) : Statement (.ageCap d) := by
  intro _ w e
  cases e

theorem frameMove (home : Nat) (table : Nat) (key : Nat) (la : Nat) : Statement (.frameMove home table key la) := by
  intro _ w e
  cases e

theorem residueMismatch (d : Nat) : Statement (.residueMismatch d) := by
  intro _ w e
  cases e

theorem eccError (unit : Nat) (loc : Nat) (corrected : Bool) : Statement (.eccError unit loc corrected) := by
  intro _ w e
  cases e

theorem coreRepair (core : Nat) : Statement (.coreRepair core) := by
  intro _ w e
  cases e

theorem bankRetire (stack : Nat) (bank : Nat) : Statement (.bankRetire stack bank) := by
  intro _ w e
  cases e

theorem portFailure (port : Nat) : Statement (.portFailure port) := by
  intro _ w e
  cases e

theorem portRelinked (port : Nat) (outage : Nat) : Statement (.portRelinked port outage) := by
  intro _ w e
  cases e

theorem powerAdjust (watts : Nat) : Statement (.powerAdjust watts) := by
  intro _ w e
  cases e

theorem bringStageDone (fail : Nat) : Statement (.bringStageDone fail) := by
  intro _ w e
  cases e

theorem unsupportedPacket (port : Nat) : Statement (.unsupportedPacket port) := by
  intro _ w e
  cases e

theorem openMsg (m : Msg) : Statement (.openMsg m) := by
  intro _ w e
  cases e

theorem closeMsg (m : Msg) : Statement (.closeMsg m) := by
  intro _ w e
  cases e

theorem dataMsg (m : Msg) : Statement (.dataMsg m) := by
  intro _ w e
  cases e

theorem ctxCreate (m : Msg) : Statement (.ctxCreate m) := by
  intro _ w e
  cases e

theorem ctxDestroy (m : Msg) : Statement (.ctxDestroy m) := by
  intro _ w e
  cases e

theorem launch (m : Msg) : Statement (.launch m) := by
  intro _ w e
  cases e

theorem cancel (m : Msg) : Statement (.cancel m) := by
  intro _ w e
  cases e

theorem tokenRead (m : Msg) : Statement (.tokenRead m) := by
  intro _ w e
  cases e

theorem tokenSet (m : Msg) : Statement (.tokenSet m) := by
  intro _ w e
  cases e

theorem tokenSignal (m : Msg) : Statement (.tokenSignal m) := by
  intro _ w e
  cases e

theorem memWrite (m : Msg) : Statement (.memWrite m) := by
  intro _ w e
  cases e

theorem memRead (m : Msg) : Statement (.memRead m) := by
  intro _ w e
  cases e

theorem plotSet (m : Msg) : Statement (.plotSet m) := by
  intro _ w e
  cases e

theorem pageMap (m : Msg) : Statement (.pageMap m) := by
  intro _ w e
  cases e

theorem pageMakeResident (m : Msg) : Statement (.pageMakeResident m) := by
  intro _ w e
  cases e

theorem pageEvict (m : Msg) : Statement (.pageEvict m) := by
  intro _ w e
  cases e

theorem pageUnmap (m : Msg) : Statement (.pageUnmap m) := by
  intro _ w e
  cases e

theorem tapeTurnCmd (m : Msg) : Statement (.tapeTurnCmd m) := by
  intro _ w e
  cases e

theorem groupCfg (m : Msg) : Statement (.groupCfg m) := by
  intro _ w e
  cases e

theorem journalRead (m : Msg) : Statement (.journalRead m) := by
  intro _ w e
  cases e

theorem statusMsg (m : Msg) : Statement (.statusMsg m) := by
  intro _ w e
  cases e

theorem miremReservedOp (m : Msg) : Statement (.miremReservedOp m) := by
  intro _ w e
  cases e

theorem collectiveStagedReport (call : GroupCall) (rank : Nat) : Statement (.collectiveStagedReport call rank) := by
  intro _ w e
  cases e

theorem collectiveTimeout (cmd : Nat) : Statement (.collectiveTimeout cmd) := by
  intro _ w e
  cases e

theorem plotMigrationMove (key : Nat) (plot : Nat) (target : Nat) : Statement (.plotMigrationMove key plot target) := by
  intro _ w e
  cases e

theorem collectiveReceipt (call : GroupCall) (rank : Nat) (flags : Nat) (count : Nat) (root : Nat) (values : List Word) : Statement (.collectiveReceipt call rank flags count root values) := by
  intro _ w e
  cases e

theorem nop : Statement .nop := by
  intro _ w e
  cases e
  omega

theorem join : Statement .join := by
  intro _ w e
  cases e
  omega

theorem ret : Statement .ret := by
  intro _ w e
  cases e
  omega

theorem exit : Statement .exit := by
  intro _ w e
  cases e
  omega

theorem yield : Statement .yield := by
  intro _ w e
  cases e
  omega

theorem chkEnd : Statement .chkEnd := by
  intro _ w e
  cases e
  omega

theorem fenceS : Statement .fenceS := by
  intro _ w e
  cases e
  omega

theorem fenceX : Statement .fenceX := by
  intro _ w e
  cases e
  omega

theorem tret : Statement .tret := by
  intro _ w e
  cases e
  omega

theorem orderTokenVisit : Statement .orderTokenVisit := by
  intro _ w e
  cases e

theorem placeWorkgroup : Statement .placeWorkgroup := by
  intro _ w e
  cases e

theorem timeSlice : Statement .timeSlice := by
  intro _ w e
  cases e

theorem bolhornUpdateDone : Statement .bolhornUpdateDone := by
  intro _ w e
  cases e

theorem moduleReset : Statement .moduleReset := by
  intro _ w e
  cases e

end Sys2Proof.Laws.Encoding
end

