-- ==== Sys2Proof/Tests/Slice0.lean ====
section
/-!
SUPPORT. Tests: ill-formed terms refused, words of every constructor decoded, results the spec gives, and states that meet the
hypotheses of each statement.
-/

namespace Sys2Proof.Tests

set_option Elab.async false

open Sys2Proof Sys2Proof.Machine

/-! ### Helpers -/

def e0 : Hints := Hints.empty
/-- An OPC hint naming v0. -/
def opc0 : Hints := { e0 with opc := some 0 }
/-- One drill with every register it can have, and a trap handler. -/
def drill : Drill := { Drill.placed oneRecord 0 0 1 1 0 0 with regs := { Regs.placed codeBase 0 with trapvec := 0x400100 } }
/-- The drill with other registers. -/
def withRegs (f : Regs → Regs) : Drill := { drill with regs := f drill.regs, chunk := Chunk.fresh (f drill.regs) 0 4096 none }
/-- A state whose one drill stands in slot 0. -/
def held (s : State) (h : Hints) (d : Drill) : State :=
  { s with drills := [(0, d)], cur := 0, unit := { hints := h, first := 0x400000, words := 1 } }
def base : State := State.reset.loaded []
def bench (h : Hints) (d : Drill) : State := held base h d

def roomB (s : State) (d : Drill) (n : Nat) : Bool :=
  decide (d.logHeld + s.logOthers s.cur + n ≤ Config.logBytes) && decide (d.chunk.lines.length ≤ Config.specLines) && !s.noVictim s.cur d
    && !s.glazeFull s.cur d && (d.chunk.expl.isSome || (!d.chunk.rsig.full && !d.chunk.wsig.full))

theorem room_of {s : State} {d : Drill} {n : Nat} (h : roomB s d n = true) : HasRoom s d n := by
  simp only [roomB, Bool.and_eq_true, Bool.or_eq_true, Bool.not_eq_true', decide_eq_true_eq] at h
  exact ⟨h.1.1.1.1, h.1.1.1.2, h.1.1.2, h.1.2, h.2⟩

/-- Every unit of a list passes its checks. -/
def passB (s : State) (h : Hints) (d : Drill) (l : List Instr) : Bool := l.all (fun i => unitTrap i h d (s.supOf d.asid) == none)

theorem executes_of {s : State} {h : Hints} {d : Drill} {l : List Instr} (p : passB s h d l = true) :
    ∀ i ∈ l, Executes (held s h d) d i := by
  intro i m
  exact ⟨rfl, eq_of_beq (List.all_eq_true.mp p i m)⟩

/-- Every unit of a list executes, with room for n bytes of log. -/
def Fit (s : State) (h : Hints) (d : Drill) (n : Nat) (l : List Instr) : Prop :=
  ∀ i ∈ l, Executes (held s h d) d i ∧ HasRoom (held s h d) d n

theorem fit_of {s : State} {h : Hints} {d : Drill} {n : Nat} {l : List Instr}
    (p : (passB s h d l && roomB (held s h d) d n) = true) : Fit s h d n l := by
  simp only [Bool.and_eq_true] at p
  exact fun i m => ⟨executes_of p.1 i m, room_of p.2⟩

theorem deliverable_of {d : Drill}
    (h : d.chunk.expl = none ∧ d.chunk.units = 0 ∧ d.older = none ∧ d.regs.trapvec ≠ 0 ∧ d.regs.h = false) : Deliverable d :=
  ⟨h.1, h.2.1, h.2.2.1, h.2.2.2.1, h.2.2.2.2⟩

theorem find_all {α : Type} {p : α → Bool} {k : Nat} {x : α} : ∀ {l : Map α}, l.all (fun c => p c.2) = true → Map.find l k = some x → p x = true
  | c :: t, h, f => by
    simp only [List.all_cons, Bool.and_eq_true] at h
    rw [Map.find] at f
    split at f
    · cases f; exact h.1
    · exact find_all h.2 f

/-- A cache with no line. -/
theorem cacheSorted_of {s : State} (h : (Map.sorted s.newer && s.homes.all (fun c => c.2.lines.isEmpty)) = true) : CacheSorted s := by
  simp only [Bool.and_eq_true] at h
  have e : ∀ n, (s.home n).lines = [] := by
    intro n
    unfold State.home Map.get
    cases f : Map.find s.homes n with
    | none => rfl
    | some x => exact List.isEmpty_iff.mp (find_all (p := fun x : Home => x.lines.isEmpty) h.2 f)
  refine ⟨h.1, fun n => ?_, fun n x m => ?_, fun n x m => ?_⟩
  · rw [e]; exact List.nodup_nil
  · rw [e] at m; cases m
  · rw [e] at m; cases m

def isOk : Machine.Ready → Bool := fun r => match r with | .ok => true | .stop _ => false

/-- A drill with another chunk. -/
def chunked (d : Drill) (f : Chunk → Chunk) : Drill := { d with chunk := f d.chunk }

/-! ### Ill-formed terms are refused -/

/-- Fields of formats V3, VS, VI and P beyond their widths, and codes without a meaning (R94, R102). -/
theorem test_wf_vector : ¬(Instr.add 2 0 0 0).WF ∧ ¬(Instr.add 0 128 0 0).WF ∧ ¬(Instr.add 0 0 128 0).WF ∧ ¬(Instr.add 0 0 0 128).WF ∧
    ¬(Instr.intArith64 16 0 0 0).WF ∧ ¬(Instr.intArithVs 0 0 0 64).WF ∧ ¬(Instr.logic64 14 0 0 0).WF ∧ ¬(Instr.lea 4 0 0 0).WF ∧
    ¬(Instr.cvti 8 0 0).WF ∧ ¬(Instr.addImm 0 0 2048).WF ∧ ¬(Instr.shiftImm 0 0 4 0).WF ∧ ¬(Instr.shiftImm 0 0 0 32).WF ∧
    ¬(Instr.cmp 4 0 0 0 0).WF ∧ ¬(Instr.cmp 0 8 0 0 0).WF ∧ ¬(Instr.cmp 0 0 16 0 0).WF ∧ ¬(Instr.sel 16 0 0 0).WF ∧
    ¬(Instr.fpF16 15 0 0 0).WF ∧ ¬(Instr.fcmp 3 0 0 0 0).WF ∧ ¬(Instr.lxbLo 6 0 0 0).WF := by
  simp [Instr.WF]

/-- Pairs, quads and runs at misaligned registers, runs past the last register (R20, R107). -/
theorem test_wf_runs : ¬(Instr.intArith64 0 1 0 0).WF ∧ ¬(Instr.lea 0 1 0 0).WF ∧ ¬(Instr.lea 0 0 1 0).WF ∧ ¬(Instr.movk 1 0).WF ∧
    ¬(Instr.cvti 4 1 0).WF ∧ ¬(Instr.cvti 6 0 1).WF ∧ ¬(Instr.cmp 2 0 0 1 0).WF ∧ ¬(Instr.upk2F16 1 0).WF ∧ ¬(Instr.ld 5 1 0 0 0).WF ∧
    ¬(Instr.ld 6 2 0 0 0).WF ∧ ¬(Instr.tmvBf16 0 4).WF ∧ ¬(Instr.tmvE4m3 0 8).WF ∧ ¬(Instr.tmvE2m1 0 16 0).WF ∧ ¬(Instr.tmvRaw 0 2).WF ∧
    ¬(Instr.acmvToVec 8 0).WF ∧ ¬(Instr.adamw 126 0 0).WF ∧ ¬(Instr.adamw 0 0 61).WF ∧ ¬(Instr.glzScl 61 0).WF ∧
    ¬(Instr.glzMap 59 0).WF ∧ ¬(Instr.engGrd 55 0 0).WF ∧ ¬(Instr.engWt 63 0).WF := by
  simp [Instr.WF]

/-- A field that an operation does not read and that is not zero (R95). -/
theorem test_wf_unread : ¬(Instr.intArith64 14 0 0 2).WF ∧ ¬(Instr.intArithVs 15 0 0 1).WF ∧ ¬(Instr.logic64 4 0 0 2).WF ∧
    ¬(Instr.logicVs 13 0 0 1).WF ∧ ¬(Instr.uniformAlu 16 0 0 1).WF ∧ ¬(Instr.fpF16 7 0 0 1).WF ∧ ¬(Instr.fpVs 14 0 0 1).WF := by
  simp [Instr.WF]

/-- Uniform, branch, special-register, memory, tile and command fields (R94, R101, R103 to R107). -/
theorem test_wf_other : ¬(Instr.uniformAlu 28 0 0 0).WF ∧ ¬(Instr.addImmU 64 0 0).WF ∧ ¬(Instr.addImmU 0 0 8192).WF ∧
    ¬(Instr.pand 16 0 0).WF ∧ ¬(Instr.bra 4 0 0 0).WF ∧ ¬(Instr.bra 0 2 0 0).WF ∧ ¬(Instr.jmp 262144).WF ∧ ¬(Instr.rdsr 0 0).WF ∧
    ¬(Instr.rdsr 0 19).WF ∧ ¬(Instr.wrsr 12 0).WF ∧ ¬(Instr.wrsr 17 0).WF ∧ ¬(Instr.cvt 7 0 0 0 0).WF ∧ ¬(Instr.cvt 0 0 0 2 1).WF ∧
    ¬(Instr.st 1 0 0 0 0).WF ∧ ¬(Instr.red 7 0 0 0 0).WF ∧ ¬(Instr.mma 7 0 0 0 0 0).WF ∧ ¬(Instr.mma 0 8 0 0 0 0).WF ∧
    ¬(Instr.tzero 16).WF ∧ ¬(Instr.acz 8).WF ∧ ¬(Instr.engGth 0 3 0).WF ∧ ¬(Instr.engSct 0 1 0).WF ∧ ¬(Instr.engCol 0 1 2 0).WF := by
  simp [Instr.WF, cvtElements]

/-! ### Words: fields from bit 31 down, as the format of R94 and the row of the opcode table give them -/

theorem test_words_1 : ([(0b0000001000_1_0100000_1000000_1100000, Instr.add 1 32 64 96),
    (0b0000001001_1_0100000_1000000_1100000, .sub 1 32 64 96),
    (0b0000001010_1_0100000_1000000_1100000, .mul 1 32 64 96),
    (0b0000001011_1_0100000_1000000_1100000, .mulh 1 32 64 96),
    (0b0000001100_1_0100000_1000000_1100000, .min 1 32 64 96),
    (0b0000001101_1_0100000_1000000_1100000, .max 1 32 64 96),
    (0b00000011100_1100000_0100000_1000000, .addc 96 32 64),
    (0b00000011101_1100000_0100000_1000000, .subb 96 32 64),
    (0b00000011110_1100000_0100000_0000000, .abs 96 32),
    (0b00000011111_1100000_0100000_0000000, .neg 96 32),
    (0b0000010_0101_0100000_1000000_1100000, .intArith64 5 32 64 96),
    (0b0000110_0110_0100000_1000000_0_110000, .intArithVs 6 32 64 48),
    (0b0000111_0111_0100000_1000000_0_110000, .intArith64Vs 7 32 64 48),
    (0b00000110000_1100000_0100000_1000000, .and 96 32 64),
    (0b00000110001_1100000_0100000_1000000, .or 96 32 64),
    (0b00000110010_1100000_0100000_1000000, .xor 96 32 64),
    (0b00000110011_1100000_0100000_1000000, .andn 96 32 64),
    (0b00000110100_1100000_0100000_0000000, .not 96 32),
    (0b00000110101_1100000_0100000_1000000, .shl 96 32 64),
    (0b00000110110_1100000_0100000_1000000, .shr 96 32 64),
    (0b00000110111_1100000_0100000_1000000, .sra 96 32 64),
    (0b00000111000_1100000_0100000_1000000, .rol 96 32 64),
    (0b00000111001_1100000_0100000_0000000, .popc 96 32),
    (0b00000111010_1100000_0100000_0000000, .clz 96 32),
    (0b00000111011_1100000_0100000_0000000, .ctz 96 32),
    (0b00000111100_1100000_0100000_0000000, .brev 96 32),
    (0b00000111101_1100000_0100000_0000000, .mov 96 32)] : List (Nat × Instr)).all (fun x => decodeTableWord 32 x.1 == some x.2) = true := by
  decide +kernel

theorem test_words_2 : ([(0b0000100_0011_0100000_1000000_1100000, Instr.logic64 3 32 64 96),
    (0b0001000_0101_0100000_1000000_0_110000, .logicVs 5 32 64 48),
    (0b0001001_0110_0100000_1000000_0_110000, .logic64Vs 6 32 64 48),
    (0b00001010000_1100000_0100000_1000000, .mad 96 32 64),
    (0b00001010001_1100000_0100000_1000000, .bfxN32 96 32 64),
    (0b00001010010_1100000_0100000_1000000, .bfxI32 96 32 64),
    (0b00001010011_1100000_0100000_1000000, .bfi 96 32 64),
    (0b000010101_01_0100000_1000000_1100000, .lea 1 32 64 96),
    (0b00001011_011_0100000_1000000_0000000, .cvti 3 32 64),
    (0b0001010_1100000_0100000_10110100101, .addImm 96 32 1445),
    (0b0001011_1100000_0100000_10110100101, .mulImm 96 32 1445),
    (0b0001100_1100000_0100000_10110100101, .andImm 96 32 1445),
    (0b0001101_1100000_0100000_10110100101, .orImm 96 32 1445),
    (0b0001110_1100000_0100000_10110100101, .xorImm 96 32 1445),
    (0b0001111_1100000_0100000_0_01_000_10101, .shiftImm 96 32 1 21),
    (0b0010000_1100000_0000000_10110100101, .ldi 96 1445),
    (0b0010001_1100000_0000000_10110100101, .movk 96 1445),
    (0b0010010_011_0101_0011_1100000_0100000, .cmp 3 5 3 96 32),
    (0b0010011_011_0101_0011_1100000_0_001100, .cmpVs 3 5 3 96 12),
    (0b0010100_0101_0100000_1000000_1100000, .sel 5 32 64 96),
    (0b0100000_0001101_011000_100100_110000, .uniformAlu 13 24 36 48),
    (0b0100001_011_0101_0011_0_110000_0_001100, .cmpU 3 5 3 48 12),
    (0b0100010_001100_011000_0010110100101, .addImmU 12 24 1445),
    (0b0100011_001100_011000_0010110100101, .mulImmU 12 24 1445),
    (0b0100100_001100_011000_0010110100101, .andImmU 12 24 1445),
    (0b0100101_001100_011000_0010110100101, .orImmU 12 24 1445),
    (0b0100110_001100_011000_0010110100101, .xorImmU 12 24 1445)] : List (Nat × Instr)).all (fun x => decodeTableWord 32 x.1 == some x.2) = true := by
  decide +kernel

theorem test_words_3 : ([(0b0100111_001100_011000_0_01_0000_110000, Instr.shiftImmU 12 24 1 48),
    (0b0101000_001100_000000_0010110100101, .ldiU 12 1445),
    (0b0101001_001100_000000_0010110100101, .movkU 12 1445),
    (0b01100000000000_0101_000_1001_000_0011, .pand 5 9 3),
    (0b01100000010000_0101_000_1001_000_0011, .por 5 9 3),
    (0b01100000100000_0101_000_1001_000_0011, .pxor 5 9 3),
    (0b01100000110000_0101_000_1001_0000000, .pnot 5 9),
    (0b01100001000000_0101_000_1001_0000000, .pmovPp 5 9),
    (0b01100010000000_001100_00_1001_000000, .pcnt 12 9),
    (0b01100010000001_001100_00_1001_000000, .pfirst 12 9),
    (0b01100010000010_001100_00_1001_000000, .pmovSp 12 9),
    (0b0110001000001100_0101_011000_000000, .pmovPs 5 24),
    (0b0110010_01_1_0011_101010010111110011, .bra 1 1 3 173555),
    (0b01100110001111_101010010111110011, .jmp 173555),
    (0b01101000001111_101010010111110011, .call 173555),
    (0b01101010001111_101010010111110011, .rcv 173555),
    (0b01101100000000000000000000000000, .nop),
    (0b01101100000001000000000000000000, .join),
    (0b01101100000010000000000000000000, .ret),
    (0b01101100000011000000000000000000, .exit),
    (0b01101100000100000000000000000000, .yield),
    (0b01101100000101000000_001100_000000, .jmpReg 12),
    (0b01101110000000_001100_010001_000000, .rdsr 12 17),
    (0b01101110000001_001110_011000_000000, .wrsr 14 24),
    (0b01110000000_1100000_0_010010_0000000, .rdsrV 96 18),
    (0b10000000000_1100000_0100000_1000000, .fadd 96 32 64),
    (0b10000000001_1100000_0100000_1000000, .fsub 96 32 64)] : List (Nat × Instr)).all (fun x => decodeTableWord 32 x.1 == some x.2) = true := by
  decide +kernel

theorem test_words_4 : ([(0b10000000010_1100000_0100000_1000000, Instr.fmul 96 32 64),
    (0b10000000011_1100000_0100000_1000000, .fma 96 32 64),
    (0b10000000100_1100000_0100000_1000000, .fmin 96 32 64),
    (0b10000000101_1100000_0100000_1000000, .fmax 96 32 64),
    (0b10000000110_1100000_0100000_1000000, .fdiv 96 32 64),
    (0b10000000111_1100000_0100000_0000000, .fsqrt 96 32),
    (0b10000001000_1100000_0100000_0000000, .frcp 96 32),
    (0b10000001001_1100000_0100000_0000000, .frsq 96 32),
    (0b10000001010_1100000_0100000_0000000, .frnd 96 32),
    (0b10000001011_1100000_0100000_0000000, .fabs 96 32),
    (0b10000001100_1100000_0100000_0000000, .fneg 96 32),
    (0b10000001101_1100000_0100000_1000000, .fcpsgn 96 32 64),
    (0b10000001110_1100000_0100000_0000000, .fcls 96 32),
    (0b1000001_0010_0100000_1000000_1100000, .fpF16 2 32 64 96),
    (0b1000010_0011_0100000_1000000_1100000, .fpBf16 3 32 64 96),
    (0b1000011_1101_0100000_1000000_0_110000, .fpVs 13 32 64 48),
    (0b10001000000_1100000_0100000_0000000, .fex2 96 32),
    (0b10001000001_1100000_0100000_0000000, .flg2 96 32),
    (0b10001000010_1100000_0100000_0000000, .fsin 96 32),
    (0b10001000011_1100000_0100000_0000000, .fcos 96 32),
    (0b10001000100_1100000_0100000_0000000, .ftanh 96 32),
    (0b1000101_1100000_0100000_10110100101, .faddImm 96 32 1445),
    (0b1000110_1100000_0100000_10110100101, .fmulImm 96 32 1445),
    (0b1000111_010_0101_0011_1100000_0100000, .fcmp 2 5 3 96 32),
    (0b1001000_0011_0100000_1000000_001_0010, .cvt 3 32 64 1 2),
    (0b10010010000_1100000_0100000_1000000, .pk2F16 96 32 64),
    (0b10010010001_1100000_0100000_1000000, .pk2Bf16 96 32 64)] : List (Nat × Instr)).all (fun x => decodeTableWord 32 x.1 == some x.2) = true := by
  decide +kernel

theorem test_words_5 : ([(0b10010010010_1100000_0100000_0000000, Instr.upk2F16 96 32),
    (0b10010010011_1100000_0100000_0000000, .upk2Bf16 96 32),
    (0b10010100000_1100000_0100000_1000000, .hadd2F16 96 32 64),
    (0b10010100001_1100000_0100000_1000000, .hmul2F16 96 32 64),
    (0b10010100010_1100000_0100000_1000000, .hfma2F16 96 32 64),
    (0b10010100011_1100000_0100000_1000000, .hmin2F16 96 32 64),
    (0b10010100100_1100000_0100000_1000000, .hmax2F16 96 32 64),
    (0b10010100101_1100000_0100000_1000000, .hadd2Bf16 96 32 64),
    (0b10010100110_1100000_0100000_1000000, .hmul2Bf16 96 32 64),
    (0b10010100111_1100000_0100000_1000000, .hfma2Bf16 96 32 64),
    (0b10010101000_1100000_0100000_1000000, .hmin2Bf16 96 32 64),
    (0b10010101001_1100000_0100000_1000000, .hmax2Bf16 96 32 64),
    (0b1001011000_1_0100000_1000000_1100000, .iadd2 1 32 64 96),
    (0b1001011001_1_0100000_1000000_1100000, .imax2 1 32 64 96),
    (0b1001011010_1_0100000_1000000_1100000, .imin2 1 32 64 96),
    (0b1011000_011_0100000_100100_1100000_01, .ld 3 32 36 96 1),
    (0b1011001_100_0100000_100100_1100000_01, .st 4 32 36 96 1),
    (0b1011010_011_0_011000_100100_000000000, .ldu 3 24 36),
    (0b1011011_011_0100000_100100_1100000_01, .atom 3 32 36 96 1),
    (0b1011011111_1100000_011000_1000000_01, .atomCas 96 24 64 1),
    (0b1011100_011_0100000_100100_1100000_01, .atom64 3 32 36 96 1),
    (0b1011100111_1100000_011000_1000000_01, .atom64Cas 96 24 64 1),
    (0b1011101_011_0100000_100100_1100000_01, .red 3 32 36 96 1),
    (0b10111100000000000_001100_0100000_01, .pfL1 12 32 1),
    (0b10111100010000000_001100_0100000_01, .pfMc 12 32 1),
    (0b10111110001111_101010010111110011, .chkBeg 173555),
    (0b11000000000000000000000000000000, .chkEnd)] : List (Nat × Instr)).all (fun x => decodeTableWord 32 x.1 == some x.2) = true := by
  decide +kernel

theorem test_words_6 : ([(0b11000000000001000000000000_001100, Instr.chkAbt 12),
    (0b11000000000010000000000000000000, .fenceS),
    (0b11000000000011000000000000000000, .fenceX),
    (0b11000010000000000000_001100_011000, .flr 12 24),
    (0b11000010000001000000_001100_011000, .ivr 12 24),
    (0b11000010000010000000_001100_011000, .drop 12 24),
    (0b11000010000011_001100_011000_000000, .scrGrow 12 24),
    (0b11000010000100_001100_011000_000000, .scrShrk 12 24),
    (0b11000010000101000000_001100_011000, .scrWait 12 24),
    (0b11000010000110_001100_011000_000000, .plp 12 24),
    (0b11010000000_1100000_0100000_1000000, .shfl 96 32 64),
    (0b11010000001_1100000_0100000_000_0011, .lscanAddI32 96 32 3),
    (0b11010000010_1100000_0100000_000_0011, .lscanAddF32 96 32 3),
    (0b11010000011_1100000_0100000_000_0011, .lscanMaxI32 96 32 3),
    (0b11010000100_1100000_0100000_000_0011, .lscanMinI32 96 32 3),
    (0b11010000101_1100000_0100000_000_0011, .lscanMaxF32 96 32 3),
    (0b11010000110_1100000_0100000_000_0011, .lscanMinF32 96 32 3),
    (0b11010000111_1100000_0100000_000_0011, .lredAddI32 96 32 3),
    (0b11010001000_1100000_0100000_000_0011, .lredAddF32 96 32 3),
    (0b11010001001_1100000_0100000_000_0011, .lredMaxI32 96 32 3),
    (0b11010001010_1100000_0100000_000_0011, .lredMinI32 96 32 3),
    (0b11010001011_1100000_0100000_000_0011, .lredMaxF32 96 32 3),
    (0b11010001100_1100000_0100000_000_0011, .lredMinF32 96 32 3),
    (0b11010010000_1100000_0100000_0_100100, .bcst 96 32 36),
    (0b11010010001_1100000_0100000_0_100100, .bcstImm 96 32 36),
    (0b11010100_011_0100000_1000000_1100000, .lxbLo 3 32 64 96),
    (0b11010101_011_0100000_1000000_1100000, .lxbHi 3 32 64 96)] : List (Nat × Instr)).all (fun x => decodeTableWord 32 x.1 == some x.2) = true := by
  decide +kernel

theorem test_words_7 : ([(0b11010110000000_0101_000_1001_0000000, Instr.voteAny 5 9),
    (0b11010110010000_0101_000_1001_0000000, .voteAll 5 9),
    (0b11010110100000_0101_000_1001_0000000, .voteUni 5 9),
    (0b1101100000000000000000000000_0101, .barReg 5),
    (0b1101100000000100000000000000_0101, .barArv 5),
    (0b1101100000001000000000000000_0101, .barWt 5),
    (0b1101100000001100000000000000_0101, .barDrp 5),
    (0b11011010000000000000000000_001100, .trap 12),
    (0b11011010000001000000000000000000, .tret),
    (0b11011010000010000000_001100_000000, .sleep 12),
    (0b11011010000011_001100_000000000000, .fltq 12),
    (0b1110000_0101_011_0011_0101_1_1_00000000, .mma 5 3 3 5 1 1),
    (0b11100000110_011_1001_0011_1_1_10_011000, .mmas 3 9 3 1 1 24),
    (0b1110001000000_0101_011000_1000000_01, .tld 5 24 64 1),
    (0b1110010000000_0101_011000_1000000_01, .tst 5 24 64 1),
    (0b11100110000000_011_011000_1000000_01, .acld 3 24 64 1),
    (0b11100110010000_011_011000_1000000_01, .acst 3 24 64 1),
    (0b11101000000000_0101_0100000_0000000, .tmvBf16 5 32),
    (0b11101000001000_0101_0100000_0000000, .tmvF16 5 32),
    (0b11101000010000_0101_0100000_0000000, .tmvE4m3 5 32),
    (0b11101000011000_0101_0100000_0000000, .tmvE5m2 5 32),
    (0b11101000100000_0101_0100000_1000000, .tmvE2m1 5 32 64),
    (0b11101000101000_0101_0100000_0000000, .tmvRaw 5 32),
    (0b11101000110_1100000_000_1001_0000000, .tmvToVec 96 9),
    (0b11101010000_1100000_0000_011_0000000, .acmvToVec 96 3),
    (0b111010100010000_011_0100000_0000000, .acmvFromVec 3 32),
    (0b1110110000000000_0101_000000000000, .tzero 5)] : List (Nat × Instr)).all (fun x => decodeTableWord 32 x.1 == some x.2) = true := by
  decide +kernel

theorem test_words_8 : ([(0b11101100000001000_011_000000000000, Instr.acz 3),
    (0b11101100000010000_011_011000_000000, .exph 3 24),
    (0b11101110000_1100000_0100000_0_100100, .adamw 96 32 36),
    (0b111100000000_001100_0000000000000_1, .glzScl 12 1),
    (0b111100000001_001100_0000000000000_1, .glzOff 12 1),
    (0b111100000010_001100_0000000000000_1, .glzClp 12 1),
    (0b111100000011_001100_0000000000000_1, .glzFil 12 1),
    (0b111100000100_001100_0000000000000_1, .glzPrm 12 1),
    (0b111100000101_001100_0000000000000_1, .glzMap 12 1),
    (0b111100000110_001100_0000000000000_1, .glzFire 12 1),
    (0b111100000111_001100_0000000000000_1, .glzRdh 12 1),
    (0b111100100000_001100_0000000000000_1, .engCpy 12 1),
    (0b111100100001_001100_00000000000_01_1, .engGth 12 1 1),
    (0b111100100010_001100_00000000000_01_1, .engGrd 12 1 1),
    (0b111100100011_001100_00000000000_10_1, .engSct 12 2 1),
    (0b111100100100_001100_000000000_01_01_1, .engCol 12 1 1 1),
    (0b111100100101_001100_011000_00000000, .engWt 12 24),
    (0b111100100110_001100_011000_00000000, .engTst 12 24),
    (0b111101000000_001100_011000_00000000, .tapePush 12 24),
    (0b111101000001_001100_011000_00000000, .tapeTurn 12 24),
    (0b111101000010_001100_011000_00000000, .lnch 12 24)] : List (Nat × Instr)).all (fun x => decodeTableWord 32 x.1 == some x.2) = true := by
  decide +kernel

/-- Reserved majors, a code without a meaning, a non-zero field that must be zero, and a hint word decode to nothing (R95). -/
theorem test_words_refused : [0b0000000_0000000000000000000000000, 0b1111110_0000000000000000000000000, 0b0000011_1110_0000001_0000010_0000011,
    0b0110000_101_0000_0001_0000010_0000011, 0b0110110_0000110_000000_000000_000000, 0b1111111_0000000000000000000000000].all
    (fun w => decodeTableWord 32 w == none) = true := by
  decide +kernel

/-! ### Hypotheses met: units that change registers -/

theorem witness_IntegerArithmeticOnLanes : Fit base e0 drill 520 [.add 0 1 2 3, .add 1 127 127 127, .sub 1 0 0 0, .mul 0 1 2 3,
    .mulh 1 1 2 3, .min 0 1 2 3, .max 1 1 2 3, .abs 1 2, .neg 1 2, .intArith64 0 2 4 6, .intArith64 15 126 126 0, .intArithVs 0 1 2 63,
    .intArithVs 15 1 2 0, .intArith64Vs 11 2 4 3, .addc 1 2 3, .subb 1 2 3, .intArith64 12 2 4 6, .intArith64 13 2 4 6, .intArithVs 12 1 2 3,
    .intArithVs 13 1 2 3, .intArith64Vs 12 2 4 3, .intArith64Vs 13 2 4 3] := fit_of (by decide +kernel)

theorem witness_BitFunctionsImmediatesAndTableC : Fit base e0 drill 520 [.and 1 2 3, .or 1 2 3, .xor 1 2 3, .andn 1 2 3, .shl 1 2 3, .shr 1 2 3,
      .sra 1 2 3, .rol 1 2 3, .not 1 2, .popc 1 2, .clz 1 2, .ctz 1 2, .brev 1 2, .mov 1 2, .logic64 0 2 4 6, .logic64 13 2 4 0,
      .logicVs 0 1 2 3, .logicVs 13 1 2 0, .logic64Vs 5 2 4 3, .mulImm 1 2 7, .andImm 1 2 7, .orImm 1 2 7, .xorImm 1 2 7, .ldi 1 7,
      .movk 2 7, .addImm 1 2 2047, .shiftImm 1 2 0 31, .shiftImm 1 2 3 0] ∧
    Fit base { e0 with limm := some 1 } drill 520 [.addImm 1 2 7, .ldi 1 7, .movk 2 7] ∧
    Fit base opc0 drill 520 [.mad 1 2 3, .bfi 1 2 3] ∧
    Fit base e0 drill 520 [.bfxN32 1 2 3, .bfxI32 1 2 3, .lea 3 2 4 1, .cvti 0 1 2, .cvti 3 1 2, .cvti 4 2 1, .cvti 7 1 2] :=
  ⟨fit_of (by decide +kernel), fit_of (by decide +kernel), fit_of (by decide +kernel), fit_of (by decide +kernel)⟩

theorem witness_UniformInstructions : Fit base e0 drill 16 [.uniformAlu 0 1 2 3, .uniformAlu 11 1 2 3, .uniformAlu 12 1 2 3,
      .uniformAlu 25 1 2 0, .uniformAlu 26 1 2 0, .uniformAlu 27 1 2 0, .addImmU 1 2 8191, .mulImmU 1 2 3, .andImmU 1 2 3, .orImmU 1 2 3,
      .xorImmU 1 2 3, .ldiU 1 3, .movkU 1 3, .shiftImmU 1 2 0 63, .shiftImmU 1 2 3 0] ∧
    Fit base { e0 with limm := some 1 } drill 16 [.addImmU 1 2 3, .movkU 1 3] := ⟨fit_of (by decide +kernel), fit_of (by decide +kernel)⟩

theorem witness_UniformCompares : Fit base e0 drill 8 [.cmpU 0 0 1 2 3, .cmpU 3 7 15 2 3] := fit_of (by decide +kernel)

theorem witness_Selection : Fit base e0 drill 520 [.sel 0 1 2 3, .sel 15 1 2 3] ∧
    Fit base { e0 with guard := some (true, 2) } drill 520 [.sel 1 1 2 3] := ⟨fit_of (by decide +kernel), fit_of (by decide +kernel)⟩

theorem witness_PredicatesCombined : Fit base e0 drill 8 [.pand 1 2 3, .por 1 2 3, .pxor 1 2 3, .pnot 1 2, .pmovPp 1 2] ∧
    0x60000000 / 2 ^ 25 = 0x30 ∧ 0x61FFFFFF / 2 ^ 25 = 0x30 := ⟨fit_of (by decide +kernel), by decide⟩

theorem witness_ComparesAndPredicateMoves : Fit base e0 drill 520 [.cmp 0 0 1 2 3, .cmp 3 7 15 2 4, .cmpVs 0 0 1 2 3, .cmpVs 3 7 1 2 3,
    .pmovPs 1 2, .pmovSp 1 2, .pcnt 1 2, .pfirst 1 2] := fit_of (by decide +kernel)

theorem witness_PredicateFifteen : Fit base e0 drill 16 [.pand 15 1 2, .por 15 1 2, .pxor 15 1 2, .pnot 15 1, .pmovPp 15 1, .pmovPs 15 1,
    .cmp 2 7 15 2 4, .cmpVs 0 0 15 2 4, .cmpU 0 0 15 2 4, .fcmp 2 7 15 2 4, .voteAny 15 1, .voteAll 15 1, .voteUni 15 1] :=
  fit_of (by decide +kernel)

/-- One, of either sign, as `f32v` reads it. -/
def oneEx (neg : Bool) : Ex := { neg := neg, m := 2 ^ 23, e := -23, sticky := false }

theorem witness_FloatArithmetic : Fit base e0 drill 520 [.fadd 1 2 3, .fsub 1 2 3, .fmul 1 2 3, .fmin 1 2 3, .fmax 1 2 3, .fdiv 1 2 3,
      .fsqrt 1 2, .frcp 1 2, .frsq 1 2, .frnd 1 2, .fabs 1 2, .fneg 1 2, .fcpsgn 1 2 3, .fcls 1 2, .faddImm 1 2 3, .fmulImm 1 2 3] ∧
    Fit base opc0 drill 520 [.fma 1 2 3, .fpF16 3 1 2 3, .fpBf16 3 1 2 3, .fpVs 3 1 2 3] ∧
    Fit base { e0 with limm := some 9 } drill 520 [.faddImm 1 2 3, .fmulImm 1 2 3] ∧
    Fit base e0 drill 520 ([0, 1, 2, 4, 5, 6, 7, 8, 9, 10, 11, 12, 13, 14].flatMap (fun f =>
      [Instr.fpF16 f 1 2 3, .fpBf16 f 1 2 3, .fpVs f 1 2 3])) ∧
    ((oneEx true).sticky = false ∧ (oneEx true).m ≠ 0 ∧ (oneEx true).neg = true ∧ (oneEx true).toRat + (oneEx true).toRat ≠ 0 ∧
      (oneEx false).toRat + (oneEx true).toRat = 0 ∧ (oneEx true).toRat * (oneEx false).toRat + (oneEx false).toRat = 0 ∧ (Ex.zero true).m = 0 ∧
      (Ex.zero true).sticky = false) ∧
    (mulVal (.inf true) (.fin (Ex.zero false)) = none ∧ mulVal (.inf true) (.fin (oneEx true)) = some (.inf false) ∧
      (FVal.nan true).isNan = true ∧ (FVal.inf false).isNan = false) ∧
    RoundCtx.rn.mode ∈ [Mode.rn, .rz, .rp, .rm] ∧ unpack .f32 0x3F800000 = .fin (oneEx false) ∧ unpack .f32 0x7FA00000 = .nan true ∧
    unpack .f32 0xFF800000 = .inf true ∧ Fmt.f32.number 0x3F800000 = some 1 :=
  ⟨fit_of (by decide +kernel), fit_of (by decide +kernel), fit_of (by decide +kernel), fit_of (by decide +kernel),
    ⟨rfl, by decide, rfl, by norm_num [oneEx, Ex.toRat], by norm_num [oneEx, Ex.toRat], by norm_num [oneEx, Ex.toRat], rfl, rfl⟩,
    by decide +kernel, by decide, by decide +kernel, by decide +kernel, by decide +kernel, by decide +kernel⟩

theorem witness_SpecialFunctionsAndFloatCompares : Fit base e0 drill 520 [.fex2 1 2, .flg2 1 2, .fsin 1 2, .fcos 1 2, .ftanh 1 2,
    .fcmp 0 0 1 2 3, .fcmp 2 7 1 2 3] := fit_of (by decide +kernel)

theorem witness_ConversionsAndPackedPairs : Fit base e0 drill 528 [.cvt 0 1 2 0 8, .cvt 10 2 4 0 0, .cvt 0 1 2 0 11, .cvt 5 1 2 7 5, .pk2F16 1 2 3,
      .pk2Bf16 1 2 3, .upk2F16 2 3, .upk2Bf16 2 3] ∧
    Fit base { e0 with round := some { md := true, sat := true, mode := 5 } } drill 528 [.cvt 3 1 2 0 0, .pk2F16 1 2 3] ∧
    Fit base e0 drill 520 [.hadd2F16 1 2 3, .hmul2F16 1 2 3, .hmin2F16 1 2 3, .hmax2F16 1 2 3, .hadd2Bf16 1 2 3, .hmul2Bf16 1 2 3,
      .hmin2Bf16 1 2 3, .hmax2Bf16 1 2 3, .iadd2 0 1 2 3, .iadd2 1 1 2 3, .imax2 0 1 2 3, .imin2 1 1 2 3] ∧
    Fit base opc0 drill 520 [.hfma2F16 1 2 3, .hfma2Bf16 1 2 3] :=
  ⟨fit_of (by decide +kernel), fit_of (by decide +kernel), fit_of (by decide +kernel), fit_of (by decide +kernel)⟩

theorem witness_LaneInstructions : Fit base e0 drill 520 [.shfl 1 2 3, .bcst 1 2 3, .bcstImm 1 2 63, .lxbLo 5 1 2 3, .lxbHi 0 1 2 3,
    .voteAny 1 2, .voteAll 1 2, .voteUni 1 2, .lscanAddI32 1 2 3, .lscanMaxI32 1 2 3, .lscanMinI32 1 2 3, .lscanAddF32 1 2 3,
    .lscanMaxF32 1 2 3, .lscanMinF32 1 2 3, .lredAddI32 1 2 15, .lredMaxI32 1 2 3, .lredMinI32 1 2 3, .lredAddF32 1 2 3, .lredMaxF32 1 2 3,
    .lredMinF32 1 2 3] := fit_of (by decide +kernel)

theorem witness_TileMoves : Fit base e0 drill 4096 [.tmvBf16 0 8, .tmvF16 0 8, .tmvE4m3 0 16, .tmvE5m2 15 16, .tmvE2m1 0 32 1, .tmvRaw 0 4,
    .tzero 15, .acmvFromVec 7 16, .acz 7, .tmvToVec 4 0, .acmvToVec 16 0] := fit_of (by decide +kernel)


theorem witness_RoundingOfValues :
    (Fmt.e2m1.number 7 = some 6 ∧ Fmt.e2m1.number 6 = some 4 ∧ Fmt.e2m1.largest = 7 ∧ (oneEx false).sticky = false ∧ (oneEx true).m ≠ 0 ∧
      |(oneEx true).toRat| ≤ 6 ∧ 2 * 6 - 4 ≤ |({ oneEx true with e := -20 } : Ex).toRat|) ∧
    (carriesOver .e2m1 RoundCtx.rn false 6 8 9 ∧ ¬carriesOver .e2m1 RoundCtx.rn false 6 8 (13 / 2) ∧ (6 : ℚ) < 13 / 2 ∧
      (roundCtx .sr false 5 3 0).mode = .sr) ∧
    ((true, 8) ∈ [(true, 8), (false, 8)] ∧ Mode.rna ≠ .sr) ∧ Fmt.bf16.hasInf = true ∧ (oneEx true).neg = true :=
  ⟨⟨by rw [Fmt.number, show unpack .e2m1 7 = .fin { neg := false, m := 3, e := 1, sticky := false } from by decide]; norm_num [Ex.toRat],
    by rw [Fmt.number, show unpack .e2m1 6 = .fin { neg := false, m := 2, e := 1, sticky := false } from by decide]; norm_num [Ex.toRat],
    by decide, rfl, by decide,
    by norm_num [oneEx, Ex.toRat], by norm_num [oneEx, Ex.toRat]⟩, ⟨by norm_num [carriesOver], by norm_num [carriesOver, RoundCtx.rn], by norm_num, rfl⟩,
    ⟨by decide, by decide⟩, rfl, rfl⟩

/-- Beta and epsilon of an `adamw` in s4 to s7. -/
def adamDrill : Drill := withRegs (fun r => { r with u := [(5, 0x322BCC773A83126F)] })

theorem witness_MultiplyAccumulatesAndOptimizer : Fit base e0 drill 4104 [.mma 0 0 1 2 0 0, .mma 6 7 15 15 1 1, .mmas 0 1 2 0 0 3] ∧
    Fit base e0 adamDrill 776 [.adamw 8 12 4] ∧ adamDrill.regs.uniN 5 / 2 ^ 32 % 2 ^ 32 = 0x322BCC77 ∧
    Fit base e0 drill 0 [.adamw 125 0 60] ∧ Deliverable drill ∧ drill.regs.uniN 61 / 2 ^ 32 % 2 ^ 32 = 0 ∧
    (f32v 0x3F800000 = .fin (oneEx false) ∧ (∃ x, f32v 0x80000000 = .fin x ∧ x.m = 0 ∧ x.neg = true) ∧ (oneEx false).sticky = false ∧
      (oneEx false).toRat * (oneEx false).toRat + (oneEx false).toRat ≠ 0 ∧ (oneEx true).toRat * (oneEx false).toRat + (oneEx false).toRat = 0 ∧
      (f32v 0x7FC00000).isNan = true ∧ [oneEx false].length ≤ 64 ∧ (List.replicate 8 (oneEx false)).length = 8) ∧
    ([FVal.nan false, .inf false][1]? = some (FVal.inf false) ∧ [FVal.fin (oneEx false), .fin (oneEx false)][1]? = some (FVal.fin (oneEx false)) ∧
      (oneEx false).m ≠ 0 ∧ (oneEx false).neg = false ∧ f32v 0xFF800000 = .inf (!false)) :=
  ⟨fit_of (by decide +kernel), fit_of (by decide +kernel), by decide +kernel, fit_of (by decide +kernel), deliverable_of (by decide +kernel),
    by decide +kernel, ⟨by decide +kernel, ⟨_, rfl, by decide +kernel, by decide +kernel⟩, rfl, by norm_num [oneEx, Ex.toRat], by norm_num [oneEx, Ex.toRat],
    by decide +kernel, by decide, by decide⟩, ⟨rfl, rfl, by decide, rfl, by decide +kernel⟩⟩

/-! ### Hypotheses met: control flow, special registers, chunks, traps -/

/-- An entry of the divergence stack. -/
def entry (k : EntryKind) (m : DWord) : StackEntry := { kind := k, mask := m, pc := 0x400200 }
def stacked (l : List StackEntry) : Drill := withRegs (fun r => { r with stack := l, p := [(3, 15)] })

theorem witness_BranchesAndJoins :
    (Fit base e0 (stacked []) 48 [.bra 0 0 3 7, .bra 3 1 3 262143, .bra 2 0 3 131072, .bra 0 0 15 7, .rcv 0, .join] ∧
      (stacked []).regs.em &&& (stacked []).regs.pred 3 ≠ (stacked []).regs.em ∧ (stacked []).regs.em &&& (stacked []).regs.pred 3 ≠ 0 ∧
      (stacked []).regs.em &&& (stacked []).regs.pred 15 = (stacked []).regs.em ∧ (stacked []).regs.em &&& (stacked []).regs.pred 2 = 0) ∧
    (Fit base e0 (stacked (List.replicate 31 (entry .pending 1))) 48 [.rcv 262143, .bra 0 0 3 7, .join] ∧
      (stacked (List.replicate 31 (entry .pending 1))).regs.stack.length < 32) ∧
    Fit base e0 (stacked [entry .reconverge 1]) 48 [.join] ∧ Fit base e0 (stacked [entry .callReturn 1]) 48 [.join] :=
  ⟨⟨fit_of (by decide +kernel), by decide +kernel⟩, ⟨fit_of (by decide +kernel), by decide +kernel⟩, fit_of (by decide +kernel),
    fit_of (by decide +kernel)⟩

/-- A stack at its limit: all but the newest 32 spilled. -/
def fullStack : Drill := let d := stacked (List.replicate 32 (entry .pending 1)); { d with regs := { d.regs with spilled := 4064 } }

/-- A spill region mapped: its plot beside that of the code. -/
def spillBase : State :=
  let s := base.mapPage { a := addrCode 0 0 1 0x40400000, large := false } (some 2) 0
  { s with bulk := putAll s.bulk (addrCode 0 0 0 (middleNode + 64)) (toBytes 8 (leafNode + 1)) }
/-- A drill with entries in the core and n spilled. -/
def spilling (l : List StackEntry) (n : Nat) : Drill :=
  let d := withRegs (fun r => { r with stack := l, spilled := n, p := [(3, 1)] })
  { d with priv := 0x400000 }

theorem site_of {r : Spill} {p : State → Site → Prop} [∀ s x, Decidable (p s x)]
    (h : (match r with | .at s x => decide (p s x) | .stop _ => false) = true) : ∃ s x, r = .at s x ∧ p s x := by
  rcases r with ⟨s, x⟩ | _
  · exact ⟨s, x, rfl, of_decide_eq_true h⟩
  · cases h

theorem witness_CallsReturnsAndStackEdges :
    Fit base e0 (stacked []) 48 [.jmp 0, .jmpReg 1, .call 262143] ∧ Fit base e0 (stacked [entry .callReturn 1]) 48 [.ret] ∧
    (Fit base e0 (stacked []) 0 [.ret] ∧ Deliverable (stacked [])) ∧
    (Fit base e0 (stacked [entry .pending 1]) 0 [.ret] ∧ Deliverable (stacked [entry .pending 1])) ∧
    Fit base e0 (stacked [entry .reconverge 0, entry .pending 0, entry .pending 9]) 48 [.join] ∧
    Fit base e0 (stacked [entry .callReturn 0, entry .callReturn 5, entry .pending 9]) 48 [.ret] ∧
    (Fit base e0 (stacked [entry .pending 0, entry .pending 0]) 0 [.join] ∧ (stacked [entry .pending 0, entry .pending 0]).older = none) ∧
    Fit base e0 (stacked [entry .callReturn 0]) 0 [.ret] ∧
    ((∀ i ∈ [Instr.rcv 7, .call 7, .bra 0 0 3 7], Executes (held base e0 fullStack) fullStack i) ∧ Deliverable fullStack ∧
      4096 ≤ fullStack.regs.depth) ∧
    (let d := spilling (List.replicate 31 (entry .reconverge 1) ++ [entry .callReturn 6]) 2;
      let s := held spillBase e0 d;
      (∀ i ∈ [Instr.rcv 7, .call 7, .bra 0 0 3 7, .bra 2 0 3 7], Executes s d i) ∧
      (let meet := d.regs.em &&& d.regs.pred 3; meet ≠ d.regs.em ∧ meet ≠ 0) ∧ d.regs.stack.length = 32 ∧ d.regs.stack.getLast? = some (entry .callReturn 6) ∧ d.regs.depth < 4096 ∧
      ∃ s' x, s.spillSite s.cur d d.regs.spilled = .at s' x ∧
        HasRoom s { d with chunk := s'.withRefs (coreOf s.cur) (d.chunk.store x (descPrio x.desc) s.unit.first 1 (entry .callReturn 6).bytes) [x] } 48) ∧
    (let d := spilling [entry .callReturn 6] 3;
      let s := held spillBase e0 d;
      Fit spillBase e0 d 48 [.ret] ∧ d.regs.stack = [entry .callReturn 6] ∧ d.regs.spilled ≠ 0 ∧ CacheSorted s ∧
      ∃ s' x, s.spillSite s.cur d (d.regs.spilled - 1) = .at s' x ∧
        (isOk (s'.readsReady (s'.unitAttr s.cur d) (coreOf s.cur) d.asid [x]) = true ∧ s'.siteBad (coreOf s.cur) d x = false)) :=
  ⟨fit_of (by decide +kernel), fit_of (by decide +kernel), ⟨fit_of (by decide +kernel), deliverable_of (by decide +kernel)⟩,
    ⟨fit_of (by decide +kernel), deliverable_of (by decide +kernel)⟩, fit_of (by decide +kernel), fit_of (by decide +kernel),
    ⟨fit_of (by decide +kernel), rfl⟩, fit_of (by decide +kernel),
    ⟨executes_of (by decide +kernel), deliverable_of (by decide +kernel), by decide +kernel⟩,
    ⟨executes_of (by decide +kernel), by decide +kernel, by decide +kernel, by decide +kernel, by decide +kernel,
      (site_of (p := fun s' x => roomB _ { (spilling _ _) with chunk := State.withRefs s' _ (Chunk.store _ x (descPrio x.desc) _ 1 _) [x] } 48 = true)
        (by decide +kernel)).imp fun _ h => h.imp fun _ h => ⟨h.1, room_of h.2⟩⟩,
    ⟨fit_of (by decide +kernel), rfl, by decide +kernel, cacheSorted_of (by decide +kernel), site_of (by decide +kernel)⟩⟩

theorem witness_NopYieldSleepAndFaultCount : Fit base e0 drill 48 [.nop, .yield, .sleep 1, .fltq 1] ∧
    Map.find (held base e0 drill).ctxs drill.asid = some oneContext ∧ (∃ d : Drill, d.wait = .sleep 10 ∧ d.chunk.units < d.chunk.limit ∧
      Map.find ({ base with drills := [(0, d)], clock := 30 } : State).drills 0 = some d ∧ 10 ≤ 30 / 3) :=
  ⟨fit_of (by decide +kernel), by decide +kernel, { drill with wait := .sleep 10 }, rfl, by decide, rfl, by decide⟩

theorem witness_SpecialRegisters : Fit base e0 drill 256 [.rdsr 1 1, .rdsr 1 12, .rdsr 1 17, .rdsr 1 18, .rdsrV 1 0, .rdsrV 1 1, .rdsrV 1 17,
      .wrsr 13 1, .wrsr 14 1, .wrsr 15 1, .wrsr 16 1, .wrsr 18 1] ∧ drill.older = none ∧
    Map.find (held base e0 drill).wgs drill.wg = some oneWorkgroup ∧ Map.find (held base e0 drill).launches drill.launch = some oneLaunch ∧
    (drill.regs.uni 1).toNat % 8 < 6 ∧
    (let d := withRegs (fun r => { r with u := [(1, 6)] });
      Fit base e0 d 0 [.wrsr 14 1] ∧ Deliverable d ∧ 6 ≤ (d.regs.uni 1).toNat % 8) :=
  ⟨fit_of (by decide +kernel), rfl, by decide +kernel, by decide +kernel, by decide +kernel, fit_of (by decide +kernel),
    deliverable_of (by decide +kernel), by decide +kernel⟩

/-- The drill in an explicit chunk. -/
def explicit : Drill := { drill with chunk := { drill.chunk with expl := some { beg := 0x400000, fallback := 0x400200 }, units := 1 } }

theorem witness_ChunkInstructions : Fit base e0 drill 0 [.exit, .fenceS, .fenceX, .chkEnd, .chkBeg 7, .scrGrow 1 2, .scrShrk 1 2, .chkAbt 9] ∧
    drill.older = none ∧ drill.chunk.expl = none ∧ Deliverable drill ∧
    Fit base e0 explicit 0 [.chkEnd, .chkAbt 63] ∧ explicit.chunk.expl = some { beg := 0x400000, fallback := 0x400200 } ∧
    ((∀ i ∈ [Instr.fenceS, .engTst 4 9, .chkBeg 7], Executes (held base e0 explicit) explicit i) ∧ endsByNature .fenceS = true) ∧
    (let d := { explicit with chunk := { explicit.chunk with logged := (List.range 64).map LogItem.vec } };
      Executes (held base e0 d) d (.ldiU 1 7) ∧ LogItem.uni 1 ∉ d.chunk.logged ∧
      Config.logBytes < d.logHeld + (held base e0 d).logOthers (held base e0 d).cur + 8) :=
  ⟨fit_of (by decide +kernel), rfl, rfl, deliverable_of (by decide +kernel), fit_of (by decide +kernel), rfl,
    ⟨executes_of (by decide +kernel), rfl⟩, ⟨executes_of (l := [.ldiU 1 7]) (by decide +kernel) _ (by simp), by decide, by decide +kernel⟩⟩

theorem witness_TrapsAndReturns : Fit base e0 drill 48 [.trap 0, .trap 63, .tret] ∧ Deliverable drill ∧ drill.regs.uni 63 = 0 ∧
    (let d := withRegs (fun r => { r with u := [(63, 1)] }); Fit base e0 d 48 [.tret] ∧ d.regs.uni 63 ≠ 0) ∧
    Fit base e0 explicit 0 [.trap 5] ∧ explicit.chunk.expl ≠ none ∧
    (let d := { drill with chunk := { drill.chunk with units := 1 } }; Fit base e0 d 0 [.trap 5] ∧ d.chunk.expl = none ∧ d.older = none ∧
      d.chunk.units ≠ 0) ∧
    (let d := withRegs (fun r => { r with trapvec := 0 });
      let s := held base e0 d;
      Map.find s.drills s.cur = some d ∧ d.chunk.expl = none ∧ d.older = none ∧ d.chunk.units = 0 ∧ d.regs.trapvec = 0 ∧
      Map.find s.ctxs d.asid = some oneContext ∧ s.commits = [] ∧ s.records = [] ∧ Map.find s.launches d.launch = some oneLaunch ∧
      oneLaunch.failed = none ∧ s.inReplay oneLaunch = false ∧ Map.find s.wgs d.wg = some oneWorkgroup ∧ oneWorkgroup.launch = d.launch ∧
      s.writable d.asid oneContext.faultq.toNat 64 = false) :=
  ⟨fit_of (by decide +kernel), deliverable_of (by decide +kernel), by decide +kernel, ⟨fit_of (by decide +kernel), by decide +kernel⟩,
    fit_of (by decide +kernel), by decide, ⟨fit_of (by decide +kernel), rfl, rfl, by decide⟩,
    ⟨rfl, rfl, rfl, rfl, rfl, by decide +kernel, rfl, rfl, by decide +kernel, rfl, by decide +kernel, by decide +kernel, rfl,
      by decide +kernel⟩⟩

/-- A drill with 8 vector registers, no tiles, no accumulators, in a context that is no supervisor. -/
def small : Drill := { drill with nv := 8, nt := 0, na := 0 }
def userBase : State := { base with ctxs := [(1, { oneContext with sup := false })] }

theorem witness_ChecksTrap : Deliverable small ∧ Map.find (held userBase e0 small).drills (held userBase e0 small).cur = some small ∧
    encode (.add 0 8 7 7) ≠ none ∧ unitTrap (.tzero 0) e0 small true ≠ none ∧ small.nv ≤ 8 ∧ small.nt ≤ 0 ∧ small.na ≤ 0 ∧
    (held userBase e0 small).supOf small.asid = false ∧
    (held userBase { e0 with guard := some (false, 3) } small).unit.hints = { e0 with guard := some (false, 3) } :=
  ⟨deliverable_of (by decide +kernel), rfl, by decide, by decide +kernel, by decide, by decide, by decide, by decide +kernel, rfl⟩

/-! ### Hypotheses met: memory -/

/-- What `Reaches` asks, computed: the state and the sites, where it holds. -/
def reachB (s : State) (d : Drill) (kind : Access) (priv : Bool) (l : List Acc) : Option (State × List Site) :=
  match lookPlots s.cur d l s [] [] with
  | .stop _ => none
  | .all s' ds bad =>
    let sites := l.map (siteOf d ds)
    if (s.addrTrap d kind priv l == none) && (plotTrap kind (s.supOf d.asid) ds == none) && (s.lockTrap (coreOf s.cur) d.asid kind l == none)
        && (s'.holdUp s.cur d kind sites).isNone && !(s'.register s.cur (registers s' d kind sites)).soloBehind s.cur && isOk (s'.readsReady (s'.unitAttr s.cur d) (coreOf s.cur) d.asid (sites.map (Site.reader kind)))
        && bad.isEmpty && sites.all (fun x => !s'.siteBad (coreOf s.cur) d (x.reader kind) && x.kind != .uncached) then some (s', sites)
    else none

theorem ready_of {r : Machine.Ready} (h : isOk r = true) : r = .ok := by
  cases r with
  | ok => rfl
  | stop _ => cases h

theorem reaches_of {s : State} {d : Drill} {kind : Access} {priv : Bool} {l : List Acc} {x : State × List Site}
    (h : reachB s d kind priv l = some x) : Reaches s d kind priv l x.1 x.2 := by
  unfold reachB at h
  split at h
  · cases h
  · rename_i s' ds bad hp
    simp only [] at h
    split at h
    · rename_i c
      cases h
      simp only [Bool.and_eq_true, beq_iff_eq, List.all_eq_true, Bool.not_eq_true', bne_iff_ne, Option.isNone_iff_eq_none, List.isEmpty_iff] at c
      obtain ⟨⟨⟨⟨⟨⟨⟨c1, c2⟩, c3⟩, c4⟩, cu⟩, c5⟩, rfl⟩, c6⟩ := c
      exact ⟨c1, ⟨ds, hp, c2, rfl⟩, c3, c4, cu, fun _ => ready_of c5, fun _ y m => (c6 y m).1, fun y m => (c6 y m).2⟩
    · cases h

/-- Accesses that reach memory, and room for the unit whose chunk then is `f` of the sites. -/
theorem mem_of {s : State} {d : Drill} {kind : Access} {priv : Bool} {l : List Acc} {n : Nat} {f : State → List Site → Drill}
    (h : (match reachB s d kind priv l with | some x => roomB s (f x.1 x.2) n | none => false) = true) :
    ∃ s' sites, Reaches s d kind priv l s' sites ∧ HasRoom s (f s' sites) n := by
  split at h
  · exact ⟨_, _, reaches_of ‹_›, room_of h⟩
  · cases h

/-- A base in global memory in s5, one in the scratchpad in s6, in the private stack in s7; in s11 a row of it; lengths in s8 and s10; a row offset per lane in v1. -/
def data : Drill := { withRegs (fun r => { r with em := 5, u := [(5, 0x400100), (6, 0xFFFE000000000040), (8, 64), (9, 0x400400), (10, 512), (11, 0xFFFE000000000080)],
                                                  v := [(66, 1)] }) with priv := 0x400000 }
/-- Its workgroup has four lines of scratchpad, all present. -/
def memory : State := { base with wgs := [(0, { oneWorkgroup with size := 4, sectors := List.range 16, scratch := [(64, 7)] })]
                                  newer := [(addrCode 0 0 1 0x400104, 9)] }
def mem : State := held memory e0 data

theorem witness_LoadsGiveWhatTheDrillSees :
    (∀ i ∈ [Instr.ld 0 4 5 1 4, .ld 4 4 5 1 4, .ld 6 4 6 1 4, .ldu 0 1 5, .ldu 6 2 6], Executes mem data i) ∧
    (∃ s' sites, Reaches mem data .read true (laneAccs data.regs e0 5 1 4 4) s' sites ∧
      HasRoom mem { data with chunk := data.chunk.readBy e0 sites } 1024) ∧
    (∃ s' sites, Reaches mem data .read true (laneAccs data.regs e0 6 1 4 16) s' sites ∧
      HasRoom mem { data with chunk := data.chunk.readBy e0 sites } 1024) ∧
    (∃ s' sites, Reaches mem data .read false [{ lane := 0, ea := eaOf data.regs e0 5 0 0 0, n := 1 }] s' sites ∧
      HasRoom mem { data with chunk := data.chunk.readBy e0 sites } 16) ∧ CacheSorted mem ∧
    (ownLatest data true 64 = none ∧ ownLatest data false 64 = none ∧ (∃ w, Map.find mem.wgs data.wg = some w) ∧
      ownLatest (chunked data (fun c => { c with scratch := [(64, 5)], spec := [(64, 6)] })) true 64 = some 5 ∧
      ownLatest { data with older := some { chunk := { data.chunk with spec := [(64, 6)] }, phase := .ended } } false 64 = some 6) :=
  ⟨executes_of (by decide +kernel), mem_of (f := fun _ x => { data with chunk := data.chunk.readBy e0 x }) (by decide +kernel),
    mem_of (f := fun _ x => { data with chunk := data.chunk.readBy e0 x }) (by decide +kernel),
    mem_of (f := fun _ x => { data with chunk := data.chunk.readBy e0 x }) (by decide +kernel), cacheSorted_of (by decide +kernel),
    ⟨rfl, rfl, ⟨_, rfl⟩, by decide +kernel, by decide +kernel⟩⟩

/-- The chunk after a store of b bytes per lane. -/
def storeDrill (b : Nat) (s' : State) (x : List Site) : Drill :=
  { data with chunk := storeSites e0 0x400000 1 (fun y => toBytes b (data.regs.sized b 8 y.acc.lane)) (s'.withRefs 0 (data.chunk.enter .store x) x) x }

theorem witness_StoresAreSpeculative :
    (∀ i ∈ [Instr.st 0 8 5 1 4, .st 2 8 5 1 4, .st 6 8 6 1 4], Executes mem data i) ∧
    (∃ s' sites, Reaches mem data .store true (laneAccs data.regs e0 5 1 4 1) s' sites ∧ HasRoom mem (storeDrill 1 s' sites) 0) ∧
    (∃ s' sites, Reaches mem data .store true (laneAccs data.regs e0 6 1 4 16) s' sites ∧ HasRoom mem (storeDrill 16 s' sites) 0) :=
  ⟨executes_of (by decide +kernel), mem_of (f := storeDrill 1) (by decide +kernel),
    mem_of (f := storeDrill 16) (by decide +kernel)⟩

/-- The drill after an atomic's lanes. -/
def atomDrill (op x : Nat) (wide : Bool) (s' : State) (sites : List Site) : Drill :=
  let get := fun (n l : Nat) => if wide then data.regs.pair n l else data.regs.vecN n l
  (atomSites s' 0 (if op = 7 then opc0 else e0) 0x400000 op 8 wide (get 8) (get x) sites { data with chunk := s'.withRefs 0 (data.chunk.enter .atom sites) sites } []).1
/-- The drill after a reduction. -/
def redDrill (sites : List Site) : Drill := { data with chunk := data.chunk.enter .red sites }

theorem witness_AtomicsAndReductions :
    (∀ i ∈ [Instr.atom 0 8 5 1 4, .atom64 6 8 5 1 4, .red 0 8 5 1 4, .red 6 8 5 1 4], Executes mem data i) ∧
    (∀ i ∈ [Instr.atomCas 8 5 1 4, .atom64Cas 8 5 1 4], Executes (held memory opc0 data) data i) ∧
    (∃ s' sites, Reaches mem data .atom false (laneAccs data.regs e0 5 1 4 4) s' sites ∧ HasRoom mem (atomDrill 0 0 false s' sites) 512) ∧
    (∃ s' sites, Reaches mem data .atom false (laneAccs data.regs e0 5 1 4 8) s' sites ∧ HasRoom mem (atomDrill 6 0 true s' sites) 512) ∧
    (∃ s' sites, Reaches (held memory opc0 data) data .atom false (laneAccs data.regs opc0 5 1 4 8) s' sites ∧
      HasRoom (held memory opc0 data) (atomDrill 7 0 true s' sites) 512) ∧
    (∃ s' sites, Reaches mem data .red false (laneAccs data.regs e0 5 1 4 8) s' sites ∧ HasRoom mem (redDrill sites) 0) ∧ CacheSorted mem :=
  ⟨executes_of (by decide +kernel), executes_of (by decide +kernel), mem_of (f := atomDrill 0 0 false) (by decide +kernel),
    mem_of (f := atomDrill 6 0 true) (by decide +kernel), mem_of (f := atomDrill 7 0 true) (by decide +kernel),
    mem_of (f := fun _ => redDrill) (by decide +kernel), cacheSorted_of (by decide +kernel)⟩

/-- The same drill with one lane in its mask. -/
def row : Drill := { data with regs := { data.regs with em := 1 } }
/-- The chunk after rows are stored. -/
def rowDrill (bytes : Site → List Byte) (s' : State) (x : List Site) : Drill :=
  { row with chunk := storeSites e0 0x400000 1 bytes (s'.withRefs 0 (row.chunk.enter .store x) x) x }
def tileRow (x : Site) : List Byte := (List.range 32).map (fun j => row.regs.tileByte 2 (32 * x.acc.lane + j))
def accRow (x : Site) : List Byte := (List.range 32).flatMap (fun j => toBytes 4 (row.regs.accElem 1 (32 * x.acc.lane + j)).toNat)
/-- The scratchpad bytes of an `exph` at s6. -/
def bins : Site := { acc := { lane := 0, ea := data.regs.uniN 6, n := 128 }, kind := .scratch, desc := 0, key := 0
                     vas := (List.range 128).map (fun j => scrOff (data.regs.uniN 6) + j) }

theorem addNew_same {a : SpecLine} {xs : List SpecLine} (h : ∀ x ∈ xs, x = a) :
    ∀ l, l = [] ∨ l = [a] → addNew l xs = [] ∨ addNew l xs = [a] := by
  unfold addNew
  induction xs with
  | nil => exact fun _ h => h
  | cons x xs ih =>
    intro l hl
    have hx := h x (by simp)
    rw [List.foldl_cons]
    refine ih (fun y m => h y (by simp [m])) _ ?_
    rcases hl with rfl | rfl <;> simp [hx]

/-- Stores to one line of the scratchpad leave the chunk with that line alone. -/
theorem storeSites_oneLine {h : Hints} {pc : DWord} {kind : Nat} {bytes : Site → List Byte} {a : SpecLine} {l : List Site}
    (hl : ∀ x ∈ l, x.kind = .scratch ∧ ∀ v ∈ x.vas, x.lineOf v = a) :
    ∀ c : Chunk, c.lines = [] ∨ c.lines = [a] →
      (storeSites h pc kind bytes c l).lines = [] ∨ (storeSites h pc kind bytes c l).lines = [a] := by
  unfold storeSites
  induction l with
  | nil => exact fun _ h => h
  | cons x l ih =>
    intro c hc
    rw [List.foldl_cons]
    refine ih (fun y m => hl y (by simp [m])) _ ?_
    have hx := hl x (by simp)
    have := addNew_same (a := a) (xs := x.vas.map x.lineOf) (by simpa using hx.2) _ hc
    simpa [Chunk.store, hx.1] using this

theorem rowsRoom {w : Nat} {bytes : Site → List Byte}
    (p : (match reachB (held memory e0 row) row .store false (rowAccs row.regs e0 11 3 w (2 ^ w)) with
      | some x => x.2.all (fun y => y.kind == .scratch && y.vas.all (fun v => y.lineOf v == { kind := .scratch, line := 1 })) &&
          decide ((rowDrill bytes x.1 x.2).logHeld ≤ Config.logBytes) && !(rowDrill bytes x.1 x.2).chunk.wsig.full &&
          !(rowDrill bytes x.1 x.2).chunk.rsig.full && (rowDrill bytes x.1 x.2).chunk.refs == [] && (row.chunk.enter .store x.2).lines == []
      | none => false) = true) :
    ∃ s' sites, Reaches (held memory e0 row) row .store false (rowAccs row.regs e0 11 3 w (2 ^ w)) s' sites ∧
      HasRoom (held memory e0 row) (rowDrill bytes s' sites) 0 := by
  split at p
  case h_2 => cases p
  case h_1 x hx =>
    refine ⟨_, _, reaches_of hx, ?_⟩
    simp only [Bool.and_eq_true, List.all_eq_true, beq_iff_eq, decide_eq_true_eq, Bool.not_eq_true'] at p
    obtain ⟨⟨⟨⟨⟨ps, pl⟩, pw⟩, pr⟩, pg⟩, pe⟩ := p
    have ln := storeSites_oneLine (h := e0) (pc := 0x400000) (kind := 1) (bytes := bytes) (a := { kind := .scratch, line := 1 })
      ps (x.1.withRefs 0 (row.chunk.enter .store x.2) x.2) (Or.inl pe)
    have ln' : (rowDrill bytes x.1 x.2).chunk.lines = [] ∨ (rowDrill bytes x.1 x.2).chunk.lines = [{ kind := .scratch, line := 1 }] := ln
    have lo : (held memory e0 row).logOthers (held memory e0 row).cur = 0 := by decide
    refine ⟨?_, ?_, ?_, ?_, Or.inr ⟨pr, pw⟩⟩
    · rw [lo]; exact pl
    · rcases ln' with e | e <;> rw [e] <;> decide
    · have nv : ∀ d : Drill, d.wg = row.wg → (held memory e0 row).noVictim 0 d =
          (held memory e0 row).noVictim 0 { row with chunk := { row.chunk with lines := d.chunk.lines }, older := d.older } := by
        intro d h
        unfold State.noVictim Drill.linesIn
        rw [h]
        rfl
      have old : (rowDrill bytes x.1 x.2).older = none := rfl
      show (held memory e0 row).noVictim 0 _ = false
      rw [nv (rowDrill bytes x.1 x.2) rfl, old]
      rcases ln' with e | e <;> rw [e] <;> decide +kernel
    · unfold State.glazeFull
      rw [pg]
      rfl

theorem rowsReach :
    ∃ s' sites, Reaches (held memory e0 row) row .store false (rowAccs row.regs e0 11 3 5 32) s' sites ∧
      HasRoom (held memory e0 row) (rowDrill tileRow s' sites) 0 := rowsRoom (w := 5) (by decide +kernel)

set_option maxRecDepth 20000 in
theorem accRowsReach :
    ∃ s' sites, Reaches (held memory e0 row) row .store false (rowAccs row.regs e0 11 3 7 128) s' sites ∧
      HasRoom (held memory e0 row) (rowDrill accRow s' sites) 0 := rowsRoom (w := 7) (by decide +kernel)

theorem witness_RowsAndHistograms :
    (∀ i ∈ [Instr.tld 2 9 1 5, .acld 1 9 1 7, .tst 2 11 3 5, .acst 1 11 3 7, .exph 0 6], Executes mem data i) ∧ (∀ i ∈ [Instr.tst 2 11 3 5, .acst 1 11 3 7], Executes (held memory e0 row) row i) ∧
    (∃ s' sites, Reaches mem data .read false (rowAccs data.regs e0 9 1 5 32) s' sites ∧
      HasRoom mem { data with chunk := data.chunk.readBy e0 sites } 1280) ∧
    (∃ s' sites, Reaches mem data .read false (rowAccs data.regs e0 9 1 7 128) s' sites ∧
      HasRoom mem { data with chunk := data.chunk.readBy e0 sites } 4096) ∧
    (∃ s' sites, Reaches (held memory e0 row) row .store false (rowAccs row.regs e0 11 3 5 32) s' sites ∧ HasRoom (held memory e0 row) (rowDrill tileRow s' sites) 0) ∧
    (∃ s' sites, Reaches (held memory e0 row) row .store false (rowAccs row.regs e0 11 3 7 128) s' sites ∧ HasRoom (held memory e0 row) (rowDrill accRow s' sites) 0) ∧
    mem.exphTrap data (data.regs.uniN 6) = none ∧ (mem.holdUp 0 data .atom [bins]).isNone ∧ (mem.register 0 (registers mem data .atom [bins])).soloBehind 0 = false ∧ mem.siteBad 0 data bins = false ∧
    HasRoom mem { data with chunk := (data.chunk.enter .atom [bins]).store bins 0 0x400000 3 (List.replicate 128 0) } 8 ∧ CacheSorted mem :=
  ⟨executes_of (by decide +kernel), executes_of (by decide +kernel), mem_of (f := fun _ x => { data with chunk := data.chunk.readBy e0 x }) (by decide +kernel),
    mem_of (f := fun _ x => { data with chunk := data.chunk.readBy e0 x }) (by decide +kernel),
    rowsReach, accRowsReach,
    by decide +kernel, by decide +kernel, by decide +kernel, by decide +kernel, room_of (by decide +kernel), cacheSorted_of (by decide +kernel)⟩




theorem witness_PrefetchesWaitsAndProbes :
    (∀ i ∈ [Instr.pfL1 5 1 4, .pfMc 5 0 0, .scrWait 6 8, .scrWait 6 0, .plp 20 5, .plp 20 6], Executes mem data i) ∧ HasRoom mem data 48 ∧
    (let lu := { e0 with cache := some (true, 0) };
      (∀ i ∈ [Instr.pfL1 5 1 4], Executes (held memory lu data) data i) ∧ lastUseHint lu = true ∧
      HasRoom (held memory lu data) ((laneAccs data.regs lu 5 1 4 1).foldl (fun r a => prefetchLane 0 r.2 lu false r.1 a) (held memory lu data, data)).2 0) ∧
    written { data.regs with em := 0 } e0 = [] ∧
    (let one := withRegs (fun r => { r with em := 4, u := [(5, 0x400100)] })
     written one.regs e0 = [2] ∧ isGlobal (eaOf one.regs e0 5 0 0 2) = true ∧ mem.plotFor 0 1 (eaOf one.regs e0 5 0 0 2) = .desc codeDesc) ∧
    descValid codeDesc = true ∧ descR codeDesc = true ∧ descS codeDesc = false ∧ descTreat codeDesc < 2 ∧ descM codeDesc = false ∧
    (isScratch (data.regs.uniN 6) = true ∧ strayBits (data.regs.uniN 6) = false ∧
      scrOff (data.regs.uniN 6) + data.regs.uniN 8 ≤ mem.scratchSize data ∧
      ∀ q, 32 * q < scrOff (data.regs.uniN 6) + data.regs.uniN 8 → scrOff (data.regs.uniN 6) < 32 * q + 32 → mem.present data q = true) ∧
    (data.regs.uni 0).toNat = 0 ∧ mem.plotFor 0 1 (data.regs.uniN 5) = .desc codeDesc ∧ isGlobal (data.regs.uniN 6) = false := by
  refine ⟨executes_of (by decide +kernel), room_of (by decide +kernel), ⟨executes_of (by decide +kernel), rfl, room_of (by decide +kernel)⟩,
    by decide +kernel, by decide +kernel, by decide, by decide, by decide, by decide, by decide,
    ⟨by decide +kernel, by decide +kernel, by decide +kernel, fun q h _ => ?_⟩, by decide +kernel, by decide +kernel, by decide +kernel⟩
  have : scrOff (data.regs.uniN 6) + data.regs.uniN 8 = 128 := by decide +kernel
  have hq : q < 4 := by omega
  have all : ∀ q, q < 4 → mem.present data q = true := by decide +kernel
  exact all q hq

/-- What comes of a range that passes its checks. -/
theorem range_of {x : Ranged} {p : List (Nat × Nat × DWord) → Prop} [∀ l, Decidable (p l)]
    (h : (match x with | .ok _ l none => decide (p l) | _ => false) = true) : ∃ s' parts, x = .ok s' parts none ∧ p parts := by
  rcases x with ⟨s', parts, bad⟩ | _
  · cases bad with
    | none => exact ⟨_, _, rfl, of_decide_eq_true h⟩
    | some _ => cases h
  · cases h

/-- A clean line of a grain of 512 bytes, and one of another grain. -/
def cleanL1 : List L1Line :=
  [{ key := 1, va := 0x400180, gbits := 9, streaming := false, sectors := 15, prio := 0, glazed := false, data := [] },
   { key := 1, va := 0x400400, gbits := 7, streaming := false, sectors := 1, prio := 0, glazed := false, data := [] }]

theorem witness_RangeInstructions :
    (∀ i ∈ [Instr.flr 5 8, .ivr 5 8, .ivr 5 0, .drop 9 10], Executes mem data i) ∧ HasRoom mem data 0 ∧ data.chunk.expl = none ∧
    (∃ s' parts, mem.checkRange mem.cur data (data.regs.uniN 5) (data.regs.uniN 8) false = .ok s' parts none ∧ parts.length = 1) ∧
    (∃ s' parts, mem.checkRange mem.cur data (data.regs.uniN 5) (data.regs.uniN 0) false = .ok s' parts none ∧ parts.length = 0) ∧
    (∀ x ∈ cleanL1, x.gbits = 5 ∨ x.gbits = 7 ∨ x.gbits = 9) ∧
    (∃ s' parts, mem.checkRange mem.cur data (data.regs.uniN 9) (data.regs.uniN 10) true = .ok s' parts none ∧ parts.length = 1) ∧
    data.regs.uniN 9 % 512 = 0 ∧ data.regs.uniN 10 % 512 = 0 ∧ data.chunk = Chunk.fresh data.regs 0 4096 none ∧ data.older = none ∧
    mem.commits = [] ∧ mem.solos = [] ∧ mem.records = [] :=
  ⟨executes_of (by decide +kernel), room_of (by decide +kernel), rfl, range_of (by decide +kernel), range_of (by decide +kernel),
    by decide, range_of (by decide +kernel), by decide +kernel, by decide +kernel, rfl, rfl, rfl, rfl, rfl⟩

/-! ### Hypotheses met: uncached memory -/

/-- The plot of the code uncached, a drill with two lanes, a base in it, an offset in lane 2 of v1. -/
def uncached : State := { base with bulk := putAll base.bulk (addrCode 0 0 0 (leafNode + 8 * 64)) (toBytes 8 0x4F) }
def lone : Drill := withRegs (fun r => { r with em := 5, u := [(5, 0x400100)], v := [(66, 1)] })
def unc (h : Hints) : State := held uncached h lone

def ownB (s : State) (d : Drill) (kind : Access) (priv : Bool) (l : List Acc) : Option (State × List Site) :=
  match lookPlots s.cur d l s [] [] with
  | .stop _ => none
  | .all s' ds bad =>
    let sites := l.map (siteOf d ds)
    if (s.addrTrap d kind priv l == none) && (plotTrap kind (s.supOf d.asid) ds == none) && (s.lockTrap (coreOf s.cur) d.asid kind l == none)
        && (s'.holdUp s.cur d kind sites).isNone && !(s'.register s.cur (registers s' d kind sites)).soloBehind s.cur && bad.isEmpty && sites.all (fun x => x.kind == .uncached) && !sites.isEmpty
        && decide (s.commits = [] ∧ s.records = [] ∧ s.bad = []) then some (s', sites)
    else none

theorem own_of {s : State} {d : Drill} {kind : Access} {priv : Bool} {l : List Acc} {x : State × List Site}
    (b : d.chunk = Chunk.fresh d.regs 0 4096 none) (h : ownB s d kind priv l = some x) : ReachesOwn s d kind priv l x.1 x.2 := by
  unfold ownB at h
  split at h
  · cases h
  · rename_i s' ds bad hp
    simp only [] at h
    split at h
    · rename_i c
      cases h
      simp only [Bool.and_eq_true, beq_iff_eq, List.all_eq_true, Bool.not_eq_true', List.isEmpty_eq_false_iff, Option.isNone_iff_eq_none,
        List.isEmpty_iff, decide_eq_true_eq] at c
      obtain ⟨⟨⟨⟨⟨⟨⟨⟨c1, c2⟩, c3⟩, c4⟩, cu⟩, rfl⟩, c6⟩, c7⟩, c8⟩ := c
      exact ⟨c1, ⟨ds, hp, c2, rfl⟩, c3, c4, cu, c6, c7, ⟨0, 4096, b⟩, c8⟩
    · cases h

/-- Accesses of two lanes that are a chunk by themselves, with what else the statement asks. -/
def TwoSites (s : State) (d : Drill) (kind : Access) (priv : Bool) (l : List Acc) (n : Nat) (f : List Site → Chunk) : Prop :=
  ∃ s' sites, sites.length = 2 ∧ ReachesOwn s d kind priv l s' sites ∧ (∀ x ∈ sites, AtHome s' x) ∧ oneDesc sites ∧
    s'.readsReady (s'.unitAttr s.cur d) (coreOf s.cur) d.asid sites = .ok ∧ (∀ x ∈ sites, s'.siteBad (coreOf s.cur) d x = false) ∧
    HasRoom s { d with chunk := f sites } n

def atHomeB (s : State) (x : Site) : Bool :=
  !descG x.desc && x.bases.all (fun b => (match s.walk (x.code b) with | .page true _ _ => true | _ => false) &&
    (s.home (codeHome (x.code b))).dsb.isEmpty)

theorem atHome_of {s : State} {x : Site} (h : atHomeB s x = true) : AtHome s x := by
  simp only [atHomeB, Bool.and_eq_true, Bool.not_eq_true', List.all_eq_true, List.isEmpty_iff] at h
  refine ⟨h.1, fun b m => ⟨?_, fun e me => ?_⟩⟩
  · have w := (h.2 b m).1
    split at w
    · exact ⟨_, _, ‹_›⟩
    · cases w
  · rw [(h.2 b m).2] at me; cases me

theorem twoSites_of {s : State} {d : Drill} {kind : Access} {priv : Bool} {l : List Acc} {n : Nat} {f : List Site → Chunk}
    (b : d.chunk = Chunk.fresh d.regs 0 4096 none)
    (h : (match ownB s d kind priv l with
      | some (s', sites) => decide (sites.length = 2) && sites.all (atHomeB s') &&
          sites.all (fun x => sites.all (fun y => x.desc == y.desc)) &&
          isOk (s'.readsReady (s'.unitAttr s.cur d) (coreOf s.cur) d.asid sites) && sites.all (fun x => !s'.siteBad (coreOf s.cur) d x) && roomB s { d with chunk := f sites } n
      | none => false) = true) : TwoSites s d kind priv l n f := by
  split at h
  · rename_i s' sites e
    simp only [Bool.and_eq_true, decide_eq_true_eq, List.all_eq_true, beq_iff_eq, Bool.not_eq_true'] at h
    obtain ⟨⟨⟨⟨⟨h1, h2⟩, h3⟩, h4⟩, h5⟩, h6⟩ := h
    exact ⟨s', sites, h1, own_of b e, fun x m => atHome_of (h2 x m), fun x mx y my _ => h3 x mx y my, ready_of h4, h5, room_of h6⟩
  · cases h

theorem looked_of {r : Looked} {p : State → List (Acc × DWord) → Prop} [∀ s x, Decidable (p s x)]
    (h : (match r with | .all s x [] => decide (p s x) | _ => false) = true) : ∃ s x, r = .all s x [] ∧ p s x := by
  rcases r with ⟨s, x, bad⟩ | _
  · cases bad with
    | nil => exact ⟨s, x, rfl, of_decide_eq_true h⟩
    | cons _ _ => cases h
  · cases h

theorem ownUniform : ∃ s' x, ReachesOwn (unc e0) lone .read false [{ lane := 0, ea := eaOf lone.regs e0 5 0 0 0, n := 16 }] s' [x] := by
  have h : (match ownB (unc e0) lone .read false [{ lane := 0, ea := eaOf lone.regs e0 5 0 0 0, n := 16 }] with
      | some (_, [_]) => true | _ => false) = true := by decide +kernel
  split at h
  · exact ⟨_, _, own_of rfl ‹_›⟩
  · cases h

theorem witness_UncachedAccesses :
    (∀ i ∈ [Instr.ld 4 8 5 1 4, .ldu 6 8 5, .st 4 8 5 1 4, .red 6 8 5 1 8, .atom 6 8 5 1 4, .atom64 0 8 5 1 8], Executes (unc e0) lone i) ∧
    (∀ i ∈ [Instr.atomCas 8 5 1 4, .atom64Cas 8 5 1 8], Executes (unc opc0) lone i) ∧
    (let l := laneAccs lone.regs e0 5 1 4 4;
      (unc e0).addrTrap lone .store true l = none ∧ (unc e0).lockTrap 0 lone.asid .store l = none ∧
      ∃ s' ds, lookPlots 0 lone l (unc e0) [] [] = .all s' ds [] ∧ (plotTrap .store ((unc e0).supOf 1) ds = none ∧
        (∃ a ∈ l, (siteOf lone ds a).kind = .uncached) ∧ ∀ a ∈ l, (siteOf lone ds a).kind ≠ .scratch ∧ descM (siteOf lone ds a).desc = false ∧
          ∀ b ∈ (siteOf lone ds a).bases, (s'.home (codeHome ((siteOf lone ds a).code b))).gated = false)) ∧
    (chunked lone (fun c => { c with units := 1 })).chunk.units ≠ 0 ∧ ({ lone with older := some { chunk := lone.chunk, phase := .ended } }).older ≠ none ∧
    explicit.chunk.expl = some { beg := 0x400000, fallback := 0x400200 } ∧
    (TwoSites (unc e0) lone .read true (laneAccs lone.regs e0 5 1 4 4) 1024 (lone.chunk.readBy e0) ∧
      (∃ s' x, ReachesOwn (unc e0) lone .read false [{ lane := 0, ea := eaOf lone.regs e0 5 0 0 0, n := 16 }] s' [x]) ∧
      TwoSites (unc e0) lone .store true (laneAccs lone.regs e0 5 1 4 4) 0
        (fun l => storeSites e0 0x400000 1 (fun x => toBytes 4 (lone.regs.sized 4 8 x.acc.lane)) (lone.chunk.enter .store l) l) ∧
      TwoSites (unc e0) lone .red false (laneAccs lone.regs e0 5 1 8 8) 0 (lone.chunk.enter .red) ∧
      TwoSites (unc opc0) lone .atom false (laneAccs lone.regs opc0 5 1 4 4) 512 (lone.chunk.enter .atom) ∧
      TwoSites (unc opc0) lone .atom false (laneAccs lone.regs opc0 5 1 8 8) 512 (lone.chunk.enter .atom)) ∧
    CacheSorted (unc e0) ∧ (∀ h ∈ (unc e0).homes, ∀ e ∈ h.2.dsb, ∀ y ∈ e.write.atoms, y.drill ≠ (unc e0).cur) :=
  ⟨executes_of (by decide +kernel), executes_of (by decide +kernel),
    ⟨by decide +kernel, by decide +kernel, looked_of (by decide +kernel)⟩, by decide, by decide, rfl,
    ⟨twoSites_of rfl (by decide +kernel), ownUniform, twoSites_of rfl (by decide +kernel),
      twoSites_of rfl (by decide +kernel), twoSites_of rfl (by decide +kernel), twoSites_of rfl (by decide +kernel)⟩, cacheSorted_of (by decide +kernel), by decide +kernel⟩

/-! ### Hypotheses met: barriers, commands, events of drills -/

theorem page_of {r : Walk} {b : Bool} (h : (match r with | .page x _ _ => x == b | _ => false) = true) : ∃ large loc, r = .page b large loc := by
  cases r <;> simp_all

theorem execs_of {s : State} {d : Drill} {l : List Instr} (h : Map.find s.drills s.cur = some d)
    (p : l.all (fun i => unitTrap i s.unit.hints d (s.supOf d.asid) == none) = true) : ∀ i ∈ l, Executes s d i :=
  fun i m => ⟨h, eq_of_beq (List.all_eq_true.mp p i m)⟩

/-- A drill in slot 0 and one beside it, in one workgroup of two barriers and four lines of scratchpad. -/
def two (d : Drill) : State :=
  { held base e0 d with
    drills := [(0, d), (3, { drill with index := 1 })]
    wgs := [(0, { oneWorkgroup with ndrills := 2, slots := [(0, 0), (1, 3)], nbar := 2, size := 4, sectors := List.range 16, scratch := [(64, 7)] })] }
/-- A drill whose chunk is stamped, with the instruction whose operation follows. -/
def opDrill (i : Instr) : Drill :=
  let r := { drill.regs with u := [(2, 5), (3, 100), (4, 0x400200), (5, 0x400200), (6, 0xFFFE000000000000), (7, 64)] }
  { drill with regs := r, chunk := { Chunk.fresh r 0 4096 none with after := some i, afterUnit := { hints := e0, first := 0x400000, words := 1 } } }

theorem witness_Barriers :
    (let d := { drill with reg := 2 };
      (∀ i ∈ [Instr.barReg 1, .barArv 1, .barWt 1, .barDrp 1, .barReg 2, .barArv 0], Executes (two d) d i) ∧ HasRoom (two d) d 0 ∧
      d.older = none ∧ Deliverable d ∧ d.chunk.expl = none ∧ (∃ w, Map.find (two d).wgs d.wg = some w ∧ w.nbar = 2) ∧
      d.reg.getLsbD 1 = true ∧ d.reg.getLsbD 0 = false) ∧
    (∀ i ∈ [Instr.barReg 1, .barArv 1, .barWt 1, .barDrp 1, .exit],
      (opDrill i).chunk.after = some i ∧ Map.find (two (opDrill i)).drills 0 = some (opDrill i) ∧ (opDrill i).reg.getLsbD 1 = false ∧
      ∃ w, Map.find (two (opDrill i)).wgs (opDrill i).wg = some w ∧ (w.barrier 1).a.getLsbD (opDrill i).index = false ∧
        Map.erase w.slots (opDrill i).index ≠ []) ∧
    (∃ w, Map.find (held base e0 (opDrill .exit)).wgs (opDrill .exit).wg = some w ∧ Map.erase w.slots (opDrill .exit).index = []) ∧
    (∃ w : Workgroup, (w.barrier 1).a.getLsbD (opDrill (.barWt 1)).index = true) ∧
    (∀ i ∈ [Instr.barReg 1, .exit], let d := { opDrill i with reg := 2 };
      Map.find (two d).drills 0 = some d ∧ d.chunk.after = some i ∧ d.reg.getLsbD 1 = true) ∧
    (let s := two (opDrill (.barArv 1));
      let s := { s with drills := [(0, opDrill (.barArv 1)), (3, { drill with index := 1, wait := .barrier 1 })]
                        wgs := s.wgs.map (fun (w : Nat × Workgroup) => (w.1, { w.2 with barriers := [(1, { e := 2, a := 2, g := 0 })] })) };
      (∃ x, Map.find s.drills 3 = some x ∧ x.wg = 0 ∧ x.wait = .barrier 1) ∧ ∃ w, Map.find s.wgs 0 = some w ∧
        (w.barrier 1).a.getLsbD 0 = false ∧ 0 < (w.barrier 1).e ∧ popcount 16 ((w.barrier 1).a ||| (1 : BitVec 16) <<< 0).toNat = (w.barrier 1).e) :=
  ⟨⟨execs_of rfl (by decide +kernel), room_of (by decide +kernel), rfl, deliverable_of (by decide +kernel), rfl, ⟨_, rfl, rfl⟩, by decide,
    by decide⟩, by
      intro i m
      have reg : (opDrill i).reg.getLsbD 1 = false := by
        show (opDrill .exit).reg.getLsbD 1 = false
        decide +kernel
      exact ⟨rfl, rfl, reg, _, rfl, by rw [show (opDrill i).index = 0 from rfl]; decide +kernel, by
        rw [show (opDrill i).index = 0 from rfl]; decide⟩, ⟨_, rfl, by decide⟩, ⟨{ oneWorkgroup with barriers := [(1, { e := 1, a := 1, g := 0 })] }, by decide +kernel⟩,
    fun i _ => ⟨rfl, rfl, by show ((2 : BitVec 16).getLsbD 1) = true; decide⟩, ⟨_, rfl, rfl, rfl⟩, _, rfl, by decide +kernel⟩

theorem ranged_of {r : Ranged} {p : State → Prop} [∀ s, Decidable (p s)]
    (h : (match r with | .ok s _ none => decide (p s) | _ => false) = true) : ∃ s parts, r = .ok s parts none ∧ p s := by
  rcases r with ⟨s, parts, bad⟩ | _
  · cases bad with
    | none => exact ⟨s, parts, rfl, of_decide_eq_true h⟩
    | some _ => cases h
  · cases h

theorem witness_CommandsFollowTheirChunk :
    ((∀ i ∈ [Instr.glzScl 4 9, .glzOff 4 9, .glzClp 4 9, .glzFil 4 9, .glzPrm 4 9, .glzMap 4 9, .glzFire 4 9, .glzRdh 4 9, .engCpy 4 0,
        .engGth 4 0 0, .engGrd 4 0 0, .engSct 4 0 0, .engCol 4 0 0 0, .engWt 4 9, .engTst 4 9, .tapePush 4 9, .tapeTurn 4 9, .lnch 4 9],
        Executes (two drill) drill i) ∧ HasRoom (two drill) drill 0 ∧ drill.older = none ∧ drill.chunk.expl = none) ∧
    (∀ d, (∃ w, Map.find (two d).wgs 0 = some w ∧ w.state = .resident) ∧ Map.find (two d).drills 0 = some d) ∧
    ((two drill).tokenWord 1 5).toNat < 100 ∧ bitAt ((two drill).tokenWord 1 5) 63 = false ∧
    (let s := { two (opDrill (.engWt 2 9)) with ctxs := [(1, { oneContext with tokens := [(5, 200)] })] };
      (s.tokenWord 1 5).toNat % 2 ^ 63 ≥ 100) ∧
    (let d := opDrill (.tapePush 4 9);
      ∃ s' parts, (two d).checkRecord 0 d (d.regs.uniN 4) = .ok s' parts none ∧ s'.pushBefore 0 d = false ∧
        (Map.find s'.ctxs 1).isSome = true ∧ (∀ c ∈ s'.ctxs, c.2.tape.length < Config.tapeDepth) ∧ Map.find s'.drills 0 = some d) ∧
    (let d := opDrill (.engCpy 4 0);
      let rs := cmdRanges 32 1 0x79 0 0 (fun n => if 4 + n < 64 then (d.regs.uni (4 + n)).toNat else 0);
      (∃ s' parts, State.cmdChecked (d.opAttr 0) 0 d rs (two d) = .ok s' parts none ∧ True) ∧
        (two d).locksFree 0 (cmdLocks d.asid (two d).nextId rs) = true) :=
  ⟨⟨execs_of rfl (by decide +kernel), room_of (by decide +kernel), rfl, rfl⟩, fun _ => ⟨⟨_, rfl, rfl⟩, rfl⟩, by decide +kernel,
    by decide +kernel, by decide +kernel, ranged_of (by decide +kernel), ranged_of (by decide +kernel), by decide +kernel⟩

theorem witness_DrillEvents :
    (let d := chunked drill (fun c => { c with units := 4096 });
      d.chunk.limit ≤ d.chunk.units ∧ d.chunk.expl = none ∧ d.older = none ∧ d.wait = .none ∧ Map.find (two d).drills 0 = some d ∧
      d.chunk.replayed = false ∧ ((two d).core 0).repair ≠ 2) ∧
    (let d := chunked drill (fun c => { c with units := 4096, expl := some { beg := 0x400000, fallback := 0x400200 } });
      d.chunk.limit ≤ d.chunk.units ∧ d.chunk.expl ≠ none ∧ d.wait = .none) ∧
    (let s := { two { drill with wait := .token 5 7 9 } with ctxs := [(1, { oneContext with tokens := [(5, 7)] })] };
      (s.tokenWord 1 5).toNat % 2 ^ 63 ≥ 7) ∧
    (let d := chunked drill (fun c => { c with sq := 4 });
      d.chunk.sq = 4 ∧ d.chunk.solo = false ∧ d.chunk.units = 0 ∧ (two d).running d.wg = true ∧ ∀ o ∈ (two d).solos, o.key ≠ d.asid ∧ o.drill ≠ 0) ∧
    (let d := chunked drill (fun c => { c with replayed := true });
      d.chunk.replayed = true ∧ (∃ w, Map.find (two d).wgs 0 = some w ∧ w.core = 0 ∧ w.state ≠ .saved) ∧
      ((two d).core 0).absent = false ∧ ((two d).core 0).repair ≠ 2) ∧
    ({ drill with waited := 4096 }.wait = .none ∧ Config.ageCap ≤ { drill with waited := 4096 }.waited) ∧
    (let d := { drill with wait := .page 3 };
      d.wait = .page 3 ∧ ∃ w, Map.find (two d).wgs 0 = some w ∧ w.state = .resident ∧ (two d).policyOf w ≠ 2 ∧ (two d).coopWg w = false) :=
  ⟨by decide +kernel, by decide +kernel, by decide +kernel, by decide +kernel,
    ⟨rfl, ⟨_, rfl, rfl, by decide⟩, by decide +kernel, by decide +kernel⟩, ⟨rfl, by decide⟩,
    ⟨rfl, _, rfl, rfl, by decide +kernel, by decide +kernel⟩⟩

/-- A grain a chunk writes, at home h. -/
def grainAt (h : Nat) : GrainUse := { addr := addrCode h 0 1 0x400100, size := 32, key := 1, va := 0x400100, desc := codeDesc, prio := 0 }
/-- An older chunk in a phase, with grains at the homes of a list. -/
def olderAt (hs : List Nat) (p : Phase) : Drill :=
  { drill with older := some { chunk := { drill.chunk with units := 3, grains := hs.map grainAt }, phase := p } }
def request (hz : Nat) : Request := { drill := 0, slice := 0, key := 1, r := Sig.enter Sig.empty 0x1234, w := Sig.empty, horizon := hz }
def commitOf (w : Sig) : Commit :=
  { csn := 1, key := 1, all := false, w := w, wb := w, grains := [], homes := [], drops := [], lastUse := [], plot := none, cores := [0]
    released := true }

theorem witness_ChunksCommit :
    (∃ o, (olderAt [] .ended).older = some o ∧ o.phase = .ended ∧ o.chunk.grains = []) ∧
    (∃ o, (olderAt [0, 3] .ended).older = some o ∧ o.phase = .ended ∧ o.chunk.grains ≠ []) ∧
    (let d := olderAt [0, 3] (.preparing [0, 3]);
      ∃ o, d.older = some o ∧ o.phase = .preparing [0, 3] ∧ ((two d).home 3).gated = false ∧
        (two d).entryRoom 3 ((d.grainWrites 0 o.chunk).filter (fun g => codeHome g.addr == 3)) = true ∧
        ((d.grainWrites 0 o.chunk).filter (fun g => codeHome g.addr == 3)).any (two d).migHolds = false) ∧
    (∃ o, (olderAt [0] .prepared).older = some o ∧ o.phase = .prepared) ∧
    (let s := { two (olderAt [] .requested) with requests := [request 1], nextCsn := 2 };
      s.requests = [request 1] ∧ (request 1).slice = s.token ∧ s.records = [] ∧ ¬(1 + Config.arbiterWindow < s.nextCsn) ∧ s.commits = [] ∧
      s.heldBySolo 0 1 (request 1).w = false ∧ ∃ o, (olderAt [] .requested).older = some o ∧ o.chunk.scratch = [] ∧ o.chunk.reds = [] ∧
        o.chunk.after = none) ∧
    1 + Config.arbiterWindow < { two (olderAt [] .requested) with nextCsn := 4098 }.nextCsn ∧
    (let s := { two (olderAt [] .requested) with requests := [request 0], nextCsn := 2, commits := [commitOf (request 0).r] };
      ∃ c ∈ s.commits, c.csn > 0 ∧ (request 0).r.meets c.w = true) ∧
    (let d := olderAt [] .requested;
      ∃ o c, d.older = some o ∧ ({ o.chunk with fault := some 64 } : Chunk).fault = some 64 ∧ Map.find (two d).ctxs d.asid = some c) :=
  ⟨⟨_, rfl, rfl, rfl⟩, ⟨_, rfl, rfl, by decide⟩, ⟨_, rfl, rfl, by decide +kernel, by decide +kernel, by decide +kernel⟩, ⟨_, rfl, rfl⟩,
    ⟨rfl, rfl, rfl, by decide, rfl, by decide +kernel, _, rfl, rfl, rfl, rfl⟩, by decide, ⟨_, List.mem_singleton.mpr rfl, by decide, by decide +kernel⟩,
    ⟨_, _, rfl, rfl, rfl⟩⟩

/-- A grain's write of two bytes. -/
def grainWrite : GrainWrite :=
  { addr := addrCode 0 0 1 0x400100, size := 32, key := 1, va := 0x400100, desc := codeDesc, bytes := [(4, 0x99), (31, 0)], reds := []
    atoms := [], fire := false, edit := none, prio := 0, asid := 1, attrs := [] }
/-- The descriptor of the code's plot, glazed, of f32 in tiles of 32 bytes. -/
def glazedDesc : DWord := 0x20F
/-- Twice an element, one more. -/
def twice : GMap := { GMap.identity with a := 0x40000000, b := 0x3F800000 }
/-- A state in which a grain's commit is to be applied, a header at its tile. -/
def applying (g : GrainWrite) : State :=
  { two drill with commits := [{ commitOf Sig.empty with grains := [g], homes := [0, 5] }]
                   newer := [(addrCode 0 0 1 0x400104, 3)], headers := [(addrCode 0 0 1 0x400100, Header.of twice 4)] }
/-- A write of a grain that a home applies at once. -/
def Applied (s : State) (g : GrainWrite) : Prop :=
  (∃ c, s.commits = [c] ∧ 0 ∈ c.homes ∧ c.grains = [g] ∧ c.drops = [] ∧ c.lastUse = []) ∧ codeHome g.addr = 0 ∧
  s.defers g = false ∧ s.bad = [] ∧ s.records = [] ∧ s.headerBad g.desc g.addr = false ∧ g.size = grainSize g.desc ∧ CacheSorted s

theorem applied_of {g : GrainWrite} (h : (decide (codeHome g.addr = 0) && !(applying g).defers g && !(applying g).headerBad g.desc g.addr &&
    decide (g.size = grainSize g.desc)) = true) : Applied (applying g) g := by
  simp only [Bool.and_eq_true, Bool.not_eq_true', decide_eq_true_eq] at h
  refine ⟨⟨_, rfl, List.mem_cons_self, rfl, rfl, rfl⟩, h.1.1.1, h.1.1.2, ?_, ?_, h.1.2, h.2, cacheSorted_of ?_⟩
  · exact (by decide +kernel : (applying grainWrite).bad = [])
  · exact (by decide +kernel : (applying grainWrite).records = [])
  · exact (by decide +kernel : (Map.sorted (applying grainWrite).newer && (applying grainWrite).homes.all (fun c => c.2.lines.isEmpty)) = true)

theorem witness_CommitsAreApplied :
    (let g := { grainWrite with atoms := [{ drill := 0, reg := 5, lane := 3, addr := grainWrite.addr + 8, op := 0, wide := false, v := 1, vn := 0 }] };
      Applied (applying g) g ∧ g.edit = none ∧ Map.sorted g.bytes = true ∧ (∀ b ∈ g.bytes, b.1 < g.size) ∧ g.reds = [] ∧
      (∃ x, g.atoms = [x] ∧ x.lane < 64 ∧ Map.find (applying g).drills x.drill = some drill) ∧
      { g with reds := [{ scratch := false, addr := g.addr, op := 0, value := 1 }] }.reds ≠ []) ∧
    (let g := { grainWrite with desc := glazedDesc };
      Applied (applying g) g ∧ g.edit = none ∧ descG g.desc = true ∧ g.writes = true ∧ ((applying g).headerAt g.addr).map ≠ GMap.identity) ∧
    (let c := commitOf (Sig.enter Sig.empty (grainKey 1 0x400100 7));
      let d := chunked drill (fun x => { x with rsig := c.wb });
      let s := { two d with commits := [c] };
      s.commits = [c] ∧ 0 ∈ c.cores ∧ c.released = true ∧ c.plot = none ∧ Map.find s.drills 0 = some d ∧ d.asid = c.key ∧ d.older = none ∧
      d.chunk.solo = false ∧ d.chunk.rsig.meets c.wb = true) ∧
    (let d := { drill with wait := .fence, pendingStreams := [(2, 9)], chunk := { drill.chunk with after := some .fenceS } };
      let s := two d;
      s.commits = [] ∧ (s.home 2).dsb = [] ∧ Map.find s.drills 0 = some d ∧ d.wait = .fence ∧ d.chunk.after = some .fenceS ∧
      d.pendingStreams = [(2, 9)]) :=
  ⟨⟨applied_of (by decide +kernel), rfl, by decide +kernel, by decide, rfl, ⟨_, rfl, by decide, by decide +kernel⟩, by decide⟩,
    ⟨applied_of (by decide +kernel), rfl, by decide +kernel, by decide +kernel, by decide +kernel⟩,
    ⟨rfl, by decide, rfl, rfl, rfl, rfl, rfl, rfl, by decide +kernel⟩, ⟨rfl, by decide +kernel, rfl, rfl, rfl, rfl⟩⟩


/-! ### Hypotheses met: glazed tiles -/

/-- A tile whose header holds a map, one element of it as given. -/
def tileState (g : GMap) (x : Nat) : State :=
  { two drill with headers := Map.put Header.initial [] (addrCode 0 0 1 0x400100) (Header.of g 4)
                   newer := (toBytes 4 x).zipIdx.map (fun (b, k) => (addrCode 0 0 1 0x400104 + k, b)) }
/-- A clamp to the range of 2 to 4. -/
def clamped : GMap := { GMap.identity with lo := 0x40000000, hi := 0x40800000 }
/-- The whole code's plot glazed. -/
def glazedState : State := { two drill with bulk := putAll (two drill).bulk (addrCode 0 0 0 (leafNode + 8 * 64)) (toBytes 8 0x20F) }
/-- A glaze command on two tiles. -/
def glazeCommand (op : Nat) (x : DWord) : Command :=
  { wg := 0, drill := 0, index := 0, core := 0, asid := 1, launch := 1, pc := 0x400000, major := 0x78, op := op, flags := 0
    run := [5, 0x400100, 64, x], seq := 0, landing := [], targets := [], had := [], landed := 0, count := 0, values := [], reports := []
    staged := false, finished := false, call := 0 }
def glazeRuns (op : Nat) (x : DWord) : State := { glazedState with cmds := [(8, glazeCommand op x)], nextId := 9 }

/-- A glaze command at work on its tiles, whose map, where it has one, can be installed. -/
def Glazes (op : Nat) (x : DWord) : Prop :=
  let c := glazeCommand op x
  let s := glazeRuns op x
  let tiles := (upto 2).map (fun k => c.word 1 + k * 32)
  Running s 8 c 0x78 op ∧ c.op = op ∧ c.targets = [] ∧ c.word 2 ≠ 0 ∧ c.word 1 / 65536 = (c.word 1 + c.word 2 - 1) / 65536 ∧
  s.plotOf c.asid (c.word 1) = .desc glazedDesc ∧ c.word 1 % 32 = 0 ∧ c.word 2 % 32 = 0 ∧ c.word 2 / 32 = 2 ∧
  (∀ va ∈ tiles, s.pendingAt (locate glazedDesc (keyOf 1 va) va) 32 = false ∧ (s.headerAt (locate glazedDesc (keyOf 1 va) va)).good = true ∧
    ∀ e ∈ (s.home (codeHome (locate glazedDesc (keyOf 1 va) va))).dsb, e.write.addr ≠ locate glazedDesc (keyOf 1 va) va) ∧
  (op ≤ 5 → glazeParamBad (op == 3) .f32 3 c.glazeMap = false ∧
    Stampable s c { writes := [], lands := [], grains := tiles.map (fun va => { c.tileWrite glazedDesc va with edit := some c.glazeMap.normal }) }) ∧
  (op = 6 → Stampable s c { writes := [], lands := [], grains :=
    (tiles.filter (fun va => (s.headerAt (locate glazedDesc (keyOf 1 va) va)).map ≠ GMap.identity)).map (fun va => { c.tileWrite glazedDesc va with fire := true }) }) ∧
  (op = 7 → overlap (c.word 1) (c.word 2) (c.word 3) 64 = false ∧ if isScratch (c.word 3) = true then
      c.word 3 % 32 = 0 ∧ (∃ w, Map.find s.wgs c.wg = some w) ∧ Stampable s c (storesOf [])
    else c.word 3 + 64 ≤ 2 ^ 48 ∧
      Stampable s c (storesOf [(c.word 3, tiles.flatMap (fun va => (s.headerAt (locate glazedDesc (keyOf 1 va) va)).bytes))]))

def stampableB (s : State) (c : Command) (x : Work) : Bool :=
  !s.writesHeld c.asid (x.writes.map (fun w => (w.1, w.2.length))) (s.workGrains c x) && s.chunkRoom (s.workGrains c x)
    && !s.soloHolds (fun _ => true) c.asid (engineSig (s.workGrains c x))

theorem stampable_of {s : State} {c : Command} {x : Work} (h : stampableB s c x = true) : Stampable s c x := by
  simp only [stampableB, Bool.and_eq_true, Bool.not_eq_true'] at h
  exact ⟨h.1.1, h.1.2, h.2⟩

def glazesB (op : Nat) (x : DWord) : Bool :=
  let c := glazeCommand op x
  let s := glazeRuns op x
  let tiles := (upto 2).map (fun k => c.word 1 + k * 32)
  let code := fun va => locate glazedDesc (keyOf 1 va) va
  !c.reservedBits && decide (s.plotOf c.asid (c.word 1) = .desc glazedDesc) &&
  tiles.all (fun va => !s.pendingAt (code va) 32 && (s.headerAt (code va)).good && (s.home (codeHome (code va))).dsb.isEmpty) &&
  (decide (5 < op) || (!glazeParamBad (op == 3) .f32 3 c.glazeMap &&
    stampableB s c { writes := [], lands := [], grains := tiles.map (fun va => { c.tileWrite glazedDesc va with edit := some c.glazeMap.normal }) })) &&
  (decide (op ≠ 6) || stampableB s c { writes := [], lands := [], grains :=
    (tiles.filter (fun va => (s.headerAt (code va)).map ≠ GMap.identity)).map (fun va => { c.tileWrite glazedDesc va with fire := true }) }) &&
  (decide (op ≠ 7) || (!overlap (c.word 1) (c.word 2) (c.word 3) 64 && if isScratch (c.word 3) = true then
      decide (c.word 3 % 32 = 0) && stampableB s c (storesOf [])
    else decide (c.word 3 + 64 ≤ 2 ^ 48) && stampableB s c (storesOf [(c.word 3, tiles.flatMap (fun va => (s.headerAt (code va)).bytes))])))

theorem glazes_of {op : Nat} {x : DWord} (h : glazesB op x = true) : Glazes op x := by
  simp only [glazesB, Bool.and_eq_true, Bool.or_eq_true, Bool.not_eq_true', decide_eq_true_eq, List.all_eq_true, List.isEmpty_iff] at h
  obtain ⟨⟨⟨⟨⟨h1, h2⟩, h3⟩, h4⟩, h5⟩, h6⟩ := h
  refine ⟨⟨rfl, ⟨rfl, rfl⟩, rfl, h1⟩, rfl, rfl, ?_, ?_, h2, ?_, ?_, ?_, fun va m => ⟨(h3 va m).1.1, (h3 va m).1.2, fun e me => ?_⟩,
    fun l => ?_, fun l => stampable_of (h5.resolve_left (fun n => n l)), fun l => ?_⟩
  · exact (by decide : (64 : DWord).toNat ≠ 0)
  · exact (by decide : (0x400100 : DWord).toNat / 65536 = ((0x400100 : DWord).toNat + (64 : DWord).toNat - 1) / 65536)
  · exact (by decide : (0x400100 : DWord).toNat % 32 = 0)
  · exact (by decide : (64 : DWord).toNat % 32 = 0)
  · exact (by decide : (64 : DWord).toNat / 32 = 2)
  · rw [(h3 va m).2] at me; cases me
  · have k := h4.resolve_left (by omega)
    exact ⟨k.1, stampable_of k.2⟩
  · have k := h6.resolve_left (fun n => n l)
    refine ⟨k.1, ?_⟩
    have k := k.2
    split at k <;> rename_i w <;> simp only [Bool.and_eq_true, decide_eq_true_eq] at k
    · rw [if_pos w]; exact ⟨k.1, ⟨_, rfl⟩, stampable_of k.2⟩
    · rw [if_neg w]; exact ⟨k.1, stampable_of k.2⟩

theorem compose_fires {r : Composed} (h : (match r with | .fireThen _ => true | _ => false) = true) : ∃ n, r = .fireThen n := by
  cases r with
  | install _ => cases h
  | fireThen n => exact ⟨n, rfl⟩

theorem nan_of {x : FVal} (h : x.isNan = true) : ∃ q, x = .nan q := by
  cases x <;> first | exact ⟨_, rfl⟩ | cases h

theorem walk_of {r : Walk} (h : (match r with | .page _ _ _ => true | _ => false) = true) : ∃ b l loc, r = .page b l loc := by
  cases r with
  | page b l loc => exact ⟨b, l, loc, rfl⟩
  | _ => cases h

theorem boundValue_of {w : Word} {q : ℚ} (h : w ≠ 0xFF800000) (h' : w ≠ 0x7F800000) (e : Fmt.number .f32 w.toNat = some q) :
    boundValue w = ((q : WithTop ℚ) : WithBot (WithTop ℚ)) := by
  unfold boundValue
  rw [if_neg h, if_neg h', e]

theorem boundValue_low : boundValue 0xFF800000 = ⊥ := by
  unfold boundValue
  rw [if_pos rfl]

theorem boundValue_high : boundValue 0x7F800000 = ⊤ := by
  unfold boundValue
  rw [if_neg (by decide), if_pos rfl]

/-- A clamp to the range of 5 to 6, which no value of `clamped` is in. -/
def above : GMap := { GMap.identity with lo := 0x40A00000, hi := 0x40C00000 }

theorem witness_Composition :
    (Fmt.f32.number twice.a.toNat = some 2 ∧ Fmt.f32.number twice.b.toNat = some 1 ∧ twice.a.toNat % 2 ^ 31 ≠ 0 ∧
      boundValue twice.lo ≤ boundValue twice.hi ∧ boundValue twice.lo < ⊤ ∧ ⊥ < boundValue twice.hi) ∧
    ((∃ q, unpack .f32 (GMap.const 0x7FC00000).b.toNat = .nan q) ∧ unpack .f32 (GMap.const 0xFF800000).b.toNat = .inf true ∧
      Fmt.f32.number (GMap.const 0x3F800000).b.toNat = some 1 ∧ (GMap.const 0x3F800000).a.toNat % 2 ^ 31 = 0) ∧
    (Fmt.f32.number clamped.a.toNat = some 1 ∧ Fmt.f32.number clamped.b.toNat = some 0 ∧ Fmt.f32.number clamped.lo.toNat ≠ none ∧
      Fmt.f32.number clamped.hi.toNat ≠ none ∧ Fmt.f32.number above.a.toNat = some 1 ∧ boundValue above.lo ≤ boundValue above.hi ∧
      compose false 3 clamped above = .install { GMap.identity with a := 0, b := above.lo } ∧
      compose false 3 clamped twice = .install { twice with lo := 0x40A00000, hi := 0x41100000 } ∧
      compose true 3 twice { twice with a := 0x3F800001, b := 0x33800000 } = .fireThen { twice with a := 0x3F800001, b := 0x33800000 }) := by
  refine ⟨⟨by decide +kernel, by decide +kernel, by decide, ?_, ?_, ?_⟩, ⟨nan_of (by decide +kernel), by decide +kernel, by decide +kernel, by decide⟩,
    by decide +kernel, by decide +kernel, by decide +kernel, by decide +kernel, by decide +kernel, ?_, by decide +kernel, by decide +kernel, by decide +kernel⟩
  · exact boundValue_low ▸ bot_le
  · exact boundValue_low ▸ bot_lt_top
  · exact boundValue_high ▸ bot_lt_top
  · show boundValue 0x40A00000 ≤ boundValue 0x40C00000
    rw [boundValue_of (q := 5) (by decide) (by decide) (by decide +kernel), boundValue_of (q := 6) (by decide) (by decide) (by decide +kernel)]
    exact WithBot.coe_le_coe.mpr (WithTop.coe_le_coe.mpr (by norm_num))

theorem witness_GlazedTiles :
    (descG glazedDesc = true ∧ grainSize glazedDesc = 32 ∧ descFmt glazedDesc = .f32 ∧ tileK 32 .f32 = 3 ∧ descValid glazedDesc = true ∧
      descM glazedDesc = false) ∧
    (let a := addrCode 0 0 1 0x400100;
      ((tileState GMap.identity 5).headerAt a).map = GMap.identity ∧
      ((tileState (GMap.const 0x40000000) 5).headerAt a).map = GMap.const 0x40000000 ∧ (GMap.const 0x40000000).a = 0 ∧
      (let s := tileState twice 0x7F800001; (s.headerAt a).map = twice ∧
        ∃ q, unpack .f32 (numberIn s.byteAt (a + permute 3 twice 1 * 4) 4) = .nan q) ∧
      (let s := tileState twice 0x40000000; (s.headerAt a).map = twice ∧ twice ≠ GMap.identity ∧ twice.a ≠ 0 ∧
        Fmt.f32.number (numberIn s.byteAt (a + permute 3 twice 1 * 4) 4) = some 2) ∧
      Fmt.f32.number twice.a.toNat = some 2 ∧ Fmt.f32.number twice.b.toNat = some 1 ∧ twice.sh < 3 ∧ twice.m < 8 ∧
      twice.lo = 0xFF800000 ∧ twice.hi = 0x7F800000 ∧ (2 : ℚ) * 2 + 1 ≠ 0) ∧
    (Fmt.f32.number clamped.lo.toNat = some 2 ∧ Fmt.f32.number clamped.hi.toNat = some 4 ∧ clamped.a.toNat % 2 ^ 31 ≠ 0 ∧ (2 : ℚ) ≠ 4 ∧
      { clamped with hi := clamped.lo }.lo = clamped.lo ∧ { clamped with a := 0, b := 0x3F800000 }.a.toNat % 2 ^ 31 = 0 ∧
      Fmt.f32.number 0x3F800000 = some 1 ∧ ∃ q, unpack .f32 ({ clamped with b := 0x7F800001 } : GMap).b.toNat = .nan q) ∧
    (compose false 3 twice twice = .install { twice with a := 0x40800000, b := 0x40400000 } ∧ (2 : ℚ) * 1 + 1 ≠ 0 ∧
      (GMap.const 0).a.toNat % 2 ^ 31 = 0) ∧
    (let g := { grainWrite with desc := glazedDesc, bytes := [], edit := some twice };
      Applied (applying g) g ∧ ((applying g).headerAt g.addr).good = true ∧ (∃ b l loc, (applying g).walk g.addr = .page b l loc) ∧
      compose (descExact g.desc) (tileK g.size (descFmt g.desc)) ((applying g).headerAt g.addr).map twice =
        .install { twice with a := 0x40800000, b := 0x40400000 }) ∧
    (let g := { grainWrite with desc := glazedDesc ||| 0x2000, bytes := [], edit := some { twice with a := 0x3F800001, b := 0x33800000 } };
      Applied (applying g) g ∧ descExact g.desc = true ∧ ∃ n, compose true 3 twice { twice with a := 0x3F800001, b := 0x33800000 } = .fireThen n) ∧
    (Glazes 0 0x40000000 ∧ Glazes 1 0x3F800000 ∧ Glazes 2 0x4000000000000000 ∧ Glazes 3 0x3F800000 ∧ Glazes 4 0x10001 ∧ Glazes 6 0 ∧
      Glazes 7 0x400800 ∧ Glazes 7 0xFFFE000000000040 ∧ isScratch 0xFFFE000000000040 = true) :=
  ⟨by decide +kernel, ⟨by decide +kernel, by decide +kernel, by decide, ⟨by decide +kernel, nan_of (by decide +kernel)⟩, ⟨by decide +kernel, by decide, by decide, by decide +kernel⟩,
      by decide +kernel, by decide +kernel, by decide, by decide, rfl, rfl, by norm_num⟩,
    ⟨by decide +kernel, by decide +kernel, by decide +kernel, by norm_num, rfl, by decide +kernel, by decide +kernel, nan_of (by decide +kernel)⟩,
    ⟨by decide +kernel, by norm_num, by decide +kernel⟩,
    ⟨applied_of (by decide +kernel), by decide +kernel, walk_of (by decide +kernel), by decide +kernel⟩,
    ⟨applied_of (by decide +kernel), by decide +kernel, compose_fires (by decide +kernel)⟩,
    ⟨glazes_of (by decide +kernel), glazes_of (by decide +kernel), glazes_of (by decide +kernel), glazes_of (by decide +kernel),
      glazes_of (by decide +kernel), glazes_of (by decide +kernel), glazes_of (by decide +kernel), glazes_of (by decide +kernel), by decide⟩⟩

/-! ### Hypotheses met: fills, range events, launches, engines, collectives -/

/-- A fill of a line. -/
def fill : Fill :=
  { core := 0, asid := 1, key := 1, va := 0x400100, desc := codeDesc, prio := 0, memSide := false, served := false, stale := false
    mig := false, attr := Attr.device, map := GMap.identity, data := [] }

/-- A `scr.grow` whose chunk is at its slice: its drill, its workgroup, whose save area has room for five lines. -/
def growDrill (u : DWord) : Drill :=
  let d := { drill with regs := { drill.regs with u := [(5, u)] } }
  { d with older := some { chunk := { Chunk.fresh d.regs 0 4096 none with after := some (.scrGrow 9 5) }, phase := .requested } }
/-- A core whose set of `fill` is full of clean lines of a priority. -/
def fullL1 (p : Nat) : List L1Line :=
  (List.range 15).map (fun i => { key := 1, va := 0x400100 + 32768 * (i + 1), gbits := 7, streaming := false, sectors := 15, prio := p, glazed := false, data := [] })
/-- A device with two drills, and core 0 with lines and header entries as given, the fill served. -/
def filling (l1 : List L1Line) : State :=
  { two drill with cores := [(0, { Core.reset with l1 := l1, glaze := [(9, GMap.identity)] })], fills := [(9, { fill with served := true })] }
/-- As that, and a workgroup whose scratchpad pins every way. -/
def pinnedFull : State := { filling [] with wgs := [(0, { oneWorkgroup with size := 4096 })] }

theorem fill_set {b : Nat} (h : fill.va ≤ b ∧ b < fill.va + grainSize fill.desc) : l1Set b = l1Set fill.va := by
  have g : grainSize fill.desc = 32 := by decide
  have h1 : 0x400100 ≤ b := h.1
  have h2 : b < 0x400100 + 32 := g ▸ h.2
  show b / 128 % 256 = 0x400100 / 128 % 256
  omega

theorem witness_Installs :
    (fill.va % grainSize fill.desc = 0 ∧ ¬(descG fill.desc = true ∧ fill.map ≠ GMap.identity) ∧
      (filling cleanL1).glazeUsed fill.core < Config.glazeHeaderEntries ∧ (filling cleanL1).drills ≠ [] ∧ ((filling cleanL1).core 0).l1 ≠ [] ∧
      ∀ b, fill.va ≤ b ∧ b < fill.va + grainSize fill.desc → (filling cleanL1).occupied fill.core (l1Set b) < Config.l1Ways) ∧
    (∀ p ∈ [0, 1], ∃ l v, ((filling (fullL1 p)).core 0).l1 = l ++ v :: [] ∧ v.prio = p ∧ l1Set v.va = l1Set fill.va ∧
      (filling (fullL1 p)).occupied 0 (l1Set fill.va) = Config.l1Ways ∧ (∀ x ∈ ((filling (fullL1 p)).core 0).l1, x.prio = p ∧ x.va ≠ fill.va / 128 * 128)) ∧
    (∀ b, fill.va ≤ b ∧ b < fill.va + grainSize fill.desc → pinnedFull.occupied 0 (l1Set b) ≥ Config.l1Ways ∧ (pinnedFull.core 0).l1 = []) := by
  refine ⟨⟨by decide, by decide +kernel, by decide +kernel, by decide, by decide, fun b h => ?_⟩, fun p m => ?_, fun b h => ?_⟩
  · rw [fill_set h]; decide +kernel
  · rcases List.mem_pair.mp m with rfl | rfl
    · exact ⟨(fullL1 0).dropLast, { key := 1, va := 0x400100 + 32768 * 15, gbits := 7, streaming := false, sectors := 15, prio := 0, glazed := false, data := [] },
        by decide +kernel, by decide +kernel⟩
    · exact ⟨(fullL1 1).dropLast, { key := 1, va := 0x400100 + 32768 * 15, gbits := 7, streaming := false, sectors := 15, prio := 1, glazed := false, data := [] },
        by decide +kernel, by decide +kernel⟩
  · rw [fill_set h]; decide +kernel

def growWg : Workgroup := { oneWorkgroup with size := 4, sectors := List.range 16, areaLen := oneRecord.areaBytes 5 1 }
def growState (u : DWord) : State :=
  { held base e0 (growDrill u) with wgs := [(0, growWg)], requests := [request 1], nextCsn := 2 }

theorem grow_refuses (u : DWord) : (growState u).refuses (request 1) false = false := by
  have h : (growState u).commits = [] := rfl
  have h2 : (growState u).nextCsn = 2 := rfl
  unfold State.refuses
  rw [h, h2]
  decide

theorem witness_FillsAndRangeEvents :
    (let s := { two drill with fills := [(9, fill)] };
      let a := locate fill.desc fill.key fill.va;
      Map.find s.fills 9 = some fill ∧ fill.served = false ∧ s.pendingAt a (grainSize fill.desc) = false ∧ fill.memSide = false ∧
      (∃ large loc, s.walk a = .page true large loc) ∧ s.deferredAt a (grainSize fill.desc) = false ∧ (s.home (codeHome a)).gated = false ∧
      s.dataError fill.desc a (grainSize fill.desc) = false ∧ fill.mig = false ∧ { fill with mig := true }.mig = true ∧
      { fill with memSide := true }.memSide = true ∧ CacheSorted s) ∧
    (let f := { fill with desc := codeDesc ||| 0x80, va := 0x400100 };
      let s := { State.reset with fills := [(9, f)] };
      s.fills = [(9, f)] ∧ grainSize f.desc = 128 ∧ f.va % 128 = 0 ∧
      (let f := { fill with desc := codeDesc ||| 0x20 }; descTreat f.desc = 1 ∧ grainSize f.desc = 32 ∧ f.va % 32 = 0) ∧
      (let f := { fill with desc := codeDesc ||| 0x100, va := 0x400200 }; grainSize f.desc = 512 ∧ f.va % 512 = 0)) ∧
    (let d := { drill with wait := .flr 0x400100 64 };
      let s := { two d with newer := [(addrCode 0 0 1 0x400104, 9)] };
      Map.find s.drills 0 = some d ∧ d.wait = .flr 0x400100 64 ∧ s.commits = [] ∧ CacheSorted s ∧ Memory.wf s.bulk = true) ∧
    (let s := two { drill with wait := .shrink 9 128 };
      (∃ w, Map.find s.wgs 0 = some w) ∧ s.cmds = []) ∧
    (let d := { drill with wait := .grow 9 4 };
      ∃ w, Map.find (two d).wgs 0 = some w ∧ d.wait = .grow 9 4 ∧ (two d).waysHeld w.core = true) ∧
    (∀ u, let s := growState u;
      Map.find s.drills 0 = some (growDrill u) ∧ s.requests = [request 1] ∧ (request 1).drill = 0 ∧ (request 1).slice = s.token ∧ s.records = [] ∧
      (∃ o, (growDrill u).older = some o ∧ s.refuses (request 1) o.chunk.solo = false ∧ o.chunk.scratch = [] ∧ o.chunk.reds = [] ∧
        o.chunk.after = some (.scrGrow 9 5)) ∧
      s.heldBySolo 0 1 (request 1).w = false ∧ Map.find s.wgs (growDrill u).wg = some growWg ∧ Map.find s.launches growWg.launch = some oneLaunch) ∧
    (128 * growWg.size + roundUp ((growDrill 100).regs.uniN 5) 128 ≤ Config.scratchMax ∧
      (growState 100).canPin growWg.core growWg.base growWg.size (growWg.size + roundUp ((growDrill 100).regs.uniN 5) 128 / 128) = true ∧
      oneLaunch.record.areaBytes (growWg.size + roundUp ((growDrill 100).regs.uniN 5) 128 / 128) growWg.ndrills ≤ growWg.areaLen) ∧
    128 * growWg.size + roundUp ((growDrill 393216).regs.uniN 5) 128 > Config.scratchMax :=
  ⟨⟨rfl, rfl, by decide +kernel, rfl, page_of (by decide +kernel), by decide +kernel, by decide +kernel, by decide +kernel, rfl, rfl, rfl,
      cacheSorted_of (by decide +kernel)⟩, by decide +kernel,
    ⟨rfl, rfl, rfl, cacheSorted_of (by decide +kernel), by decide +kernel⟩, ⟨⟨_, rfl⟩, rfl⟩, ⟨_, rfl, rfl, by decide +kernel⟩,
    fun u => ⟨rfl, rfl, rfl, rfl, rfl, ⟨_, rfl, grow_refuses u, rfl, rfl, rfl⟩, rfl, rfl, rfl⟩, by decide +kernel, by decide +kernel⟩

/-- A launch's record: one drill of 8 registers, two workgroups, entry at the code. -/
def goodRecord : List Byte :=
  toBytes 6 0x400000 ++ toBytes 1 33 ++ toBytes 1 8 ++ toBytes 6 0x1000 ++ toBytes 1 0 ++ toBytes 1 0 ++ toBytes 4 2 ++ toBytes 4 1
    ++ toBytes 4 1 ++ toBytes 4 0 ++ List.replicate 32 0
def withRecord (s : State) : State := { s with bulk := putAll s.bulk (addrCode 0 0 1 0x400200) goodRecord }

theorem got_of {α : Type} {r : Got α} {p : State → α → Prop} [∀ s x, Decidable (p s x)]
    (h : (match r with | .ok s x => decide (p s x) | _ => false) = true) : ∃ s x, r = .ok s x ∧ p s x := by
  cases r with
  | ok s x => exact ⟨s, x, rfl, of_decide_eq_true h⟩
  | hold _ _ => cases h
  | dies _ => cases h
  | fail _ => cases h

theorem witness_LaunchesFromDrillsAndTape :
    (let d := { opDrill (.lnch 4 3) with regs := { drill.regs with u := [(4, 0x400200)] } };
      let s := withRecord (two d);
      Map.find s.drills 0 = some d ∧ d.chunk.after = some (.lnch 4 3) ∧ d.pendingStreams = [] ∧ d.regs.uniN 3 = 0 ∧
      (∃ s1 parts, s.checkRecord 0 d (d.regs.uniN 4) = .ok s1 parts none ∧ (s1.ctxs = s.ctxs ∧ Map.find s1.ctxs 1 = some oneContext)) ∧
      oneContext.hasQueue 0 = true ∧ oneContext.dead = false ∧
      (∃ s2 bs, s.cpRead (d.opAttr 0) 1 0x400200 64 = .ok s2 bs ∧ (Map.find s2.ctxs 1 = some oneContext ∧ (recordOf bs).code = none))) ∧
    (let c := { oneContext with tape := [0x400200], replay := some (5, 0) };
      let s := { withRecord (two drill) with ctxs := [(1, c)] };
      Map.find s.ctxs 1 = some c ∧ c.replay = some (5, 0) ∧ c.replayWait = none ∧ c.tape = [0x400200] ∧
      (∃ s1 bs, s.cpRead Attr.device 1 0x400200 64 = .ok s1 bs ∧ ((recordOf bs).code = none ∧ (recordOf bs).conc = false ∧ Map.find s1.ctxs 1 = some c)) ∧
      c.dead = false ∧ { c with tape := [] }.tape = []) :=
  ⟨⟨rfl, rfl, rfl, by decide +kernel, ranged_of (by decide +kernel), by decide +kernel, rfl, got_of (by decide +kernel)⟩,
    ⟨rfl, rfl, rfl, rfl, got_of (by decide +kernel), rfl, rfl⟩⟩

/-- An engine's command at work. -/
def command (op : Nat) (run : List DWord) : Command :=
  { wg := 0, drill := 0, index := 0, core := 0, asid := 1, launch := 1, pc := 0x400000, major := 0x79, op := op, flags := 0, run := run
    seq := 0, landing := [], targets := [], had := [], landed := 0, count := 0, values := [], reports := [], staged := false
    finished := false, call := 0 }
def withCmd (c : Command) : State := { two drill with cmds := [(8, c)], nextId := 9 }

def gotB {α : Type} (r : Got α) (f : State → α → Bool) : Bool := match r with | .ok s x => f s x | _ => false

theorem got_then {α : Type} {r : Got α} {f : State → α → Bool} {p : State → α → Prop}
    (h : gotB r f = true) (g : ∀ s x, f s x = true → p s x) : ∃ s x, r = .ok s x ∧ p s x := by
  cases r with
  | ok s x => exact ⟨s, x, rfl, g s x h⟩
  | hold _ _ => cases h
  | dies _ => cases h
  | fail _ => cases h

theorem witness_EnginesWork :
    (let c := { command 0 [5, 0x400200, 0xFFFE000000000000, 64] with staged := true, landing := [(1, List.replicate 32 9)], targets := [1] };
      Map.find (withCmd c).cmds 8 = some c ∧ c.staged = true ∧ c.landing = [(1, List.replicate 32 9)] ∧ (List.replicate 32 (9 : Byte)).length = 32 ∧
      ∃ w, Map.find (withCmd c).wgs c.wg = some w) ∧
    (let c := command 0 [5, 0xFFFE000000000000, 0x400200, 64];
      let s := withCmd c;
      Map.find s.cmds 8 = some c ∧ c.targets = [] ∧ c.staged = false ∧ ¬(c.major = 0x79 ∧ c.op = 4) ∧ cmdLength c.major c.op c.word ≠ 0 ∧
      ∃ s' x, s.cmdWork c = .ok s' x ∧ Stampable s' c x ∧ s'.mgmt.updating = none ∧ Map.find s'.ctxs c.asid = some oneContext) ∧
    (let c := command 4 [5, 0x400200, 0x400300, 4];
      let s := withCmd c;
      Map.find s.cmds 8 = some c ∧ c.finished = false ∧ s.commits = [] ∧ s.records = [] ∧ s.mgmt.updating = none ∧
      Map.find s.ctxs c.asid = some oneContext ∧ s.writable c.asid oneContext.faultq.toNat 64 = false ∧ c.major = 0x79 ∧ c.op = 4) :=
  ⟨⟨rfl, rfl, rfl, rfl, _, rfl⟩, ⟨rfl, rfl, rfl, by decide, by decide +kernel, got_then (f := fun s' x =>
      stampableB s' (command 0 [5, 0xFFFE000000000000, 0x400200, 64]) x && decide (s'.mgmt.updating = none ∧ Map.find s'.ctxs 1 = some oneContext))
      (by decide +kernel) (fun s' x h => ⟨stampable_of (Bool.and_eq_true _ _ ▸ h).1, of_decide_eq_true (Bool.and_eq_true _ _ ▸ h).2⟩)⟩,
    ⟨rfl, rfl, rfl, rfl, by decide +kernel, rfl, by decide +kernel, rfl, rfl⟩⟩

/-- A command's stores can be stamped and lie inside the address space. -/
def Storable (s : State) (c : Command) (ws : List (Nat × List Byte)) : Prop := Stampable s c (storesOf ws) ∧ ∀ x ∈ ws, x.1 + x.2.length ≤ 2 ^ 48
def storableB (s : State) (c : Command) (ws : List (Nat × List Byte)) : Bool :=
  stampableB s c (storesOf ws) && ws.all (fun x => decide (x.1 + x.2.length ≤ 2 ^ 48))
theorem storable_of {s : State} {c : Command} {ws : List (Nat × List Byte)} (h : storableB s c ws = true) : Storable s c ws := by
  simp only [storableB, Bool.and_eq_true, List.all_eq_true, decide_eq_true_eq] at h
  exact ⟨stampable_of h.1, h.2⟩

/-- A row command of two indexes into four rows of one word: each op's run. -/
def rowCommand (op : Nat) : Command :=
  match op with
  | 1 => { command 1 [5, 0x400200, 2, 0x400300, 0x400000004, 0x400500, 0, 0x400600] with flags := 4 }
  | 2 => command 2 [5, 0x400200, 0x100000002, 0x400300, 0x400000004, 0x400240, 0, 0x400500, 0, 0]
  | _ => command 3 [5, 0x400200, 2, 0x400300, 0x400000004, 0x400500, 0x400600]

/-- A row command's indexes are read, and all below T. -/
def Indexes (s : State) (c : Command) (p : State → List Nat → Prop) : Prop :=
  ∃ s1 ib, s.readRange c (c.word 1) (4 * (c.word 2 % 2 ^ 32)) = .ok s1 ib ∧ ib.length = 4 * (c.word 2 % 2 ^ 32) ∧ (∀ i ∈ wordsOf ib, i < 4) ∧
    p s1 (wordsOf ib)

def Rows (s : State) (c : Command) (l : List (Option Nat)) (p : State → List (List Byte) → Prop) : Prop :=
  ∃ s2 rows, State.readRanges c (rowRanges 4 l) s [] = .ok s2 rows ∧ p s2 rows

def row0 (c : Command) (i : Nat) : Option Nat := rowAt (c.flags / 2 % 4) 4 4 (c.word 3) 0 i

theorem indexes_of {s : State} {c : Command} {f : State → List Nat → Bool} {p : State → List Nat → Prop}
    (h : gotB (s.readRange c (c.word 1) (4 * (c.word 2 % 2 ^ 32)))
      (fun s1 ib => decide (ib.length = 4 * (c.word 2 % 2 ^ 32) ∧ ∀ i ∈ wordsOf ib, i < 4) && f s1 (wordsOf ib)) = true)
    (g : ∀ s x, f s x = true → p s x) : Indexes s c p :=
  got_then h (fun s1 ib h => by
    simp only [Bool.and_eq_true, decide_eq_true_eq] at h
    exact ⟨h.1.1, h.1.2, g _ _ h.2⟩)

theorem rows_of {s : State} {c : Command} {l : List (Option Nat)} {f : State → List (List Byte) → Bool} {p : State → List (List Byte) → Prop}
    (h : gotB (State.readRanges c (rowRanges 4 l) s []) f = true) (g : ∀ s x, f s x = true → p s x) : Rows s c l p := got_then h g

theorem running_of {s : State} {n : Nat} {c : Command} {op : Nat} (h : Map.find s.cmds n = some c ∧ c.major = 0x79 ∧ c.op = op ∧ c.staged = false ∧
    c.reservedBits = false) : Running s n c 0x79 op := ⟨h.1, ⟨h.2.1, h.2.2.1⟩, h.2.2.2.1, h.2.2.2.2⟩

theorem witness_EnginesMoveData :
    (let c := command 0 [5, 0x400200, 0x400400, 64];
      let s := withCmd c;
      isScratch 0x400200 = false ∧ CacheSorted s ∧ Running s 8 c 0x79 0 ∧ sourcesMeet (s.rangesOf c) false = false ∧ c.targets = [] ∧
      isScratch (c.word 2) = false ∧ c.word 3 ≠ 0 ∧
      ∃ s' bs, s.readRange c (c.word 1) (c.word 3) = .ok s' bs ∧ Storable s' c [(c.word 2, bs)]) ∧
    (let c := command 0 [5, 0x400200, 0xFFFE000000000000, 64];
      let s := withCmd c;
      Running s 8 c 0x79 0 ∧ sourcesMeet (s.rangesOf c) false = false ∧ isScratch (c.word 2) = true ∧ scrOff (c.word 2) % 32 = 0 ∧
      c.word 3 % 32 = 0 ∧ ∃ s' bs, s.readRange c (c.word 1) (c.word 3) = .ok s' bs ∧ (bs.length = c.word 3 ∧ (Map.find s'.wgs c.wg).isSome = true)) ∧
    (∀ op ∈ [1, 2, 3], let c := rowCommand op; let s := withCmd c;
      Running s 8 c 0x79 op ∧ sourcesMeet (s.rangesOf c) false = false ∧ c.targets = [] ∧ c.word 4 % 2 ^ 32 = 4 ∧ c.word 4 / 2 ^ 32 = 4 ∧
      c.word 2 % 2 ^ 32 = 2) ∧
    ((rowCommand 1).flags / 2 % 4 = 2 ∧ (rowCommand 3).flags / 2 % 4 ≠ 1 ∧ isScratch ((rowCommand 1).word 5) = false) ∧
    (let c := rowCommand 1;
      Indexes (withCmd c) c (fun s1 idx => Rows s1 c (idx.map (row0 c)) (fun s2 rows => Storable s2 c
        (((upto 2).filter (fun j => (row0 c (idx.getD j 0)).isSome)).map (fun j => (c.word 5 + j * 4, rows.getD j [])) ++ countStore (c.word 7) 4 idx)))) ∧
    (let c := rowCommand 3;
      Indexes (withCmd c) c (fun s1 idx => ∃ s2 src, s1.readRange c (c.word 5) (2 * 4) = .ok s2 src ∧ Storable s2 c
        ((upto 2).filterMap (fun j => (row0 c (idx.getD j 0)).map (fun a => (a, (src.drop (j * 4)).take 4))) ++ countStore (c.word 6) 4 idx))) ∧
    (let c := rowCommand 2;
      c.word 2 / 2 ^ 32 = 1 ∧ c.word 6 = 0 ∧ ∃ s0 ob, (withCmd c).readRange c (c.word 5) (4 * (c.word 2 / 2 ^ 32)) = .ok s0 ob ∧
        (ob.length = 4 ∧ (wordsOf ob).getD 0 0 = 0) ∧
        Indexes s0 c (fun s1 idx => Rows s1 c (idx.map (row0 c)) (fun s2 rows => ∃ s3 wb, s2.readRange c (c.word 6) 0 = .ok s3 wb ∧ rows.length = 2 ∧
          Storable s3 c [(c.word 7, toBytes 4 ((upto 2).foldl (fun acc j =>
            (ffma .f32 RoundCtx.rn (unpack .f32 0x3F800000) (unpack .f32 ((wordsOf (rows.getD j [])).getD 0 0)) (unpack .f32 acc)).1) 0x80000000))]))) := by
  refine ⟨⟨by decide, cacheSorted_of (by decide +kernel), running_of ⟨rfl, rfl, rfl, rfl, by decide +kernel⟩, by decide +kernel, rfl,
    by decide, by decide, got_then (f := fun s' bs => storableB s' (command 0 [5, 0x400200, 0x400400, 64]) [(0x400400, bs)]) (by decide +kernel)
      (fun _ _ h => storable_of h)⟩,
    ⟨running_of ⟨rfl, rfl, rfl, rfl, by decide +kernel⟩, by decide +kernel, by decide, by decide, by decide, got_of (by decide +kernel)⟩, ?_,
    by decide, ?_, ?_, ⟨by decide, by decide, ?_⟩⟩
  · intro op m
    have n : ∀ op ∈ [1, 2, 3], (rowCommand op).op = op ∧ (rowCommand op).reservedBits = false ∧
      sourcesMeet ((withCmd (rowCommand op)).rangesOf (rowCommand op)) false = false ∧ (rowCommand op).major = 0x79 ∧
      (rowCommand op).staged = false ∧ (rowCommand op).targets = [] ∧ (rowCommand op).word 4 % 2 ^ 32 = 4 ∧ (rowCommand op).word 4 / 2 ^ 32 = 4 ∧
      (rowCommand op).word 2 % 2 ^ 32 = 2 := by decide +kernel
    have k := n op m
    exact ⟨running_of ⟨rfl, k.2.2.2.1, k.1, k.2.2.2.2.1, k.2.1⟩, k.2.2.1, k.2.2.2.2.2⟩
  · exact indexes_of (f := fun s1 idx => gotB (State.readRanges (rowCommand 1) (rowRanges 4 (idx.map (row0 (rowCommand 1)))) s1 []) (fun s2 rows =>
      storableB s2 (rowCommand 1) (((upto 2).filter (fun j => (row0 (rowCommand 1) (idx.getD j 0)).isSome)).map (fun j =>
        ((rowCommand 1).word 5 + j * 4, rows.getD j [])) ++ countStore ((rowCommand 1).word 7) 4 idx)))
      (by decide +kernel) (fun _ _ h => rows_of h (fun _ _ h => storable_of h))
  · exact indexes_of (f := fun s1 idx => gotB (s1.readRange (rowCommand 3) ((rowCommand 3).word 5) (2 * 4)) (fun s2 src => storableB s2 (rowCommand 3)
      ((upto 2).filterMap (fun j => (row0 (rowCommand 3) (idx.getD j 0)).map (fun a => (a, (src.drop (j * 4)).take 4)))
        ++ countStore ((rowCommand 3).word 6) 4 idx)))
      (by decide +kernel) (fun _ _ h => got_then h (fun _ _ h => storable_of h))
  · exact got_then (f := fun s0 ob => decide (ob.length = 4 ∧ (wordsOf ob).getD 0 0 = 0) &&
        gotB (s0.readRange (rowCommand 2) ((rowCommand 2).word 1) (4 * ((rowCommand 2).word 2 % 2 ^ 32))) (fun s1 ib =>
          decide (ib.length = 4 * ((rowCommand 2).word 2 % 2 ^ 32) ∧ ∀ i ∈ wordsOf ib, i < 4) &&
          gotB (State.readRanges (rowCommand 2) (rowRanges 4 ((wordsOf ib).map (row0 (rowCommand 2)))) s1 []) (fun s2 rows =>
            gotB (s2.readRange (rowCommand 2) ((rowCommand 2).word 6) 0) (fun s3 _ => decide (rows.length = 2) &&
              storableB s3 (rowCommand 2) [((rowCommand 2).word 7, toBytes 4 ((upto 2).foldl (fun acc j =>
                (ffma .f32 RoundCtx.rn (unpack .f32 0x3F800000) (unpack .f32 ((wordsOf (rows.getD j [])).getD 0 0)) (unpack .f32 acc)).1) 0x80000000))]))))
      (by decide +kernel) (fun _ _ h => by
        rw [Bool.and_eq_true, decide_eq_true_eq] at h
        refine ⟨h.1, indexes_of (f := fun s1 idx => gotB (State.readRanges (rowCommand 2) (rowRanges 4 (idx.map (row0 (rowCommand 2)))) s1 [])
          (fun s2 rows => gotB (s2.readRange (rowCommand 2) ((rowCommand 2).word 6) 0) (fun s3 _ => decide (rows.length = 2) && storableB s3 (rowCommand 2)
            [((rowCommand 2).word 7, toBytes 4 ((upto 2).foldl (fun acc j => (ffma .f32 RoundCtx.rn (unpack .f32 0x3F800000)
              (unpack .f32 ((wordsOf (rows.getD j [])).getD 0 0)) (unpack .f32 acc)).1) 0x80000000))]))) h.2
          (fun _ _ h => rows_of h (fun _ _ h => got_then h (fun _ _ h => ?_)))⟩
        rw [Bool.and_eq_true, decide_eq_true_eq] at h
        exact ⟨h.1, storable_of h.2⟩)

/-- A group of three, this device rank 0, a peer's call come early; a call of it. -/
def trio : Group :=
  { p := 3, own := 0, key := 0, ranks := [(0, 1), (1, 2), (2, 3)], calls := 0
    early := [{ call := 0, rank := 1, flags := 0, count := 4, root := 0, values := [1, 2, 3, 4] }], reported := [] }
def trioCall (staged : Bool) (values : Map (List Word)) : Command :=
  { command 4 [5, 0x400200, 0x400300, 4] with staged := staged, values := values }
def withGroup (c : Command) : State :=
  { withCmd c with groups := [(0, trio)], ports := [⟨true, 0⟩] }

theorem witness_Collectives :
    (let c := trioCall false [];
      let s := withGroup c;
      Map.find s.groups 0 = some trio ∧ s.linked = true ∧ s.callOf 0 1 = none ∧ trio.calls < 1 ∧ 1 < trio.p ∧ 1 ≠ trio.own ∧ trio.own = 0 ∧
      s.callOf 0 0 = some (8, c) ∧ c.finished = false ∧ Map.find c.values trio.own = none ∧ Map.find s.cmds 8 = some c ∧ c.major = 0x79 ∧
      c.op = 4 ∧ s.groupOf c = some trio ∧ c.group = 0 ∧ c.targets = [] ∧ c.reservedBits = false ∧ s.colCheck c (s.rangesOf c) = none ∧
      (∃ s' bs, s.readRange c (c.word 1) (4 * c.word 3) = .ok s' bs ∧ True) ∧
      ∃ m, trio.early.filter (fun x => x.call == c.call) = [m] ∧ c.meetsCall m = true ∧ m.rank ≠ trio.own) ∧
    (let c := trioCall true [(0, [1, 2, 3, 4])];
      (withGroup c).callOf 0 0 = some (8, c) ∧ Map.find c.values trio.own ≠ none ∧
      (0 / 2 = c.flags / 2 ∧ 4 = c.word 3 ∧ 0 = c.word 0 / 2 ^ 32 % 2 ^ 16) ∧ ¬(5 = c.word 3)) ∧
    (let c := trioCall true [(0, [1, 2, 3, 4]), (1, [1, 2, 3, 4]), (2, [1, 2, 3, 4])];
      let s := withGroup c;
      Map.find s.cmds 8 = some c ∧ s.groupOf c = some trio ∧ c.staged = true ∧ c.word 3 ≠ 0 ∧
      Stampable s c (storesOf [(c.word 2, (colResult (c.flags / 2 % 4) (c.flags / 8 % 4) (c.word 3) trio.p trio.own
        (c.word 0 / 2 ^ 32 % 2 ^ 16) c.values).flatMap (toBytes 4))])) :=
  ⟨⟨rfl, by decide +kernel, by decide +kernel, by decide, by decide, by decide, rfl, by decide +kernel, rfl, rfl, rfl, rfl, rfl, by decide +kernel,
      by decide +kernel, rfl, by decide +kernel, by decide +kernel, got_of (by decide +kernel), _, rfl, by decide +kernel, by decide⟩,
    ⟨by decide +kernel, by decide +kernel, by decide +kernel, by decide +kernel⟩,
    ⟨rfl, by decide +kernel, rfl, by decide, stampable_of (by decide +kernel)⟩⟩

/-! ### Hypotheses met: workgroups, paging, faults, power -/

/-- A launch of one workgroup's record. -/
def launchOf (drills : Nat) : Launch :=
  { oneLaunch with record := { recordOf goodRecord with drills := drills }, next := 0, ended := 0, started := false, eligible := false }
/-- Its context. -/
def roomy : Context :=
  { oneContext with queues := [(0, [4])], poolBase := 0x10000000, poolLen := 0x10000000, privBase := 0x80000000, privLen := 0x200000000, mask := 6 }
def queued (drills : Nat) : State :=
  { two drill with drills := [], wgs := [], launches := [(4, launchOf drills)], ctxs := [(1, roomy)], nextJsn := 5 }
theorem pass_of {r : HeadCheck} {p : State → Prop} [∀ s, Decidable (p s)]
    (h : (match r with | .pass s => decide (p s) | _ => false) = true) : ∃ s, r = .pass s ∧ p s := by
  cases r with
  | pass s => exact ⟨s, rfl, of_decide_eq_true h⟩
  | fail _ => cases h
  | hold _ => cases h
  | dies _ => cases h

theorem single_of {α : Type} {l : List α} {p : α → Bool} (h : l.length = 1 ∧ l.all p = true) : ∃ x, l = [x] ∧ p x = true := by
  obtain ⟨x, rfl⟩ := List.length_eq_one_iff.mp h.1
  exact ⟨x, rfl, by simpa using h.2⟩

theorem opt_of {α : Type} {r : Option α} {p : α → Prop} [∀ x, Decidable (p x)]
    (h : (match r with | some x => decide (p x) | none => false) = true) : ∃ x, r = some x ∧ p x := by
  cases r with
  | some x => exact ⟨x, rfl, of_decide_eq_true h⟩
  | none => cases h

theorem witness_WorkgroupsArePlaced :
    (queued 2).mgmt.updating = none ∧ (∃ x, (queued 2).lookHeads.cands = [x] ∧ (x.saved.isNone && x.jsn == 4) = true) ∧
    ∃ s1, (queued 2).lookHeads.headCheck 4 = .pass s1 ∧
      (((Map.find s1.launches 4).map (fun l => l.record.cooperative) = some false) ∧ (s1.tryPlace 4).isSome = true) :=
  ⟨by decide +kernel, single_of (by decide +kernel), pass_of (by decide +kernel)⟩

/-- A saved workgroup of one drill, its area in the plot of the code. -/
def savedWg : Workgroup := { oneWorkgroup with state := .saved, area := 0x408000, areaLen := 5376 }
def saved (m : Memory) : State :=
  { two drill with drills := [], wgs := [(0, savedWg)], launches := [(1, { launchOf 1 with next := 1 })], bulk := m }
/-- Its image: counts and launch, and of the drill its PC, mask and LIMIT. -/
def image : Memory :=
  let at0 := addrCode 0 0 1 0x408000
  putAll (putAll (two drill).bulk (at0 + 12) (toBytes 4 1 ++ toBytes 8 1)) (at0 + 1280) (toBytes 8 0x400000 ++ toBytes 8 1 ++ toBytes 40 0 ++ toBytes 8 (2 ^ 31))

theorem plot_near (s : State) {k : Nat} (h : k < 16384) : s.plotOf 1 (0x408000 + k) = s.plotOf 1 0x408000 := by
  have e1 : (0x408000 + k) / 2 ^ 37 % 2048 = 0x408000 / 2 ^ 37 % 2048 := by omega
  have e2 : (0x408000 + k) / 2 ^ 27 % 1024 = 0x408000 / 2 ^ 27 % 1024 := by omega
  have e4 : keyOf 1 (0x408000 + k) = keyOf 1 0x408000 := by unfold keyOf; split <;> split <;> first | rfl | omega
  have e5 : (0x408000 + k) / 65536 = 0x408000 / 65536 := by omega
  simp only [State.plotOf, State.plotWalk, e1, e2, e4, e5]

theorem savedBytes_near (s : State) {n : Nat} (h : n ≤ 16384) (p : s.plotOf 1 0x408000 = .desc codeDesc) :
    s.savedBytes 1 0x408000 n = (upto n).map (fun k => s.seen codeDesc (locate codeDesc 1 (0x408000 + k))) := by
  unfold State.savedBytes
  refine List.map_congr_left (fun k m => ?_)
  have hk : k < n := by simpa [upto] using m
  have key : keyOf 1 (0x408000 + k) = 1 := by unfold keyOf; split <;> first | rfl | omega
  simp only [plot_near s (by omega : k < 16384), p, key, show descValid codeDesc = true from by decide, if_true]

theorem same_of {r : Got Unit} {s : State} (h : (match r with | .ok t _ => decide (t = s) | _ => false) = true) : r = .ok s () := by
  cases r with
  | ok t _ => cases of_decide_eq_true h; rfl
  | _ => cases h

/-- A resident workgroup of one drill that has issued in its chunk, with its save area in the plot of the code. -/
def stopWg : Workgroup := { savedWg with state := .resident }
def stopLaunch : Launch := { launchOf 1 with next := 1 }
def stopDrill : Drill :=
  let d := Drill.placed stopLaunch.record 0 0 1 1 0 0
  { d with regs := { d.regs with pc := 0x400008, v := [(3, 7)] }, chunk := { d.chunk with units := 2 } }
def stopState : State := { held base e0 stopDrill with wgs := [(0, stopWg)], launches := [(1, stopLaunch)] }

theorem witness_WorkgroupsStopAndResume :
    (let s := stopState;
      let image := { stopWg with spoiled := s.imageFails 0 stopWg }.image stopLaunch.record [] [{ stopDrill with regs := stopDrill.chunk.start }];
      s.mgmt.updating = none ∧ Map.sorted s.drills = true ∧ Map.find s.wgs 0 = some stopWg ∧ stopWg.state = .resident ∧ Map.find s.drills 0 = some stopDrill ∧
      s.drillsOf 0 = [(0, stopDrill)] ∧ stopDrill.older = none ∧ stopDrill.wait = .none ∧ stopDrill.chunk.after.isSome = false ∧ s.cmds = [] ∧
      Map.find s.launches stopWg.launch = some stopLaunch ∧ s.poolReady stopWg (stopLaunch.record.areaBytes stopWg.size 1) = .ok s () ∧
      image.length = stopLaunch.record.areaBytes stopWg.size 1 ∧ stopWg.area + image.length ≤ 2 ^ 48 ∧ stopWg.asid < 2 ^ 16 ∧ s.bad = [] ∧
      CacheSorted s ∧ Memory.wf s.bulk = true ∧
      (∀ b x, b < image.length → s.plotOf stopWg.asid (stopWg.area + b) = .desc x →
        s.headerBad x (grainBase x (locate x (keyOf stopWg.asid (stopWg.area + b)) (stopWg.area + b))) = false) ∧
      stopWg.nbar = stopLaunch.record.barriers ∧ stopDrill.nv = stopLaunch.record.nv) ∧
    (let s := saved image;
      s.mgmt.updating = none ∧ Map.find s.wgs 0 = some savedWg ∧ savedWg.state = .saved ∧ s.coopWg savedWg = false ∧
      Map.find s.launches savedWg.launch = some { launchOf 1 with next := 1 } ∧ (s.resumeAtCore 0 savedWg).isSome = true ∧ s.poolsReady 0 savedWg = .ok s () ∧
      (restore (launchOf 1).record savedWg 0 s.nextOrder (s.savedBytes 1 savedWg.area ((launchOf 1).record.areaBytes 0 1))).isSome = true) ∧
    (let s := saved (two drill).bulk;
      (s.resumeAtCore 0 savedWg).isSome = true ∧ s.poolsReady 0 savedWg = .ok s () ∧ (launchOf 1).failed = none ∧ s.inReplay { launchOf 1 with next := 1 } = false ∧
      (restore (launchOf 1).record savedWg 0 s.nextOrder (s.savedBytes 1 savedWg.area ((launchOf 1).record.areaBytes 0 1))).isNone = true) ∧
    (let w := { oneWorkgroup with nbar := Config.barriersPerCore };
      let l := { launchOf 1 with asid := 2, eligible := true, record := { (launchOf 1).record with barriers := 1 } };
      let c := { roomy with mask := 1 };
      let s := { two drill with clock := sliceClocks, wgs := [(0, w)], launches := [(1, oneLaunch), (4, l)], ctxs := [(1, oneContext), (2, c)] };
      s.mgmt.updating = none ∧ (∃ x, serviceOrder s.cands = [x] ∧ (x.saved.isNone && x.jsn == 4 &&
        x.asid == 2 && s.prioOfWg w == x.prio) = true) ∧
      l.waiting + sliceClocks ≤ s.clock ∧ Map.find s.launches 4 = some l ∧ Map.find s.ctxs 2 = some c ∧ l.record.cooperative = false ∧ (s.tryPlace 4).isNone = true ∧
      ((s.without [0]).tryPlace 4).isSome = true ∧ l.cores c = [0] ∧ w.core = 0 ∧ w.state = .resident ∧ w.asid ≠ 2 ∧ s.policyOf w = 0 ∧ w.since + sliceClocks ≤ s.clock ∧
      s.coopWg w = false) :=
  ⟨⟨by decide +kernel, by decide +kernel, rfl, rfl, rfl, by decide +kernel, rfl, rfl, rfl, rfl, rfl, same_of (by decide +kernel), by decide +kernel,
      by decide +kernel, by decide, rfl, cacheSorted_of (by decide +kernel), by decide +kernel, fun b x hb hx => by
        have hb' : b < 16384 := lt_trans hb (by decide +kernel)
        have e : stopState.plotOf 1 0x408000 = .desc codeDesc := by decide +kernel
        have h : PlotRes.desc x = .desc codeDesc := hx.symm.trans ((plot_near stopState hb').trans e)
        cases h
        unfold State.headerBad
        rw [show descG codeDesc = false from by decide, Bool.false_and, Bool.false_and], by decide +kernel, by decide +kernel⟩,
    ⟨by decide +kernel, rfl, rfl, by decide +kernel, rfl, by decide +kernel, same_of (by decide +kernel), by
      rw [show savedWg.area = 0x408000 from rfl, savedBytes_near _ (by decide) (by decide +kernel)]; decide +kernel⟩,
    ⟨by decide +kernel, same_of (by decide +kernel), rfl, by decide +kernel, by decide +kernel⟩,
    ⟨by decide +kernel, single_of (by decide +kernel), by decide, rfl, rfl, by decide +kernel, by decide +kernel, by decide +kernel, by decide +kernel, rfl, rfl, by decide,
      by decide +kernel, by decide +kernel, by decide +kernel⟩⟩

theorem witness_WorkgroupsAndLaunchesEnd :
    (let s := { two drill with wgs := [(0, { oneWorkgroup with state := .draining })] };
      Map.find s.wgs 0 = some { oneWorkgroup with state := .draining } ∧ Map.find s.launches 1 = some oneLaunch ∧ s.cmds = [] ∧
      Map.sorted s.drills = true ∧ (s.drillsOf 0).all (fun x => x.2.sent = false) = true) ∧
    (let l := { oneLaunch with ended := 1 };
      let s := { two drill with launches := [(1, l)] };
      Map.find s.launches 1 = some l ∧ l.next ≤ l.ended ∧ s.mgmt.updating = none ∧ Map.find s.ctxs l.asid = some oneContext ∧ l.failed = none ∧
      l.record.total ≤ l.next ∧ l.record.turn = false ∧ { l with failed := some 7 }.failed = some 7 ∧
      { l.record with nosig := false }.nosig = false) :=
  ⟨⟨rfl, rfl, rfl, by decide +kernel, by decide +kernel⟩,
    ⟨rfl, by decide, by decide +kernel, rfl, rfl, by decide, rfl, rfl, rfl⟩⟩

/-- A page of context 1 not mapped yet, then mapped with its bytes in backing memory. -/
def page8 : Page := { a := addrCode 0 0 1 0x800000, large := false }
def backed : State :=
  let s := (two drill).mapPage page8 none 0x100005
  { s with backing := [(backingAt 0x100005 + 3, 9)], mgmt := { s.mgmt with bsrc := [(1, (0, 100))] }, ports := [⟨true, 0⟩] }
def demand : Demand := { home := 0, table := 0, key := 1, la := 0x800000, retried := false, askers := [] }
def demanded (x : Demand) : State := { backed with demands := [(3, x)], drills := [(0, { drill with wait := .page 3 })] }

theorem witness_PagingAgent :
    (∀ x ∈ [demand, { demand with retried := true }], let s := demanded x;
      Map.find s.demands 3 = some x ∧ s.mgmt.updating = none ∧ s.firstDemand x.home = some 3 ∧ s.walk x.code = .page false false 0x100005 ∧
      s.commits = [] ∧ s.records = []) ∧ demand.retried = false ∧
    ((demanded demand).home demand.home).gated = false ∧ (0x100005 : Nat) ≠ 0xFFFFFF ∧ (demanded demand).locValid 0x100005 = true ∧ (demanded demand).linked = true ∧
    (∃ f, (demanded demand).freeFrame 0 ((demanded demand).pageAt demand.code).frames = some f ∧ True) ∧
    (demanded demand).hasEntries ((demanded demand).pageAt demand.code) = false ∧
    (∃ e, Map.find (demanded demand).drills 0 = some e ∧ e.wait = .page 3 ∧ e.asid = 1 ∧ (Map.find (demanded demand).ctxs 1).isSome = true) ∧
    (let s := { demanded demand with drills := [] };
      (s.home 0).dsb = [] ∧ s.drills = [] ∧ (∀ w ∈ s.wgs, w.2.waitsFor = none) ∧ demand.askers = []) ∧
    (let s := { demanded { demand with askers := [.engine 8, .drill 0 0] } with cmds := [(8, command 0 [5, 0x400200, 0x400300, 4])], drills := [(0, { drill with wait := .room })] };
      s.asks (s.pageAt demand.code) (.engine 8) = some 1 ∧ s.asks (s.pageAt demand.code) (.drill 0 0) = some 1) :=
  ⟨by decide +kernel, rfl, by decide +kernel, by decide, by decide +kernel, by decide +kernel, opt_of (by decide +kernel), by decide +kernel,
    ⟨_, rfl, rfl, rfl, rfl⟩, by decide +kernel, by decide +kernel⟩

/-- A plot's descriptor that may migrate, and the table with it. -/
def movable : DWord := withHome (codeDesc ||| 0x100000) 0
def withPlot : State :=
  let s := two drill
  let s := { s with bulk := putAll s.bulk (addrCode 0 0 0 (leafNode + 8 * 0x50)) (toBytes 8 movable.toNat) }
  (State.mapParts (plotParts 1 0x50 0) s).getD s

theorem witness_MovesKeepEveryByte :
    (let s := { two drill with newer := [(addrCode 0 0 1 0x400104, 9)] };
      (∃ large loc, s.walk (addrCode 0 0 1 0x400000) = .page true large loc) ∧ CacheSorted s ∧ (s.home 0).gated = false ∧
      ∃ f, s.freeFrame (s.pageAt (addrCode 0 0 1 0x400000)).home (s.pageAt (addrCode 0 0 1 0x400000)).frames = some f ∧ True) ∧
    (withPlot.plotOf 1 (0x50 * 65536) = .desc movable ∧ descValid movable = true ∧ descM movable = true ∧ 3 ≠ dfield movable 16 4 ∧
      withPlot.plotQuiet 1 0x50 = true ∧ ((plotParts 1 0x50 (dfield movable 16 4) ++ plotParts 1 0x50 3).all (fun x =>
        !(withPlot.home (codeHome x.1)).gated && (match withPlot.walk x.1 with | .page false _ _ => false | _ => true)) = true) ∧
      ((plotParts 1 0x50 (dfield movable 16 4)).all (fun x => match withPlot.walk x.1 with | .page true _ _ => true | _ => false) = true) ∧
      withPlot.unknownPlot ((plotParts 1 0x50 (dfield movable 16 4)).map (fun x => withPlot.pageAt x.1)) = none ∧
      (∃ s1, State.mapParts (plotParts 1 0x50 3) withPlot = some s1 ∧ (s1.carryPlot 1 0x50 movable 3).newRoom (plotParts 1 0x50 3) = true) ∧ CacheSorted withPlot ∧ Memory.wf withPlot.bulk = true) ∧
    (3 ∉ ((two drill).home 0).retired ∧ ((two drill).home 0).retired.length < 8 ∧ CacheSorted (two drill)) :=
  ⟨⟨page_of (by decide +kernel), cacheSorted_of (by decide +kernel), by decide +kernel, opt_of (by decide +kernel)⟩,
    ⟨by decide +kernel, by decide +kernel, by decide +kernel, by decide +kernel, by decide +kernel, by decide +kernel, by decide +kernel,
      by decide +kernel, opt_of (by decide +kernel), cacheSorted_of (by decide +kernel), by decide +kernel⟩,
    ⟨by decide +kernel, by decide +kernel, cacheSorted_of (by decide +kernel)⟩⟩

/-- A write of a grain of the page that is nowhere yet. -/
def farWrite : GrainWrite :=
  { grainWrite with addr := addrCode 0 0 1 0x800100, va := 0x800100, attrs := [{ Attr.device with kind := 1 }] }
def farState : State := { backed with commits := [{ commitOf Sig.empty with grains := [farWrite], homes := [0] }] }
/-- That write deferred, its page demanded. -/
def farDeferred : State :=
  let s := demanded demand
  { s with homes := Map.set s.homes 0 { s.home 0 with dsb := [{ csn := 2, write := farWrite, copies := 2 }] } }
/-- A context whose fault queue lies in the code's plot, with its WRITE. -/
def queueContext : Context := { oneContext with faultq := 0x408000 }
def queueState (write : Nat) : State :=
  { two drill with cmds := [(8, command 0 [5, 0x400200, 0x400300, 4])], ctxs := [(1, queueContext)]
                   bulk := putAll (putAll (two drill).bulk (addrCode 0 0 1 0x408000) (toBytes 8 write)) (addrCode 0 0 1 0x408010) (toBytes 4 16) }

theorem farWrite_plain : farWrite.Plain where
  payload := ⟨by decide +kernel, rfl⟩
  unglazed := by decide +kernel
  size := by decide +kernel
  bytes := ⟨by decide +kernel, by decide⟩
  attrs := fun q h => by
    obtain rfl : q = 0 := by have : farWrite.size = 32 := rfl; omega
    decide +kernel

theorem witness_PagingAgentDeferred :
    Map.find farDeferred.demands 3 = some demand ∧ farDeferred.commits = [] ∧
      ∃ e ∈ (farDeferred.home 0).dsb, (farDeferred.pageAt demand.code).has e.write.addr = true ∧ e.write.asid = 1 :=
  ⟨rfl, rfl, _, List.mem_singleton.mpr rfl, by decide +kernel, rfl⟩

theorem queue_plain (s : State) (p : s.plotOf 1 0x408000 = .desc codeDesc) (g : (s.home 0).gated = false) (a : Nat) (d : DWord)
    (h : (0x408000 ≤ a ∧ a < 0x408000 + 64) ∨ (0x408040 ≤ a ∧ a < 0x408040 + 64)) (e : s.plotOf 1 a = .desc d) :
    descG d = false ∧ descM d = false ∧ (s.home (codeHome (locate d (keyOf 1 a) a))).gated = false := by
  obtain ⟨k, rfl⟩ : ∃ k, a = 0x408000 + k := ⟨a - 0x408000, by omega⟩
  rw [plot_near s (by omega), p] at e
  cases e
  have home : codeHome (locate codeDesc (keyOf 1 (0x408000 + k)) (0x408000 + k)) = 0 := by
    have key : keyOf 1 (0x408000 + k) = 1 := by unfold keyOf; split <;> first | rfl | omega
    rw [key]
    unfold locate addrCode codeHome
    rw [if_pos (by decide), show dfield codeDesc 16 4 = 0 from by decide]
    omega
  rw [home]
  exact ⟨by decide, by decide, g⟩

theorem witness_DeferredStoresAndFaultRecords :
    ((∃ c, farState.commits = [c] ∧ 0 ∈ c.homes ∧ c.grains = [farWrite] ∧ c.drops = [] ∧ c.lastUse = []) ∧ codeHome farWrite.addr = 0 ∧
      farWrite.Plain ∧ farState.defers farWrite = true ∧ farState.walk farWrite.addr = .page false false 0x100005 ∧
      farState.isDead farWrite.asid = false) ∧
    (let s := farDeferred;
      Map.find s.demands 3 = some demand ∧ s.mgmt.updating = none ∧ s.firstDemand demand.home = some 3 ∧
      s.walk demand.code = .page false false 0x100005 ∧ (s.home demand.home).gated = false ∧ s.locValid 0x100005 = true ∧ s.linked = true ∧
      (∃ f, s.freeFrame (s.pageAt demand.code).home (s.pageAt demand.code).frames = some f ∧ True) ∧ CacheSorted s ∧
      Memory.wf s.bulk = true ∧ Memory.wf s.backing = true ∧ s.bad = [] ∧
      (s.home (s.pageAt demand.code).home).dsb.filter (fun e => (s.pageAt demand.code).has e.write.addr) =
        [{ csn := 2, write := farWrite, copies := 2 }]) ∧
    (∀ w ∈ [(0, 0), (16, 16)], let s := queueState w.1;
      (∃ c, Map.find s.cmds 8 = some c ∧ c.finished = false ∧ c.asid = 1) ∧ Map.find s.ctxs 1 = some queueContext ∧ s.commits = [] ∧
      s.records = [] ∧ s.solos = [] ∧ s.bad = [] ∧ CacheSorted s ∧ queueContext.faultq.toNat = 0x408000 ∧ s.numberAt 1 0x408010 4 = 16 ∧
      s.numberAt 1 0x408008 8 = 0 ∧ s.numberAt 1 0x408000 8 = w.1 ∧ s.writable 1 0x408000 64 = true ∧ s.writable 1 0x408040 64 = true ∧
      ∀ a d, (0x408000 ≤ a ∧ a < 0x408000 + 64) ∨ (0x408040 ≤ a ∧ a < 0x408040 + 64) → s.plotOf 1 a = .desc d →
        descG d = false ∧ descM d = false ∧ (s.home (codeHome (locate d (keyOf 1 a) a))).gated = false) ∧
    (16 : Nat) % 16 = 0 ∧ (0 + 2 ^ 64 - 0) % 2 ^ 64 < 16 ∧ 16 ≤ (16 + 2 ^ 64 - 0) % 2 ^ 64 := by
  have num : ∀ w ∈ [(0, 0), (16, 16)], let s := queueState w.1;
      s.numberAt 1 0x408010 4 = 16 ∧ s.numberAt 1 0x408008 8 = 0 ∧ s.numberAt 1 0x408000 8 = w.1 ∧ s.writable 1 0x408000 64 = true ∧
      s.writable 1 0x408040 64 = true ∧ s.plotOf 1 0x408000 = .desc codeDesc ∧ (s.home 0).gated = false ∧
      (Map.sorted s.newer && s.homes.all (fun c => c.2.lines.isEmpty)) = true := by decide +kernel
  refine ⟨⟨⟨_, rfl, by decide, rfl, rfl, rfl⟩, by decide +kernel, farWrite_plain, by decide +kernel, by decide +kernel, by decide +kernel⟩,
    ⟨rfl, by decide +kernel, by decide +kernel, by decide +kernel, by decide +kernel, by decide +kernel, by decide +kernel,
      opt_of (by decide +kernel), cacheSorted_of (by decide +kernel), by decide +kernel, by decide +kernel, by decide +kernel, by decide +kernel⟩,
    fun w m => ?_, by decide, by decide, by decide⟩
  obtain ⟨n1, n2, n3, n4, n5, n6, ng, n7⟩ := num w m
  exact ⟨⟨_, rfl, rfl, rfl⟩, rfl, rfl, rfl, rfl, rfl, cacheSorted_of n7, rfl, n1, n2, n3, n4, n5, queue_plain _ n6 ng⟩

/-- The device ready, with one port linked. -/
def ready : State := { two drill with mgmt := { Mgmt.reset with bring := 6, spares := [(0, 1)] }, ports := [{ up := true, drops := 0 }], nextJsn := 6 }

theorem witness_ErrorsPortsAndPower :
    Map.find ready.drills 0 = some drill ∧ drill.older = none ∧ (ready.core 0).absent = false ∧ (ready.core 0).repair = 0 ∧
    ready.spareLeft 0 = true ∧ ready.coreIdle 0 = false ∧ ready.ports[0]? = some { up := true, drops := 0 } ∧
    ({ ready with ports := [{ up := false, drops := 3 }] } : State).ports[0]? = some { up := false, drops := 3 } ∧
    (let s := { ready with mgmt := { ready.mgmt with pwrcap := 100, share := 3 } };
      1 ≤ s.mgmt.share ∧ s.mgmt.share ≤ 16 ∧ s.mgmt.pwrcap ≠ 0 ∧ s.mgmt.pwrcap < 101 ∧ 100 * 94 < 95 * s.mgmt.pwrcap) ∧
    (∃ w, Map.find ready.wgs 0 = some w ∧ w.core = 0 ∧ w.state ≠ .saved ∧ ready.coopWg w = false) ∧
    (drill.between = false ∧ { drill with wait := .exiting }.between = true) ∧
    (let s := { ready with cores := [(0, { Core.reset with l1 := cleanL1, plots := [(7, 0)], glaze := [(9, GMap.identity)] })] };
      (s.core 0).l1[1]? = cleanL1[1]? ∧ (cleanL1[1]?).isSome = true ∧ (s.core 0).plots.length = 1 ∧ (s.core 0).glaze[1 - 1]? = some (9, GMap.identity)) ∧
    (((farDeferred.home 0).dsb[0]?).map (fun e => e.copies) = some 2 ∧ ({ csn := 2, write := farWrite, copies := 1 } : Deferred).copies ≤ 1 ∧
      Map.find farDeferred.ctxs farWrite.asid = some oneContext) ∧
    (5 * 2 ^ 55 + 1 * 2 ^ 39) / 2 ^ 39 % 65536 = 1 ∧ Map.find ready.ctxs 1 = some oneContext ∧
    (let s := { ready with wgs := [] };
      (s.core 0).absent = false ∧ (s.core 0).repair = 0 ∧ s.spareLeft 0 = true ∧ s.coreIdle 0 = true ∧ Map.sorted s.cores = true) ∧
    (95 ≤ (100 : Nat) ∧ 95 * 100 ≤ 100 * 95) :=
  ⟨rfl, rfl, by decide +kernel, by decide +kernel, by decide +kernel, by decide +kernel, rfl, rfl, by decide +kernel,
    ⟨_, rfl, rfl, by decide, by decide +kernel⟩, by decide +kernel, by decide +kernel, ⟨by decide +kernel, by decide, by decide +kernel⟩,
    by decide, by decide +kernel, by decide +kernel, by decide⟩

/-! ### Hypotheses met: Mirem -/

/-- Sessions of each class under one key, and a message under it. -/
def sess (c : Nat) : Session := { cls := c, key := 0x55, group := 0, fails := 0, badTags := 0, dropped := 0, done := [] }
def hostS : State :=
  { ready with sessions := [(1, sess 0), (2, sess 1), (3, sess 2)]
               ctxs := [(1, { oneContext with qexist := 0xFFFF, tokens := [(4095, 0x8000000000000007)] })] }
def msgOf (session op asid : Nat) (p : List Byte) : Msg :=
  { session := session, cmdid := 77, asid := asid, reserved := 0, op := op, len := p.length, payload := p
    tag := Config.gmac 0x55 (headerBytes p.length op 0 asid 77 ++ p) }

theorem tag_msgOf (session op asid : Nat) (p : List Byte) : tagHolds 0x55 (msgOf session op asid p) = true := by
  simp [tagHolds, msgOf]

theorem taken_of {s : State} {session op asid cls : Nat} {p : List Byte} (h : s.linked = true ∧ s.mgmt.updating = none ∧ s.mgmt.bring = 6 ∧ s.held = [])
    (q : Map.find s.sessions session = some (sess cls)) : Taken s (msgOf session op asid p) op (sess cls) where
  linked := h.1
  session := q
  tag := tag_msgOf session op asid p
  fresh := by simp [sess]
  ready := ⟨h.2.1, h.2.2.1⟩
  first := by simp [h.2.2.2]
  opcode := rfl
  plain := ⟨rfl, rfl⟩

/-- A write of a management register, whole. -/
def writing (o v : Nat) : State :=
  { hostS with
    transfers := [(4, { cmdid := 77, asid := 0, addr := mgmtBase + o, len := 8, bulk := 3, mgmt := true, got := (List.range 8).zip (toBytes 8 v)
                        bad := false })]
    held := [{ jsn := 4, cls := 0, msg := msgOf 1 8 0 [], demand := none, lost := false, csn := 0, result := 0 }] }

/-- An update's write, with an image of eight bytes at the end of a plot of the shared window. -/
def imaged : State :=
  { writing 0x048 0xF0000000FFF8 with
    globalRoot := BitVec.ofNat 64 (rootNode + 1)
    bulk := putAll (putAll hostS.bulk (addrCode 0 0 0 (rootNode + 8 * 1920)) (toBytes 8 (middleNode + 1))) (addrCode 0 0 0 leafNode) (toBytes 8 0xF) }

theorem plots_of {r : HostPlots} {p : List (Nat × Nat × DWord) → Prop} [∀ x, Decidable (p x)]
    (h : (match r with | .ok x => decide (p x) | _ => false) = true) : ∃ x, r = .ok x ∧ p x := by
  cases r with
  | ok x => exact ⟨x, rfl, of_decide_eq_true h⟩
  | status _ _ => cases h
  | hold _ _ => cases h

theorem witness_ManagementRegisters :
    (∀ x ∈ [(0x008, 65535), (0x008, 65536), (0x040, 0xFFFFF), (0x020, 77), (0x028, 77), (0x030, 77), (0x038, 77), (0x110, 77), (0x1E0, 77),
        (0x118, 0x1FFFF), (0x1E8, 77), (0x048, 0xF00000000000), (0x018, 5), (0, 3), (0x010, 3), (0x050, 3), (0x100, 3), (0x1F0, 3)],
      ∃ c t, (writing x.1 x.2).transferReady 4 = some (c, t) ∧ t.mgmt = true ∧ t.bad = false ∧ t.addr = mgmtBase + x.1 ∧
        ofBytes ((upto 8).map (fun k => Map.get (0 : Byte) t.got k)) = x.2 ∧ (writing x.1 x.2).gateBefore c.jsn = false) ∧
    (writing 0x018 5).mgmt.moving = [] ∧ HomesQuiet (writing 0x048 0xF00000000000) ∧ (writing 0x048 0xF00000000000).records = [] ∧
    (∃ c t, imaged.transferReady 4 = some (c, t) ∧ c.lost = false ∧ t.addr = mgmtBase + 0x048 ∧
      ofBytes ((upto 8).map (fun k => Map.get (0 : Byte) t.got k)) = 0xF0000000FFF8) ∧ HomesQuiet imaged ∧ imaged.records = [] ∧
    (∃ ps, State.imageParts 4 windowPlots 0xF0000000FFF8 imaged [] = .ok ps ∧ (imaged.rangeGated 0 ps = false ∧ plotsMoving ps = false ∧
      (match State.hostPieces 4 0 (hostCodes 0 ps) imaged [] with | .ok b => b.length == 8 | _ => false) = true)) := by
  refine ⟨fun x m => ⟨_, _, rfl, rfl, rfl, rfl, ?_, ?_⟩, by decide +kernel, by unfold HomesQuiet; decide +kernel, rfl,
    ⟨_, _, rfl, rfl, rfl, by decide +kernel⟩, by unfold HomesQuiet; decide +kernel, rfl, plots_of (by decide +kernel)⟩
  · simp only [List.mem_cons, List.not_mem_nil, or_false] at m
    rcases m with rfl | rfl | rfl | rfl | rfl | rfl | rfl | rfl | rfl | rfl | rfl | rfl | rfl | rfl | rfl | rfl | rfl | rfl <;> decide +kernel
  · rfl

theorem witness_GatingUpdateAndBringUp :
    (let s := { ready with mgmt := { ready.mgmt with moving := [(2, true)] }, newer := [(addrCode 2 0 1 0x400003, 9)] };
      s.mgmt.moving = [(2, true)] ∧ (∀ k ∈ clusterCores 2, s.coreIdle k = true) ∧ (s.home 2).dsb = [] ∧ (s.home 2).prepares = [] ∧
      s.nextAt 2 = none ∧ CacheSorted s) ∧
    ({ ready with mgmt := { ready.mgmt with moving := [(2, false)] } } : State).mgmt.moving = [(2, false)] ∧
    (let s := { ready with mgmt := { ready.mgmt with updating := some 9 } }; s.mgmt.updating = some 9 ∧ s.mgmt.deferred = []) ∧
    State.reset.mgmt.bring < 6 ∧ State.reset.mgmt.fail = 0 :=
  ⟨⟨rfl, by decide +kernel, by decide +kernel, by decide +kernel, by decide +kernel, cacheSorted_of (by decide +kernel)⟩, rfl, ⟨rfl, rfl⟩,
    by decide, rfl⟩

theorem hostS_ready : hostS.linked = true ∧ hostS.mgmt.updating = none ∧ hostS.mgmt.bring = 6 ∧ hostS.held = [] := by decide +kernel

theorem witness_HostTokens :
    (sess 1).cls ≤ 1 ∧ (∃ c, Map.find hostS.ctxs 1 = some c ∧ c.dead = false) ∧
    Taken hostS (msgOf 2 0x05 1 (toBytes 2 4095 ++ toBytes 6 0)) 0x05 (sess 1) ∧
    Taken hostS (msgOf 2 0x06 1 (toBytes 2 4095 ++ toBytes 6 0 ++ toBytes 8 9)) 0x06 (sess 1) ∧
    Taken hostS (msgOf 2 0x07 1 (toBytes 2 0 ++ toBytes 1 1 ++ toBytes 5 0)) 0x07 (sess 1) :=
  ⟨by decide, ⟨_, rfl, rfl⟩, taken_of hostS_ready rfl, taken_of hostS_ready rfl, taken_of hostS_ready rfl⟩

/-- The record of a launch that has ended. -/
def launchRec : JRec :=
  { csn := 0, cmdid := 0, asid := 1, session := 1, op := 0x41, status := 0, state := .completed, da := 0, db := 0, time := 0, ref := 0, launch := true }

theorem witness_HostContextsAndLaunches :
    (Taken hostS (msgOf 2 0x01 2 (toBytes 2 2 ++ toBytes 1 1 ++ toBytes 1 2 ++ toBytes 2 0xFFFF ++ toBytes 2 0 ++ toBytes 8 0x7777777777777777
        ++ toBytes 32 (2 ^ 256 - 1) ++ toBytes 8 (2 ^ 48 - 16384) ++ toBytes 1 7 ++ toBytes 7 0 ++ toBytes 8 (2 ^ 48 - 2 ^ 31) ++ toBytes 8 (2 ^ 31)
        ++ toBytes 8 (2 ^ 48 - 256) ++ toBytes 8 256 ++ toBytes 8 (2 ^ 48 - 64) ++ toBytes 24 0)) 0x01 (sess 1) ∧
      (∀ k, k < 16 → 0x7777777777777777 / 2 ^ (4 * k + 3) % 2 = 0) ∧ (2 ^ 48 - 16384) % 16384 = 0 ∧ 0xF00000000000 ≤ 2 ^ 48 - 16384 ∧
      (2 ^ 48 - 2 ^ 31) % 2 ^ 31 = 0 ∧ hostS.ctxs.length < Config.maxContexts ∧ Map.find hostS.ctxs 2 = none) ∧
    Taken hostS (msgOf 2 0x02 1 []) 0x02 (sess 1) ∧ (∃ c, Map.find hostS.ctxs 1 = some c ∧ c.dead = false ∧ c.hasQueue 15 = true ∧ c.replay = none) ∧
    (let s := { hostS with ctxs := [(1, { oneContext with dead := true })], wgs := [], drills := [], launches := [] };
      Taken s (msgOf 2 0x02 1 []) 0x02 (sess 1) ∧ s.cmds = [] ∧ s.commits = [] ∧ s.records = [] ∧ entriesOf s 1 = []) ∧
    (Taken hostS (msgOf 2 0x03 1 (toBytes 1 15 ++ toBytes 7 0 ++ goodRecord)) 0x03 (sess 1) ∧ goodRecord.length = 64 ∧
      (recordOf goodRecord).placemap = false ∧ (recordOf goodRecord).code = none) ∧
    (Taken hostS (msgOf 2 0x04 1 (toBytes 8 1)) 0x04 (sess 1) ∧ hostS.held = [] ∧ Map.find hostS.launches 1 = some oneLaunch ∧
      oneLaunch.asid = 1 ∧ oneLaunch.failed = none ∧ hostS.inReplay oneLaunch = false) ∧
    (let s := { hostS with journal := [(2, launchRec)] };
      Taken s (msgOf 2 0x04 1 (toBytes 8 2)) 0x04 (sess 1) ∧ s.held = [] ∧ Map.find s.launches 2 = none ∧ Map.find s.journal 2 = some launchRec ∧
      launchRec.asid = 1 ∧ launchRec.launch = true ∧ 2 < s.nextJsn ∧ s.nextJsn < 2 + 16384) ∧
    Taken hostS (msgOf 2 0x0C 1 (toBytes 1 15 ++ toBytes 7 0)) 0x0C (sess 1) :=
  ⟨⟨taken_of hostS_ready rfl, by decide, by decide, by decide, by decide, by decide, rfl⟩, taken_of hostS_ready rfl,
    ⟨_, rfl, rfl, by decide +kernel, rfl⟩, ⟨taken_of hostS_ready rfl, rfl, rfl, rfl, by decide +kernel⟩,
    ⟨taken_of hostS_ready rfl, by decide +kernel, by decide +kernel, by decide +kernel⟩,
    ⟨taken_of hostS_ready rfl, rfl, rfl, rfl, rfl, by decide +kernel⟩,
    ⟨taken_of hostS_ready rfl, rfl, rfl, rfl, rfl, rfl, by decide, by decide⟩, taken_of hostS_ready rfl⟩

/-- A transfer of a write of n bytes of memory, with those that have come. -/
def transferOf (n : Nat) (got : Map Byte) : Transfer :=
  { cmdid := 77, asid := 1, addr := 0x400104, len := n, bulk := 3, mgmt := false, got := got, bad := false }
def pendingOf : Pending :=
  { jsn := 5, cls := 1, msg := msgOf 2 0x08 1 (toBytes 8 0x400104 ++ toBytes 8 40 ++ toBytes 2 3 ++ toBytes 6 0), demand := none, lost := false, csn := 0, result := 0 }
def receiving (t : Transfer) : State := { hostS with transfers := [(5, t)], held := [pendingOf] }

theorem witness_HostWritesAndReads :
    ((sess 1).cls = 1 ∧ Taken hostS (msgOf 2 0x08 1 (toBytes 8 0x400104 ++ toBytes 8 (2 ^ 32) ++ toBytes 2 3 ++ toBytes 6 0)) 0x08 (sess 1) ∧
      Lives hostS 1 ∧ hostS.isBulk 3 = true) ∧
    (let s := receiving (transferOf 40 []);
      let m := msgOf 3 0x12 0 (toBytes 8 39 ++ [9]);
      s.linked = true ∧ Map.find s.sessions m.session = some (sess 2) ∧ (sess 2).cls = 2 ∧ tagHolds (sess 2).key m = true ∧ m.op = 0x12 ∧
      s.transfers = [(5, transferOf 40 [])] ∧ s.held.find? (fun q => q.jsn == 5) = some pendingOf ∧ s.behind pendingOf = false ∧
      pendingOf.msg.op = 0x08 ∧ pendingOf.cls ≤ 1 ∧ pendingOf.msg.reserved = 0 ∧ pendingOf.msg.len = pendingOf.msg.payload.length ∧
      Lives s pendingOf.msg.asid ∧ s.rangeOk pendingOf.cls pendingOf.msg (2 ^ 32) = true ∧ (transferOf 40 []).mgmt = false) ∧
    (let s := { receiving (transferOf 40 []) with held := [{ pendingOf with jsn := 4 }, pendingOf] };
      s.held.find? (fun q => q.jsn == 5) = some pendingOf ∧ s.behind pendingOf = true) ∧
    (let t := transferOf 2 [(0, 7), (1, 8)];
      let s := receiving t;
      s.transferReady 5 = some (pendingOf, t) ∧ Lives s 1 ∧ pendingOf.lost = false ∧
      (∃ ps, State.hostPlots 5 1 true (rangeParts t.addr t.len) s [] = .ok ps ∧ (s.rangeGated 1 ps = false ∧ plotsMoving ps = false)) ∧
      s.chunkRoom (s.grainsOf 1 t.addr 1 (Attr.host 5) ((upto t.len).map (fun k => Map.get 0 t.got k))) = true ∧
      s.soloHolds (fun _ => true) 1 (engineSig (s.grainsOf 1 t.addr 1 (Attr.host 5) ((upto t.len).map (fun k => Map.get 0 t.got k)))) = false ∧
      Map.find s.sessions pendingOf.msg.session = some (sess 1)) ∧
    (Taken hostS (msgOf 2 0x09 1 (toBytes 8 0x400104 ++ toBytes 8 40 ++ toBytes 2 3 ++ toBytes 6 0)) 0x09 (sess 1) ∧ HomesQuiet hostS ∧ hostS.records = [] ∧ CacheSorted hostS ∧
      ∃ ps, State.hostPlots hostS.nextJsn 1 false (rangeParts 0x400104 40) hostS [] = .ok ps ∧ (hostS.rangeGated 1 ps = false ∧ plotsMoving ps = false ∧
        (match State.hostPieces hostS.nextJsn 1 (hostCodes 1 ps) hostS [] with | .ok b => b.length == 40 | _ => false) = true)) :=
  ⟨⟨rfl, taken_of hostS_ready rfl, Or.inr ⟨_, rfl, rfl⟩, by decide +kernel⟩,
    ⟨by decide +kernel, rfl, rfl, tag_msgOf _ _ _ _, rfl, rfl, rfl, by decide +kernel, rfl, by decide, rfl, rfl,
      Or.inr ⟨_, rfl, rfl⟩, by decide +kernel, rfl⟩, ⟨rfl, by decide +kernel⟩,
    ⟨by rfl, Or.inr ⟨_, rfl, rfl⟩, rfl, plots_of (by decide +kernel), by decide +kernel, by decide +kernel, rfl⟩,
    ⟨taken_of hostS_ready rfl, by unfold HomesQuiet; decide +kernel, rfl, cacheSorted_of (by decide +kernel), plots_of (by decide +kernel)⟩⟩

theorem witness_HostPlots :
    ((sess 0).cls = 0 ∧ Taken hostS (msgOf 1 0x0A 0 (toBytes 8 0 ++ toBytes 1 3 ++ toBytes 7 0 ++ toBytes 8 0xF00000004001)) 0x0A (sess 0)) ∧
    (∀ level ≤ 2, Taken hostS (msgOf 2 0x0A 1 (toBytes 8 0x400000 ++ toBytes 1 level ++ toBytes 7 0 ++ toBytes 8 5)) 0x0A (sess 1)) ∧
    Lives hostS 1 ∧ HomesQuiet hostS ∧ hostS.records = [] ∧ hostS.solos = [] ∧
    (hostS.entryPlace 1 0x400000 0 = .place 0 (leafNode + 8 * 64) ∧ hostS.plotEntry hostS.nodeEntry 0 (leafNode + 8 * 64) 0 = .desc codeDesc) ∧
    (hostS.entryPlace 1 0x400000 1 = .place 0 middleNode ∧ hostS.plotEntry hostS.nodeEntry 0 middleNode 0 = .desc (BitVec.ofNat 64 (leafNode + 1))) ∧
    (hostS.entryPlace 1 0x400000 2 = .place 0 rootNode ∧ hostS.plotEntry hostS.nodeEntry 0 rootNode 0 = .desc (BitVec.ofNat 64 (middleNode + 1))) ∧
    leafNode + 8 * 64 < 2 ^ 48 :=
  ⟨⟨rfl, taken_of hostS_ready rfl⟩, fun _ _ => taken_of hostS_ready rfl, Or.inr ⟨_, rfl, rfl⟩, by unfold HomesQuiet; decide +kernel, rfl, rfl,
    by decide +kernel, by decide +kernel, by decide +kernel, by decide⟩

/-- Page operations' messages. -/
def pageMsg (op home table flags la loc : Nat) : Msg :=
  msgOf 2 0x0B 1 (toBytes 1 op ++ toBytes 1 home ++ toBytes 1 table ++ toBytes 1 flags ++ toBytes 4 0 ++ toBytes 8 la ++ toBytes 3 loc ++ toBytes 5 0)
/-- The page of `backed`, resident. -/
def resident : State :=
  let s := hostS.mapPage page8 (some 7) 0
  { s with mgmt := { s.mgmt with bsrc := [(1, (0, 100))] } }
/-- The page mapped and nowhere yet. -/
def fresh : State := hostS.mapPage page8 none 0xFFFFFF

theorem witness_HostPages :
    (∀ op table flags la loc, Taken hostS (pageMsg op 0 table flags la loc) 0x0B (sess 1)) ∧ Lives hostS 1 ∧ (hostS.home 0).gated = false ∧
    hostS.refusal 0 page8 true = none ∧ hostS.refusal 0 page8 false = none ∧ (∃ f, hostS.freeFrame 0 page8.frames = some f ∧ True) ∧ hostS.records = [] ∧ resident.records = [] ∧ fresh.records = [] ∧
    (Taken resident (pageMsg 1 0 0 0 0x800000 0) 0x0B (sess 1) ∧ resident.refusal 1 page8 false = none ∧ entRes (resident.entryOf page8) = true) ∧
    (Taken fresh (pageMsg 1 0 0 0 0x800000 0) 0x0B (sess 1) ∧ fresh.refusal 1 page8 false = none ∧ entRes (fresh.entryOf page8) = false ∧
      entLoc (fresh.entryOf page8) = 0xFFFFFF ∧ fresh.hasEntries page8 = false ∧ ∃ f, fresh.freeFrame 0 page8.frames = some f ∧ True) ∧
    (Taken resident (pageMsg 2 0 0 0 0x800000 0x100005) 0x0B (sess 1) ∧ resident.refusal 2 page8 false = none ∧
      resident.locValid 0x100005 = true ∧ HomesQuiet resident ∧ resident.badIn page8 = none ∧ CacheSorted resident ∧ Memory.wf resident.bulk = true) ∧
    (Taken resident (pageMsg 3 0 0 0 0x800000 0) 0x0B (sess 1) ∧ resident.refusal 3 page8 false = none ∧ resident.hasEntries page8 = false) := by
  have r : resident.linked = true ∧ resident.mgmt.updating = none ∧ resident.mgmt.bring = 6 ∧ resident.held = [] := by decide +kernel
  have f : fresh.linked = true ∧ fresh.mgmt.updating = none ∧ fresh.mgmt.bring = 6 ∧ fresh.held = [] := by decide +kernel
  exact ⟨fun _ _ _ _ _ => taken_of hostS_ready rfl, Or.inr ⟨_, rfl, rfl⟩, by decide +kernel, by decide +kernel, by decide +kernel,
    opt_of (by decide +kernel), rfl, by decide +kernel, by decide +kernel, ⟨taken_of r rfl, by decide +kernel, by decide +kernel⟩,
    ⟨taken_of f rfl, by decide +kernel, by decide +kernel, by decide +kernel, by decide +kernel, opt_of (by decide +kernel)⟩,
    ⟨taken_of r rfl, by decide +kernel, by decide +kernel, by unfold HomesQuiet; decide +kernel, by decide +kernel,
      cacheSorted_of (by decide +kernel), by decide +kernel⟩, ⟨taken_of r rfl, by decide +kernel, by decide +kernel⟩⟩

theorem witness_SessionsAndDeviceCommands :
    (∃ key, hostS.baseKey 0 0 = some key ∧
      let p := toBytes 16 5 ++ toBytes 1 0 ++ toBytes 7 0;
      let m := { msgOf 0 0x10 0 p with tag := Config.gmac key (headerBytes p.length 0x10 0 0 77 ++ p) };
      tagHolds key m = true ∧ m.op = 0x10 ∧ hostS.linked = true ∧ m.len = m.payload.length ∧ hostS.sessions.length < Config.maxSessions) ∧
    Taken hostS (msgOf 2 0x11 0 []) 0x11 (sess 1) ∧ reservedOp 0x13 = true ∧ tagHolds (sess 1).key (msgOf 2 0x13 1 [1]) = true ∧
    Taken hostS (msgOf 1 0x0D 0 (toBytes 2 9 ++ toBytes 2 2 ++ toBytes 2 0 ++ toBytes 2 0 ++ toBytes 32 (2 ^ 256 - 2)
      ++ [5, 2 ^ 128 - 1].flatMap (toBytes 16))) 0x0D (sess 0) ∧ hostS.cmds = [] ∧
    (let s := { hostS with groups := [(9, { p := 2, own := 0, key := 7, ranks := [(0, 5)], calls := 3, early := [], reported := [] })] };
      ∀ own, Taken s (msgOf 1 0x0D 0 (toBytes 2 9 ++ toBytes 2 2 ++ toBytes 2 own ++ toBytes 2 1 ++ toBytes 32 7 ++ [6].flatMap (toBytes 16))) 0x0D (sess 0) ∧
        s.cmds = [] ∧ ∃ y, Map.find s.groups 9 = some y ∧ y.p = 2 ∧ y.own = 0 ∧ y.key = BitVec.ofNat 256 7 ∧ y.ranks.length = 1 ∧
          ∀ i, 1 ≤ i → Map.find y.ranks i = none) ∧
    (let c := command 4 [5 + 9 * 2 ^ 16, 0x400200, 0x400300, 4];
      let s := { hostS with cmds := [(8, c)] };
      Taken s (msgOf 1 0x0D 0 (toBytes 2 9 ++ toBytes 2 2 ++ toBytes 2 0 ++ toBytes 2 0 ++ toBytes 32 7 ++ [6].flatMap (toBytes 16))) 0x0D (sess 0) ∧
        c.major = 0x79 ∧ c.op = 4 ∧ c.word 0 / 2 ^ 16 % 2 ^ 16 = 9) ∧
    (∀ n ∈ [2, 3], let s := { hostS with journal := [(4, launchRec), (5, launchRec)], nextJsn := 6 };
      Taken s (msgOf 1 0x0E 0 (toBytes 8 4 ++ toBytes 2 n ++ toBytes 6 0)) 0x0E (sess 0) ∧ max 4 (s.nextJsn + 1 - 16384) = 4 ∧
        [launchRec, launchRec].length = min n (s.nextJsn - 4) ∧ (∀ i, i < 2 → Map.find s.journal (4 + i) = [launchRec, launchRec][i]?) ∧
        ∀ j, s.nextJsn < j → Map.find s.journal j = none) ∧
    Taken hostS (msgOf 1 0x0F 0 []) 0x0F (sess 0) :=
  ⟨⟨_, by rfl, by simp [tagHolds, msgOf], rfl, by decide +kernel, rfl, by decide +kernel⟩, taken_of hostS_ready rfl, by decide, tag_msgOf _ _ _ _,
    taken_of hostS_ready rfl, rfl,
    fun _ => ⟨taken_of hostS_ready rfl, rfl, _, rfl, rfl, rfl, rfl, rfl, fun i h => by
      show Map.find [(0, (5 : BitVec 128))] i = none
      simp only [Map.find]
      rw [if_neg (by omega)]⟩,
    ⟨taken_of hostS_ready rfl, rfl, rfl, by decide⟩,
    fun n m => ⟨taken_of hostS_ready rfl, by decide, by rcases List.mem_pair.mp m with rfl | rfl <;> rfl, by decide, fun j h => by
      show Map.find [(4, launchRec), (5, launchRec)] j = none
      have h : 6 < j := h
      simp only [Map.find]
      rw [if_neg (by omega), if_neg (by omega)]⟩, taken_of hostS_ready rfl⟩

/-! ### Hypotheses met: the machine as a whole -/

theorem witness_EncodeDecodes : (∃ w, Instr.WF (.ld 4 1 5 65 2) ∧ encode (.ld 4 1 5 65 2) = some w) ∧
    (0x244C9801 : Nat) < 2 ^ 32 ∧ decodeTableWord 32 0xB1008B06 = some (.ld 4 1 5 65 2) :=
  ⟨⟨0xB1008B06, by simp [Instr.WF], by decide⟩, by decide, by decide⟩

theorem canonical_of {s : State}
    (h : (Memory.wf s.bulk && (Map.sorted s.newer && s.homes.all (fun c => c.2.lines.isEmpty))
      && Memory.wf s.backing && Map.canonical (0 : DWord) s.pt && Map.canonical Header.initial s.headers
      && Map.canonical (0 : DWord) s.owners && Map.sorted s.drills && Map.sorted s.wgs) = true) : Canonical s := by
  simp only [Bool.and_eq_true] at h
  exact ⟨h.1.1.1.1.1.1.1, cacheSorted_of (by simpa using h.1.1.1.1.1.1.2), h.1.1.1.1.1.2, h.1.1.1.1.2, h.1.1.1.2, h.1.1.2, h.1.2, h.2⟩

/-- The code of the bench: an addition, and a word that is none. -/
def addWord : State := State.reset.loaded [0x144C9801]
def noWord : State := State.reset.loaded [0]

theorem witness_MemoryStaysCanonical : Canonical addWord ∧ (match step addWord with | .next _ => true | _ => false) = true :=
  ⟨canonical_of (by decide +kernel), by decide +kernel⟩

theorem witness_StepRunsTheDecodedInstruction :
    ({ addWord with agenda := [.moduleReset] } : State).agenda = [.moduleReset] ∧ addWord.agenda = [] ∧ addWord.retry = [] ∧
    addWord.pass.dueSleeper = none ∧ addWord.pass.pick = some 0 ∧
    ({ addWord with drills := [(0, { drill with wait := .sleep 0 })] } : State).pass.dueSleeper = some 0 ∧
    (∃ d, Map.find addWord.drills 0 = some d ∧ d.chunk.expl = none ∧
      (match ({ addWord.pass.waitOthers 0 (Config.elapsed addWord.tick) with turn := partKey 0 + 1 } : State).fetchWord 0 d d.regs.pc.toNat with
        | .word _ w => decodeTableWord 32 w == some (.addImm 19 19 1)
        | _ => false) = true ∧
      (match ({ addWord.pass.waitOthers 0 (Config.elapsed addWord.tick) with turn := partKey 0 + 1 } : State).fetch 0 d with
        | .unit _ _ i n => i == .addImm 19 19 1 && n == 1
        | _ => false)
        = true) ∧
    (∃ d, Map.find noWord.drills 0 = some d ∧ d.chunk.expl = none ∧
      (match ({ noWord.pass.waitOthers 0 (Config.elapsed noWord.tick) with turn := partKey 0 + 1 } : State).fetch 0 d with
        | .trap _ _ _ _ _ => true
        | _ => false) = true) ∧
    (let d := chunked drill (fun c => { c with units := 4096, expl := some { beg := 0x400000, fallback := 0x400200 } });
      let s := { addWord with drills := [(0, d)] };
      s.pass.dueSleeper = none ∧ s.pass.pick = some 0 ∧ ¬(d.chunk.expl = none ∨ d.chunk.units < d.chunk.limit)) ∧
    State.reset.pass.dueSleeper = none ∧ State.reset.pass.pick = none :=
  ⟨rfl, rfl, rfl, by decide +kernel, by decide +kernel, by decide +kernel, ⟨_, rfl, rfl, by decide +kernel, by decide +kernel⟩,
    ⟨_, rfl, rfl, by decide +kernel⟩, ⟨by decide +kernel, by decide +kernel, by decide +kernel⟩, by decide +kernel, by decide +kernel⟩

/-! ### Results the rules give, worked by hand -/

/-- What the drill of the bench is after a unit. -/
def after (h : Hints) (d : Drill) (i : Instr) : Option Drill := match exec i (bench h d) with
  | .next t => Map.find t.drills 0
  | _ => none
/-- A drill with v2, v3 in lanes 0 and 1. -/
def lanes (a b c d : Word) : Drill := withRegs (fun r => { r with v := [(128, a), (129, b), (192, c), (193, d)] })
def lane (n : Nat) (o : Option Drill) : Option (Nat × Nat) := o.map (fun d => (d.regs.vecN n 0, d.regs.vecN n 1))

/-- R112: narrowing wraps without SAT. -/
theorem test_add_wraps : lane 1 (after e0 (lanes 0xFFFFFFFF 0x7FFFFFFF 1 1) (.add 1 1 2 3)) = some (0, 0x80000000) := by decide +kernel
/-- R112: the high half of a product, signed in `mulh.i32`, unsigned in `mulh.n32`. -/
theorem test_mulh_signs : lane 1 (after e0 (lanes 0xFFFFFFFF 2 1 3) (.mulh 0 1 2 3)) = some (0xFFFFFFFF, 0) ∧
    lane 1 (after e0 (lanes 0xFFFFFFFF 2 0xFFFFFFFF 3) (.mulh 1 1 2 3)) = some (0xFFFFFFFE, 0) := by decide +kernel
/-- R96, R115: rule S extends bit 10. -/
theorem test_ldi_extends : lane 1 (after e0 drill (.ldi 1 0x7FF)) = some (0xFFFFFFFF, 0xFFFFFFFF) := by decide +kernel
/-- R119: `cvti` from i8. -/
theorem test_cvti_sign : lane 1 (after e0 (lanes 0x180 0x7F 0 0) (.cvti 0 1 2)) = some (0xFFFFFF80, 0x7F) := by decide +kernel
/-- R114: bits counted and reversed; the source is also the destination. -/
theorem test_brev_in_place : lane 2 (after e0 (lanes 1 0xF0000000 0 0) (.brev 2 2)) = some (0x80000000, 0xF) := by decide +kernel
/-- R137: 1 + 2 and 1.5 + 1.5 in f32. -/
theorem test_fadd : lane 1 (after e0 (lanes 0x3F800000 0x3FC00000 0x40000000 0x3FC00000) (.fadd 1 2 3)) = some (0x40400000, 0x40400000) := by
  decide +kernel
/-- R137: 1/2 and 3/2 in f32. -/
theorem test_fdiv : lane 1 (after e0 (lanes 0x3F800000 0x40400000 0x40000000 0x40000000) (.fdiv 1 2 3)) = some (0x3F000000, 0x3FC00000) := by
  decide +kernel
/-- R121: lane 0 compares below as signed only. -/
theorem test_cmp_signs : ((after e0 (withRegs (fun r => { r with em := 1, v := [(128, 0xFFFFFFFF), (192, 1)] })) (.cmp 0 2 1 2 3)).map
      (fun d => d.regs.pred 1), (after e0 (withRegs (fun r => { r with em := 1, v := [(128, 0xFFFFFFFF), (192, 1)] })) (.cmp 1 2 1 2 3)).map
      (fun d => d.regs.pred 1)) = (some 1, some 0) := by decide +kernel
/-- R190, R192: `trap 5` saves the unit's end, kind 13 and its immediate, and `tret` returns to it. -/
theorem test_trap_and_return : (after e0 drill (.trap 5)).map (fun d => (d.regs.pc, d.regs.h, d.regs.uni 60, d.regs.uni 61, d.regs.uni 63)) =
      some (0x400100, true, 0x400004, 13 + 256 + 5 * 2 ^ 32, BitVec.allOnes 64) ∧
    (after e0 (withRegs (fun r => { r with h := true, em := 0, u := [(60, 0x400006), (63, 3)] })) .tret).map
      (fun d => (d.regs.pc, d.regs.h, d.regs.em)) = some (0x400004, false, 3) := by decide +kernel
/-- R127: a branch some lanes take leaves those that do not pending. -/
theorem test_bra_diverges : (after e0 (withRegs (fun r => { r with em := 0xF, p := [(1, 5)] })) (.bra 0 0 1 4)).map
    (fun d => (d.regs.em, d.regs.stack.length)) = some (5, 1) := by decide +kernel
/-- R94, R115: a step runs the word at the PC in every lane. -/
theorem test_step_adds : (match step addWord with | .next t => (Map.find t.drills 0).map (fun d => (d.regs.vecN 19 63, d.regs.pc)) | _ => none) =
    some (1, 0x400004) := by decide +kernel

end Sys2Proof.Tests
end

section
/-!
PROOFS. Predicate p15 (R22): its write leaves the drill as it was, and so every instruction that names it as its destination completes
and keeps every predicate.
-/

namespace Sys2Proof.Machine

open Sys2Proof

/-! ### Writing p15, and bits of a predicate below it -/

@[simp] theorem Regs.pred_fifteen (r : Regs) : r.pred 15 = BitVec.allOnes 64 := rfl

@[simp] theorem Drill.setPred_fifteen (d : Drill) (m : DWord) : d.setPred 15 m = d := rfl

@[simp] theorem Drill.setPredLanes_fifteen (d : Drill) (ls : List Nat) (f : Nat → Bool) : d.setPredLanes 15 ls f = d := by
  unfold Drill.setPredLanes
  split
  · rfl
  · exact d.setPred_fifteen _

/-- The register written, below p15, holds what was written. -/
theorem Drill.pred_setPred_same (d : Drill) {n : Nat} (hn : n < 15) (m : DWord) : (d.setPred n m).regs.pred n = m := by
  rw [Drill.pred_setPred, predWith, if_pos ⟨rfl, hn.ne⟩]

theorem Drill.pred_setPred_other (d : Drill) {n k : Nat} (hk : k ≠ n) (m : DWord) : (d.setPred n m).regs.pred k = d.regs.pred k := by
  rw [Drill.pred_setPred, predWith, if_neg (fun h => hk h.1)]

theorem Drill.bitAt_setPredLanes (d : Drill) {n : Nat} (hn : n < 15) (ls : List Nat) (f : Nat → Bool) {l : Nat} (hl : l < 64) :
    bitAt ((d.setPredLanes n ls f).regs.pred n) l = if l ∈ ls then f l else bitAt (d.regs.pred n) l := by
  rw [← bitAt_maskWith _ _ _ _ hl]
  unfold Drill.setPredLanes
  split
  · have : ls = [] := by simpa using ‹ls.isEmpty = true›
    subst this
    rfl
  · rw [d.pred_setPred_same hn]

/-! ### What the forms that write a predicate execute -/

theorem exec_pand (d a b : Nat) (s : State) : exec (.pand d a b) s = execPand d a b s := rfl
theorem exec_por (d a b : Nat) (s : State) : exec (.por d a b) s = execPor d a b s := rfl
theorem exec_pxor (d a b : Nat) (s : State) : exec (.pxor d a b) s = execPxor d a b s := rfl
theorem exec_pnot (d a : Nat) (s : State) : exec (.pnot d a) s = execPnot d a s := rfl
theorem exec_pmovPp (d a : Nat) (s : State) : exec (.pmovPp d a) s = execPmovPp d a s := rfl
theorem exec_pmovPs (d a : Nat) (s : State) : exec (.pmovPs d a) s = execPmovPs d a s := rfl
theorem exec_cmpU (t c p a b : Nat) (s : State) : exec (.cmpU t c p a b) s = execCmpU t c p a b s := rfl
theorem exec_cmp (t c p a b : Nat) (s : State) : exec (.cmp t c p a b) s = execCmp t c p a b s := rfl
theorem exec_cmpVs (t c p a b : Nat) (s : State) : exec (.cmpVs t c p a b) s = execCmpVs t c p a b s := rfl
theorem exec_fcmp (t c p a b : Nat) (s : State) : exec (.fcmp t c p a b) s = execFcmp t c p a b s := rfl
theorem exec_voteAny (p a : Nat) (s : State) : exec (.voteAny p a) s = execVoteAny p a s := rfl
theorem exec_voteAll (p a : Nat) (s : State) : exec (.voteAll p a) s = execVoteAll p a s := rfl
theorem exec_voteUni (p a : Nat) (s : State) : exec (.voteUni p a) s = execVoteUni p a s := rfl

/-! ### Instructions whose destination is p15 -/

/-- Given room, i completes, changes its drill alone, and leaves every predicate as it was. -/
def KeepsPreds (i : Instr) : Prop := Effect i 16 (fun _ d d' => d'.regs.pred = d.regs.pred)

/-- Raising flags writes no predicate. -/
theorem keepsPreds_of_raise {i : Instr} {g : Hints → Drill → Drill} {fl : Hints → Drill → Flags}
    (hx : ∀ s, exec i s = regUnit i s g) (hi : endsByNature i = false) (hg : ∀ h d, g h d = d.raise (fl h d)) : KeepsPreds i := by
  refine regUnit_effect (post := fun _ r r' => r'.pred = r.pred) hx hi ?_ ?_ ?_
  · intro h d
    rw [hg]
    exact (d.near_raise _).mono (by omega)
  · intro h d
    rw [hg]
    exact d.kept_raise _
  · intro s d
    rw [hg, Drill.regs_raise, Drill.regs_start]
    rfl

/-- All that i writes is discarded. -/
theorem keepsPreds_of_unchanged {i : Instr} {g : Hints → Drill → Drill} (hx : ∀ s, exec i s = regUnit i s g) (hi : endsByNature i = false)
    (hg : ∀ h d, g h d = d) : KeepsPreds i :=
  keepsPreds_of_raise (fl := fun _ _ => 0) hx hi (fun h d => by rw [hg, Drill.raise_zero])

theorem cmpLanes_fifteen (t c : Nat) (a b : Regs → Nat → Nat) (h : Hints) (d : Drill) : cmpLanes t c 15 a b h d = d :=
  d.setPredLanes_fifteen _ _

theorem voteLanes_fifteen (a : Nat) (f : List Nat → (Nat → Bool) → Bool) (h : Hints) (d : Drill) : voteLanes 15 a f h d = d :=
  d.setPredLanes_fifteen _ _

/-- R22 for every form that writes a predicate: whole (R122, R124, R125) or lane by lane (R121, R145, R184; `fcmp` raises flags besides). -/
theorem keepsPreds_fifteen (a b t c : Nat) : ∀ i ∈ [Instr.pand 15 a b, .por 15 a b, .pxor 15 a b, .pnot 15 a, .pmovPp 15 a, .pmovPs 15 a,
    .cmp t c 15 a b, .cmpVs t c 15 a b, .cmpU t c 15 a b, .fcmp t c 15 a b, .voteAny 15 a, .voteAll 15 a, .voteUni 15 a], KeepsPreds i := by
  simp only [List.forall_mem_cons, List.not_mem_nil, false_implies, implies_true, and_true]
  exact ⟨keepsPreds_of_unchanged (exec_pand 15 a b) rfl (fun _ d => d.setPred_fifteen _),
    keepsPreds_of_unchanged (exec_por 15 a b) rfl (fun _ d => d.setPred_fifteen _),
    keepsPreds_of_unchanged (exec_pxor 15 a b) rfl (fun _ d => d.setPred_fifteen _),
    keepsPreds_of_unchanged (exec_pnot 15 a) rfl (fun _ d => d.setPred_fifteen _),
    keepsPreds_of_unchanged (exec_pmovPp 15 a) rfl (fun _ d => d.setPred_fifteen _),
    keepsPreds_of_unchanged (exec_pmovPs 15 a) rfl (fun _ d => d.setPred_fifteen _),
    keepsPreds_of_unchanged (exec_cmp t c 15 a b) rfl (cmpLanes_fifteen t c _ _),
    keepsPreds_of_unchanged (exec_cmpVs t c 15 a b) rfl (cmpLanes_fifteen t c _ _),
    keepsPreds_of_unchanged (exec_cmpU t c 15 a b) rfl (fun _ d => d.setPred_fifteen _),
    keepsPreds_of_raise (exec_fcmp t c 15 a b) rfl (fun _ d => congrArg (Drill.raise · _) (d.setPredLanes_fifteen _ _)),
    keepsPreds_of_unchanged (exec_voteAny 15 a) rfl (voteLanes_fifteen a _),
    keepsPreds_of_unchanged (exec_voteAll 15 a) rfl (voteLanes_fifteen a _),
    keepsPreds_of_unchanged (exec_voteUni 15 a) rfl (voteLanes_fifteen a _)⟩

/-- Settles O8: p15 reads and discards by the rules of its accessors, and each form that names it keeps every predicate. -/
theorem predicateFifteen : Obligations.PredicateFifteen := by
  refine ⟨Regs.pred_fifteen, Drill.setPred_fifteen, fun d n m hn => ⟨d.pred_setPred_same hn m, fun k hk => d.pred_setPred_other hk m⟩,
    fun d n ls f l hn _ hl => d.bitAt_setPredLanes hn ls f hl, ?_⟩
  intro a b t c s d _ _ i hi he hr
  obtain ⟨t', d', hstep, hunit, -, -, hpred⟩ := keepsPreds_fifteen a b t c i hi s d he hr
  exact ⟨t', d', hstep, hunit, congrFun hpred⟩

end Sys2Proof.Machine
end

section
/-!
PROOFS. Uniform compares (R122), selection (R123) and predicate logic (R124): what each form writes, and the words that decode to it.
-/

namespace Sys2Proof

/-! ### Words of one major (R94, R101) -/

theorem wordOfBytes_of_lt {w : Nat} (hw : w < 2 ^ 32) :
    wordOfBytes (BitVec.ofNat 8 w) (BitVec.ofNat 8 (w / 256)) (BitVec.ofNat 8 (w / 65536)) (BitVec.ofNat 8 (w / 16777216)) = w := by
  unfold wordOfBytes
  simp only [BitVec.toNat_ofNat]
  omega

/-- A word whose major is not the hints' decodes by the table of its major. -/
theorem decodeTableWord_of_major {w m : Nat} {table : Nat → Except Nat Instr} (hm : w / 2 ^ 25 = m) (hlt : m < 127)
    (htable : w / 33554432 % 128 = m → decodeWord w = table w) : decodeTableWord 32 w = (table w).toOption := by
  have hw : w < 2 ^ 32 := by omega
  have hhint : isHint w = false := by
    unfold isHint
    rw [beq_eq_false_iff_ne]
    omega
  unfold decodeTableWord bytesOfWord
  rw [Nat.mod_eq_of_lt hw]
  dsimp only
  rw [wordOfBytes_of_lt hw, hhint, if_neg Bool.false_ne_true, htable (by omega)]
  cases table w <;> rfl

theorem decodeWord_major14 {w : Nat} (hm : w / 33554432 % 128 = 0x14) : decodeWord w = decode14 w := by
  rw [decodeWord, hm]; rfl

theorem decodeWord_major21 {w : Nat} (hm : w / 33554432 % 128 = 0x21) : decodeWord w = decode21 w := by
  rw [decodeWord, hm]; rfl

theorem decodeWord_major30 {w : Nat} (hm : w / 33554432 % 128 = 0x30) : decodeWord w = decode30 w := by
  rw [decodeWord, hm]; rfl

theorem decodeTableWord_sel {n d a b : Nat} (hn : n < 16) (hd : d < 128) (ha : a < 128) (hb : b < 128) :
    decodeTableWord 32 (0x28000000 + 2 ^ 21 * n + 2 ^ 14 * d + 2 ^ 7 * a + b) = some (.sel n d a b) := by
  generalize hw : 0x28000000 + 2 ^ 21 * n + 2 ^ 14 * d + 2 ^ 7 * a + b = w
  have fn : w / 2097152 % 16 = n := by omega
  have fd : w / 16384 % 128 = d := by omega
  have fa : w / 128 % 128 = a := by omega
  have fb : w % 128 = b := by omega
  rw [decodeTableWord_of_major (m := 0x14) (by omega) (by decide) decodeWord_major14, decode14, fn, fd, fa, fb]
  rfl

theorem decodeTableWord_cmpU {t c p a b : Nat} (ht : t < 4) (hc : c < 8) (hp : p < 16) (ha : a < 64) (hb : b < 64) :
    decodeTableWord 32 (0x42000000 + 2 ^ 22 * t + 2 ^ 18 * c + 2 ^ 14 * p + 2 ^ 7 * a + b) = some (.cmpU t c p a b) := by
  generalize hw : 0x42000000 + 2 ^ 22 * t + 2 ^ 18 * c + 2 ^ 14 * p + 2 ^ 7 * a + b = w
  have ft : w / 4194304 % 8 = t := by omega
  have fc : w / 262144 % 16 = c := by omega
  have fp : w / 16384 % 16 = p := by omega
  have fa : w / 128 % 64 = a := by omega
  have fb : w % 64 = b := by omega
  have fzero : w / 64 % 2 = 0 ∧ w / 8192 % 2 = 0 := by omega
  rw [decodeTableWord_of_major (m := 0x21) (by omega) (by decide) decodeWord_major21, decode21, ft, fc, fp, fa, fb,
    if_neg (not_not_intro ⟨ht, hc⟩), if_neg (not_not_intro fzero)]
  rfl

/-! ### The fields of major 0x30 (R124) -/

/-- A table's check of zero fields before it gives an instruction, the detail of the trap forgotten. -/
theorem toOption_check (c : Prop) [Decidable c] (e : Nat) (i : Instr) :
    (if c then Except.ok i else Except.error e : Except Nat Instr).toOption = if c then some i else none :=
  apply_ite Except.toOption _ _ _

/-- Bits [24:22] select the form; `pnot` and `pmov` require vb zero besides. -/
theorem toOption_decode30 (w : Nat) :
    (decode30 w).toOption =
      if w / 2 ^ 11 % 8 = 0 ∧ w / 2 ^ 4 % 8 = 0 ∧ w / 2 ^ 18 % 16 = 0 then (match w / 2 ^ 22 % 8 with
        | 0 => some (.pand (w / 2 ^ 14 % 16) (w / 2 ^ 7 % 16) (w % 16))
        | 1 => some (.por (w / 2 ^ 14 % 16) (w / 2 ^ 7 % 16) (w % 16))
        | 2 => some (.pxor (w / 2 ^ 14 % 16) (w / 2 ^ 7 % 16) (w % 16))
        | 3 => if w % 16 = 0 then some (.pnot (w / 2 ^ 14 % 16) (w / 2 ^ 7 % 16)) else none
        | 4 => if w % 16 = 0 then some (.pmovPp (w / 2 ^ 14 % 16) (w / 2 ^ 7 % 16)) else none
        | _ => none) else none := by
  have hbinary : (w / 16 % 8 = 0 ∧ w / 2048 % 8 = 0 ∧ w / 262144 % 16 = 0) ↔
      (w / 2048 % 8 = 0 ∧ w / 16 % 8 = 0 ∧ w / 262144 % 16 = 0) := and_left_comm
  have hunary : (w % 128 = 0 ∧ w / 2048 % 8 = 0 ∧ w / 262144 % 16 = 0) ↔
      (w / 2048 % 8 = 0 ∧ w / 16 % 8 = 0 ∧ w / 262144 % 16 = 0) ∧ w % 16 = 0 := by omega
  unfold decode30
  simp only [ite_not, Nat.reducePow, hbinary, hunary]
  match w / 4194304 % 8 with
  | 0 | 1 | 2 => simp only [Nat.reduceEqDiff, reduceIte, toOption_check]
  | 3 | 4 =>
    simp only [Nat.reduceEqDiff, reduceIte, toOption_check]
    exact ite_and _ _ _ _
  | reserved + 5 => exact (ite_self none).symm

end Sys2Proof

namespace Sys2Proof.Machine

open Sys2Proof

/-! ### What the forms write -/

theorem exec_sel (n d a b : Nat) (s : State) : exec (.sel n d a b) s = execSel n d a b s := rfl

/-- The model's relations are those of table P (R121). -/
theorem cmpHolds_eq_relation (sgn : Bool) (w c a b : Nat) : cmpHolds sgn w c a b = relation sgn w c a b := by
  unfold cmpHolds relation
  match c with
  | 0 | 2 | 3 | 4 | 5 | 6 => rfl
  | 1 => exact decide_not
  | other + 7 => rfl

theorem mem_written {r : Regs} {h : Hints} {l : Nat} :
    l ∈ written r h ↔ l < 64 ∧ bitAt r.em l = true ∧ guardPasses r h l = true := by
  unfold written lanes
  rw [List.mem_filter, List.mem_range, Bool.and_eq_true]

theorem guardPasses_some {r : Regs} {h : Hints} {neg : Bool} {g l : Nat} (hg : h.guard = some (neg, g)) :
    guardPasses r h l = true ↔ bitAt (r.pred g) l ≠ neg := by
  unfold guardPasses
  rw [hg]
  exact bne_iff_ne

/-- A run of no hint but GUARD fits an instruction that takes GUARD alone (R97). -/
theorem hintsFit_guard {i : Instr} {h : Hints} (hfits : fits i = Fits.lane) (hlimm : h.limm = none) (hround : h.round = none)
    (hcache : h.cache = none) (hoffset : h.offset = none) (hopc : h.opc = none) : hintsFit i h = true := by
  have hguard : (h.guard.isNone || Fits.lane.guard) = true := Bool.or_true _
  unfold hintsFit
  simp only [hfits, hlimm, hround, hcache, hoffset, hopc, hguard, Option.isNone_none, Bool.true_or, Bool.and_true]

/-- A 32-bit type compares the low halves, a 64-bit type the whole registers (R122). -/
theorem cmpHolds_uniform {t : Nat} (ht : t < 4) (c a b : Nat) (r : Regs) :
    cmpHolds (t % 2 == 0) (formBits (t ≥ 2)) c (r.uniN a % 2 ^ formBits (t ≥ 2)) (r.uniN b % 2 ^ formBits (t ≥ 2)) =
      if t < 2 then relation (t == 0) 32 c (r.uniN a % 2 ^ 32) (r.uniN b % 2 ^ 32) else relation (t == 2) 64 c (r.uniN a) (r.uniN b) := by
  have whole : ∀ n, r.uniN n % 2 ^ 64 = r.uniN n := fun n => Nat.mod_eq_of_lt (r.uni n).isLt
  rw [cmpHolds_eq_relation]
  by_cases h : t < 2
  · have hwide : decide (t ≥ 2) = false := decide_eq_false (by omega)
    rw [if_pos h, hwide, Nat.mod_eq_of_lt h]
    rfl
  · have hwide : decide (t ≥ 2) = true := decide_eq_true (by omega)
    have hsgn : (t % 2 == 0) = (t == 2) := by
      rw [Bool.eq_iff_iff, beq_iff_eq, beq_iff_eq]
      omega
    rw [if_neg h, hwide, hsgn, formBits, if_pos rfl, whole, whole]

/-! ### The obligations -/

/-- Settles O4: one relation, of the operands at the width of the type, is written to all 64 bits; a word of major 0x21 holds t, C, pd, sa and sb in its fields. -/
theorem uniformCompares : Obligations.UniformCompares := by
  intro t c p a b ht hc
  refine ⟨writesPred_of (exec_cmpU t c p a b) rfl (fun _ d => ?_) (fun _ _ => rfl), fun hp ha hb => decodeTableWord_cmpU ht hc hp ha hb⟩
  rw [cmpHolds_uniform ht]
  rfl

/-- Settles O5: `sel` is a plain lane write; the lanes written are decided by `em` and the guard alone. -/
theorem selection : Obligations.Selection := by
  intro n d a b
  refine ⟨writesPlain_of (exec_sel n d a b) rfl (fun _ _ => rfl) (fun _ _ _ => rfl),
    fun hn hd ha hb => decodeTableWord_sel hn hd ha hb, fun h => ⟨rfl, ?_⟩, ?_⟩
  · intro hlimm hround hcache hoffset hopc
    exact hintsFit_guard rfl hlimm hround hcache hoffset hopc
  · intro r h neg g l hg
    rw [mem_written, guardPasses_some hg]

/-- Settles O6: each form is a write of one whole predicate, and major 0x30's table reads the fields as R124 gives them. -/
theorem predicatesCombined : Obligations.PredicatesCombined := by
  refine ⟨fun d a b => ⟨?_, ?_, ?_, ?_, ?_⟩, fun w hw => ?_⟩
  · exact writesPred_of (exec_pand d a b) rfl (fun _ _ => rfl) (fun _ _ => rfl)
  · exact writesPred_of (exec_por d a b) rfl (fun _ _ => rfl) (fun _ _ => rfl)
  · exact writesPred_of (exec_pxor d a b) rfl (fun _ _ => rfl) (fun _ _ => rfl)
  · exact writesPred_of (exec_pnot d a) rfl (fun _ _ => rfl) (fun _ _ => rfl)
  · exact writesPred_of (exec_pmovPp d a) rfl (fun _ _ => rfl) (fun _ _ => rfl)
  · exact (decodeTableWord_of_major hw (by decide) decodeWord_major30).trans (toOption_decode30 w)

end Sys2Proof.Machine
end
